-- ==== Sys2Proof/Word.lean ====
section
/-! DEFINITION. The word types of the device and their plainest arithmetic (02 R21-R22: a register element is 32 bits; R3: little-endian). -/

namespace Sys2Proof

/-- One byte. -/
abbrev Byte := BitVec 8

/-- One 32-bit register element or instruction word. -/
abbrev Word := BitVec 32

/-- One 64-bit value, held in an even and odd register pair (R22). -/
abbrev DWord := BitVec 64

/-- One bit for each lane of a group (R133). -/
abbrev Mask := BitVec 64

/-- A program counter: a 56-bit virtual byte address (R68). -/
abbrev Pc := BitVec 56

end Sys2Proof
end

