-- ==== Sys2Proof/Syntax.lean ====
section
/-! DEFINITION. The syntax of the model: one constructor for each row of spec/opcode_table.json. A word row's arguments are the operand fields of its encoding (05 R75, R79-R88), from the high bit to the low. An event row (no encoding) takes what the event is about: the agent, the operation, the message. VER and SC of a word (R72, R73) are read beside the instruction (Decode.lean). -/

namespace Sys2Proof

/-- An agent that issues words: a group in its lowest group slot of a core (R131), or a glint in a glint slot of a core (R261). -/
inductive AgentRef where
  | group (core slot : Nat)
  | glint (core slot : Nat)
  deriving DecidableEq, Repr

/-- Elements of vector registers: some registers in some lanes. -/
structure Elements where
  regs : BitVec 128
  lanes : Mask
  deriving DecidableEq, Repr

/-- A Daunolink message from the host (22 R386). -/
structure HostMsg where
  opc : Byte
  flags : Byte
  seq : BitVec 16
  ctx : Word
  len : Word
  cause : Byte
  rsv : BitVec 24
  payload : List Byte
  deriving DecidableEq, Repr

/-- The three remote forms (19 R353). -/
inductive RemoteKind where
  | rld | rst | ratom
  deriving DecidableEq, Repr

/-- One lane of a remote pass: its lane number, its address in the peer context, and its operand words (20 R374). -/
structure RemoteLane where
  lane : Nat
  addr : DWord
  data : List Word
  deriving DecidableEq, Repr

/-- Names the region of a peer whose staged stores a commit or a discard concerns (19 R356): the sending device, its context, and the sender's own number for the region. -/
structure StageKey where
  dev : Nat
  ctx : Nat
  region : Nat
  deriving DecidableEq, Repr

/-- A request of a remote pass, as it reaches the device that performs it (19 R354, 20 R375). `pass` is the sender's number for the pass; `ctx` is the context in which it is performed. `staged` names the region when the stores are staged (R356). `mode` is the rounding of a RATOM (20 R372). -/
structure RemoteReq where
  srcDev : Nat
  pass : Nat
  ctx : Nat
  kind : RemoteKind
  size : Nat
  op : Nat
  ord : BitVec 2
  mode : BitVec 3
  staged : Option StageKey
  lanes : List RemoteLane
  deriving DecidableEq, Repr

/-- How a remote pass ended (19 R354, R355): its values and flags (20 R375), or a failure with the low bits of REMOTE_FAILED (0 link, 1 fault at the peer, 2 time-out, 3 context gone) and the peer's cause. -/
inductive RemoteResp where
  | done (values : List (Nat × List Word)) (flags : BitVec 8)
  | failed (why : BitVec 2) (peerCause : Byte)
  deriving DecidableEq, Repr

/-- An epilogue row that a peer pushes into this device's memory (19 R358, 13 R283): the row's payload bytes, and for a block its slot and tag. -/
structure PushRow where
  srcDev : Nat
  ctx : Nat
  addr : DWord
  bytes : List Byte
  block : Option (Nat × BitVec 2 × BitVec 2)
  deriving DecidableEq, Repr

/-- What a message of a collective brings: the sender's parameters, a partial sum, a line of the result. -/
inductive CollKind where
  | start | sum | result
  deriving DecidableEq, Repr

/-- A message of a collective (19 R364 to R366). `start` shows a member's parameters and members; `sum` brings the partial sum of a rank for a line, as 32-bit words, or as the line's own bytes where it is one contribution; `result` brings a line of DST; `acknowledged` answers one of them, from the rank that it went to; `abort` says that the peer's collective failed, `mismatch` that its parameters differ, and `linkFailed` that a message to a rank failed with a cause. -/
inductive CollMsg where
  | start (rank : Nat) (shared : List Nat)
  | sum (rank line : Nat) (bytes : List Byte)
  | result (rank line : Nat) (bytes : List Byte)
  | acknowledged (rank line : Nat) (kind : CollKind)
  | abort
  | mismatch
  | linkFailed (rank line : Nat) (kind : CollKind) (cause : Byte)
  deriving DecidableEq, Repr

/-- What the patrol scrub finds on a line (22 R393). -/
inductive ScrubResult where
  | clean | corrected | uncorrectable
  deriving DecidableEq, Repr

/-- A unit of memory taken out of service (16 R331, MEMORY_OFFLINE). -/
inductive MemUnit where
  | slice (n : Nat)
  | stack (die : Nat) (n : Nat)
  deriving DecidableEq, Repr

/-- A register that the Lantern firmware writes and that has no row of its own (00 R5): a doubleword of a bind record (07 R145), or PTROOT of a die (09 R185). -/
inductive SysReg where
  | bindRecord (die : Nat) (index : Nat) (dword : Nat)
  | ptroot (die : Nat)
  | allowance (core : Nat) (cls : Nat)
  deriving DecidableEq, Repr

/-- One step of the table: an instruction word, or an event of the device. -/
inductive Instr where
  /-- R101: Vector integer add of the selected type, wrapping or saturating. -/
  | iadd (d : BitVec 7) (a : BitVec 7) (b : BitVec 7) (t : BitVec 2)
  /-- R101: Vector integer subtract of the selected type. -/
  | isub (d : BitVec 7) (a : BitVec 7) (b : BitVec 7) (t : BitVec 2)
  /-- R101: Vector integer multiply, low half. -/
  | imul (d : BitVec 7) (a : BitVec 7) (b : BitVec 7) (t : BitVec 2)
  /-- R102: Vector integer multiply, high half of the 2N-bit product. -/
  | imulh (d : BitVec 7) (a : BitVec 7) (b : BitVec 7) (t : BitVec 2)
  /-- R101: Vector integer multiply-add into the destination. -/
  | imad (d : BitVec 7) (a : BitVec 7) (b : BitVec 7) (t : BitVec 2)
  /-- R101: Vector integer minimum. -/
  | imin (d : BitVec 7) (a : BitVec 7) (b : BitVec 7) (t : BitVec 2)
  /-- R101: Vector integer maximum. -/
  | imax (d : BitVec 7) (a : BitVec 7) (b : BitVec 7) (t : BitVec 2)
  /-- R104: Vector integer compare writing a predicate per active lane. -/
  | icmp (d : BitVec 5) (a : BitVec 7) (b : BitVec 7) (r : BitVec 2) (t : BitVec 2)
  /-- R107: Bitwise AND of .b32 lanes. -/
  | and (d : BitVec 7) (a : BitVec 7) (b : BitVec 7)
  /-- R107: Bitwise OR of .b32 lanes. -/
  | or (d : BitVec 7) (a : BitVec 7) (b : BitVec 7)
  /-- R107: Bitwise XOR of .b32 lanes. -/
  | xor (d : BitVec 7) (a : BitVec 7) (b : BitVec 7)
  /-- R107: Bitwise AND with the complement of b. -/
  | andn (d : BitVec 7) (a : BitVec 7) (b : BitVec 7)
  /-- R107: Vector logical shift left. -/
  | shl (d : BitVec 7) (a : BitVec 7) (b : BitVec 7)
  /-- R107: Vector logical shift right. -/
  | shr (d : BitVec 7) (a : BitVec 7) (b : BitVec 7)
  /-- R107: Vector arithmetic shift right. -/
  | sar (d : BitVec 7) (a : BitVec 7) (b : BitVec 7)
  /-- R107: Vector rotate left. -/
  | rol (d : BitVec 7) (a : BitVec 7) (b : BitVec 7)
  /-- R109: Copies a 32-bit vector register to another in active lanes. -/
  | movB32 (d : BitVec 7) (a : BitVec 7)
  /-- R109: Copies a vector register pair in active lanes. -/
  | movB64 (d : BitVec 7) (a : BitVec 7)
  /-- R107: Bitwise complement of each lane. -/
  | not (d : BitVec 7) (a : BitVec 7)
  /-- R107: Counts set bits of each lane. -/
  | popc (d : BitVec 7) (a : BitVec 7)
  /-- R107: Counts leading zero bits of each lane. -/
  | clz (d : BitVec 7) (a : BitVec 7)
  /-- R107: Reverses the bits of each lane. -/
  | brev (d : BitVec 7) (a : BitVec 7)
  /-- R103: Integer absolute value, .i32 or .i64. -/
  | iabs (d : BitVec 7) (a : BitVec 7) (t : BitVec 1)
  /-- R103: Integer negation, .i32 or .i64. -/
  | ineg (d : BitVec 7) (a : BitVec 7) (t : BitVec 1)
  /-- R110: Reads a special register into every active lane of a vector register. -/
  | vectorMovs (d : BitVec 7) (n : BitVec 5)
  /-- R106: Writes a to d in lanes where the predicate selects, integer intent. -/
  | isel (d : BitVec 7) (a : BitVec 7) (k : BitVec 5) (g : BitVec 1)
  /-- R106: Writes a to d in lanes where the predicate selects, float intent. -/
  | fsel (d : BitVec 7) (a : BitVec 7) (k : BitVec 5) (g : BitVec 1)
  /-- R108: Extracts a bit field, zero- or sign-extended. -/
  | bfx (d : BitVec 7) (a : BitVec 7) (b : BitVec 7) (t : BitVec 1)
  /-- R108: Inserts a bit field into the destination. -/
  | bfi (d : BitVec 7) (a : BitVec 7) (b : BitVec 7)
  /-- R111: Computes a 64-bit address from a base pair and a scaled index. -/
  | lea (d : BitVec 7) (a : BitVec 7) (b : BitVec 7) (k : BitVec 2)
  /-- R111: Adds a sign-extended immediate to a 64-bit address pair. -/
  | aadd (d : BitVec 7) (a : BitVec 7) (i : BitVec 9)
  /-- R109: Writes a sign-extended immediate to each active lane. -/
  | movi (d : BitVec 7) (i : BitVec 16)
  /-- R112: FP32 add rounded once. -/
  | fadd (d : BitVec 7) (a : BitVec 7) (b : BitVec 7)
  /-- R112: FP32 subtract rounded once. -/
  | fsub (d : BitVec 7) (a : BitVec 7) (b : BitVec 7)
  /-- R112: FP32 multiply rounded once. -/
  | fmul (d : BitVec 7) (a : BitVec 7) (b : BitVec 7)
  /-- R112: FP32 fused multiply-add into d, rounded once. -/
  | ffma (d : BitVec 7) (a : BitVec 7) (b : BitVec 7)
  /-- R112: FP32 minimumNumber. -/
  | fmin (d : BitVec 7) (a : BitVec 7) (b : BitVec 7)
  /-- R112: FP32 maximumNumber. -/
  | fmax (d : BitVec 7) (a : BitVec 7) (b : BitVec 7)
  /-- R105: FP32 compare writing a predicate per active lane. -/
  | fcmp (d : BitVec 5) (a : BitVec 7) (b : BitVec 7) (r : BitVec 3)
  /-- R112: Clears the sign bit of each lane. -/
  | fabs (d : BitVec 7) (a : BitVec 7)
  /-- R112: Inverts the sign bit of each lane. -/
  | fneg (d : BitVec 7) (a : BitVec 7)
  /-- R113: Long-latency correctly rounded reciprocal. -/
  | frcp (d : BitVec 7) (a : BitVec 7)
  /-- R113: Long-latency reciprocal square root, RNE. -/
  | frsq (d : BitVec 7) (a : BitVec 7)
  /-- R113: Long-latency correctly rounded square root. -/
  | fsqrt (d : BitVec 7) (a : BitVec 7)
  /-- R113: Long-latency base-2 exponential, RNE. -/
  | fexp2 (d : BitVec 7) (a : BitVec 7)
  /-- R113: Long-latency base-2 logarithm, RNE. -/
  | flog2 (d : BitVec 7) (a : BitVec 7)
  /-- R113: Long-latency sine, RNE. -/
  | fsin (d : BitVec 7) (a : BitVec 7)
  /-- R113: Long-latency cosine, RNE. -/
  | fcos (d : BitVec 7) (a : BitVec 7)
  /-- R116: Packed FP16 or BF16 add of two elements per lane. -/
  | hadd2 (t : BitVec 1) (d : BitVec 7) (a : BitVec 7) (b : BitVec 7)
  /-- R116: Packed FP16 or BF16 multiply. -/
  | hmul2 (t : BitVec 1) (d : BitVec 7) (a : BitVec 7) (b : BitVec 7)
  /-- R116: Packed FP16 or BF16 fused multiply-add into d. -/
  | hfma2 (t : BitVec 1) (d : BitVec 7) (a : BitVec 7) (b : BitVec 7)
  /-- R116: Packed FP16 or BF16 minimumNumber. -/
  | hmin2 (t : BitVec 1) (d : BitVec 7) (a : BitVec 7) (b : BitVec 7)
  /-- R116: Packed FP16 or BF16 maximumNumber. -/
  | hmax2 (d : BitVec 7) (a : BitVec 7) (b : BitVec 7) (t : BitVec 1)
  /-- R117: Converts between types in vector or scalar form. -/
  | cvt (d : BitVec 7) (a : BitVec 7) (p : BitVec 4) (q : BitVec 4)
  /-- R119: Writes the flicker word of each lane's index and a stream. -/
  | flick (d : BitVec 7) (a : BitVec 7) (b : BitVec 7)
  /-- R120: Converts FP32 lanes with stochastic rounding. -/
  | fsr (d : BitVec 7) (a : BitVec 7) (b : BitVec 7) (t : BitVec 2)
  /-- R170: Computes the largest magnitude of a slice's active values. -/
  | bmax (d : BitVec 7) (a : BitVec 7) (p : BitVec 6)
  /-- R170: Copies a register block with its scale changed by DELTA. -/
  | bscale (d : BitVec 7) (a : BitVec 7) (p : BitVec 6)
  /-- R170: Quantises a slice's values into a register block. -/
  | bq (d : BitVec 7) (a : BitVec 7) (p : BitVec 6)
  /-- R170: Dequantises a register block into plain values. -/
  | bdq (d : BitVec 7) (a : BitVec 7) (p : BitVec 6)
  /-- R171: Packs a register block into a slot of a line-form pair. -/
  | bpack (d : BitVec 7) (a : BitVec 7) (p : BitVec 6)
  /-- R171: Unpacks a slot of a line-form pair into a register block. -/
  | bunpack (d : BitVec 7) (a : BitVec 7) (p : BitVec 6)
  /-- R136: Divergent branch that splits lanes and opens a meet-stack entry. -/
  | brd (k : BitVec 5) (g : BitVec 1) (t : BitVec 9) (m : BitVec 8)
  /-- R142: Folds the split into a sibling split or the pending side. -/
  | merge
  /-- R142: Makes the split arrive at its entry at once. -/
  | meet
  /-- R139: Sends lanes out of n nested regions to the outer meet point. -/
  | brk (n : BitVec 4)
  /-- R163: Reads %exec into a scalar pair. -/
  | exrd (d : BitVec 7)
  /-- R163: Writes %exec from a scalar pair, limited to LIVE. -/
  | exwr (a : BitVec 7)
  /-- R163: Clears %exec bits of active lanes whose predicate is 0. -/
  | expr (k : BitVec 5)
  /-- R165: Reads each lane's value from an indexed lane. -/
  | shflIdx (d : BitVec 7) (a : BitVec 7) (b : BitVec 7)
  /-- R165: Reads each lane's value from the lane δ below. -/
  | shflUp (d : BitVec 7) (a : BitVec 7) (b : BitVec 7)
  /-- R165: Reads each lane's value from the lane δ above. -/
  | shflDown (d : BitVec 7) (a : BitVec 7) (b : BitVec 7)
  /-- R165: Reads each lane's value from lane l xor δ. -/
  | shflXor (d : BitVec 7) (a : BitVec 7) (b : BitVec 7)
  /-- R166: Sets a scalar when some active lane's predicate is 1. -/
  | voteAny (d : BitVec 7) (k : BitVec 5)
  /-- R166: Sets a scalar when no active lane's predicate is 0. -/
  | voteAll (d : BitVec 7) (k : BitVec 5)
  /-- R166: Writes the active lanes' predicates as a 64-bit mask. -/
  | voteBallot (d : BitVec 7) (k : BitVec 5)
  /-- R167: Reduces the active lanes' elements into a scalar register. -/
  | redg (d : BitVec 7) (a : BitVec 7) (o : BitVec 4)
  /-- R121: Scalar add of the selected type. -/
  | sadd (d : BitVec 7) (a : BitVec 7) (b : BitVec 7) (t : BitVec 2)
  /-- R121: Scalar subtract. -/
  | ssub (d : BitVec 7) (a : BitVec 7) (b : BitVec 7) (t : BitVec 2)
  /-- R121: Scalar multiply. -/
  | smul (d : BitVec 7) (a : BitVec 7) (b : BitVec 7) (t : BitVec 2)
  /-- R121: Scalar bitwise AND. -/
  | sand (d : BitVec 7) (a : BitVec 7) (b : BitVec 7)
  /-- R121: Scalar bitwise OR. -/
  | sor (d : BitVec 7) (a : BitVec 7) (b : BitVec 7)
  /-- R121: Scalar bitwise XOR. -/
  | sxor (d : BitVec 7) (a : BitVec 7) (b : BitVec 7)
  /-- R121: Scalar shift left. -/
  | sshl (d : BitVec 7) (a : BitVec 7) (b : BitVec 7)
  /-- R121: Scalar logical shift right. -/
  | sshr (d : BitVec 7) (a : BitVec 7) (b : BitVec 7)
  /-- R122: Scalar compare writing 1 or 0. -/
  | scmp (d : BitVec 5) (a : BitVec 7) (b : BitVec 7) (r : BitVec 2) (t : BitVec 2)
  /-- R121: Writes a sign-extended immediate to a scalar register. -/
  | smovImmediate (d : BitVec 7) (i : BitVec 16)
  /-- R121: Copies one scalar register to another. -/
  | smov (d : BitVec 7) (a : BitVec 7)
  /-- R123: Reads one vector lane into a scalar register. -/
  | srd (d : BitVec 7) (a : BitVec 7) (n : BitVec 6)
  /-- R123: Writes a scalar into one vector lane. -/
  | swr (d : BitVec 7) (a : BitVec 7) (n : BitVec 6)
  /-- R110: Reads a special register into a scalar register or pair. -/
  | scalarMovs (d : BitVec 7) (a : BitVec 7) (n : BitVec 5)
  /-- R109: Writes a scalar register to every active lane. -/
  | broadcastMov (d : BitVec 7) (a : BitVec 7)
  /-- R126: Flat relaxed load of one word per lane. -/
  | ldg (d : BitVec 7) (a : BitVec 7) (o : BitVec 9)
  /-- R126: Flat relaxed store of one word per lane. -/
  | stg (d : BitVec 7) (a : BitVec 7) (o : BitVec 9)
  /-- R230: Scoped global load with an order. -/
  | ld (d : BitVec 7) (a : BitVec 7) (r : BitVec 2) (c : BitVec 3) (z : BitVec 3)
  /-- R230: Scoped global store with an order. -/
  | st (d : BitVec 7) (a : BitVec 7) (r : BitVec 2) (c : BitVec 3) (z : BitVec 3)
  /-- R231: Load from the team scratchpad. -/
  | lds (d : BitVec 7) (a : BitVec 7) (z : BitVec 3)
  /-- R231: Store to the team scratchpad. -/
  | sts (d : BitVec 7) (a : BitVec 7) (z : BitVec 3)
  /-- R231: Load through the cluster window. -/
  | ldw (d : BitVec 7) (a : BitVec 7) (z : BitVec 3)
  /-- R232: Loads block records into register form. -/
  | bld (d : BitVec 7) (a : BitVec 6) (b : BitVec 7) (c : BitVec 2)
  /-- R232: Stores register-form blocks as records. -/
  | bst (d : BitVec 7) (a : BitVec 6) (b : BitVec 7) (c : BitVec 2)
  /-- R234: Value-returning atomic per active lane. -/
  | atom (d : BitVec 7) (a : BitVec 7) (o : BitVec 4) (c : BitVec 3) (r : BitVec 2)
  /-- R234: Reduction per active lane returning nothing. -/
  | red (d : BitVec 7) (a : BitVec 7) (o : BitVec 4) (c : BitVec 3) (r : BitVec 2)
  /-- R219: Orders accesses per domain and scope, optionally invalidating translations. -/
  | fence (m : BitVec 4) (c : BitVec 3) (p : BitVec 1) (r : BitVec 2)
  /-- R202: Parks until a version word reaches a value. -/
  | waitge (d : BitVec 7) (a : BitVec 7) (c : BitVec 3)
  /-- R202: Increments a version word with release order. -/
  | vpub (a : BitVec 7) (c : BitVec 3)
  /-- R241: Converts a private-window address to its backing address. -/
  | privaddr (d : BitVec 7) (a : BitVec 7)
  /-- R242: Prefetches lines into the L1 or home slice. -/
  | pref (a : BitVec 7) (l : BitVec 2)
  /-- R238: Merges the deterministic-atomic entries of one address. -/
  | dsync (a : BitVec 7)
  /-- R238: Merges every address holding entries of the grid. -/
  | dsyncAll
  /-- R235: Sends a deterministic FP32 add entry to the home slice. -/
  | atomDetFadd (d : BitVec 7) (a : BitVec 7)
  /-- R235: Sends a deterministic packed BF16 add entry. -/
  | atomDetBfadd2 (d : BitVec 7) (a : BitVec 7)
  /-- R293: Starts a copy between global memory and the team tile. -/
  | cpy (r : BitVec 1) (p : BitVec 6) (k : BitVec 4) (n : BitVec 1)
  /-- R294: Starts a multicast copy into cluster scratchpads. -/
  | cpym (p : BitVec 6) (r : BitVec 7) (k : BitVec 4)
  /-- R295: Starts a bulk read whose lines spawn glints. -/
  | bread (p : BitVec 6) (h : BitVec 6) (k : BitVec 4)
  /-- R265: Ends a glint, performing its buffered effects. -/
  | gret
  /-- R298: Initialises a named barrier. -/
  | barinit (k : BitVec 4) (l : BitVec 1) (x : BitVec 7)
  /-- R299: Arrives at a barrier without waiting. -/
  | bararr (k : BitVec 4) (d : BitVec 7)
  /-- R300: Adds expected bytes to a barrier's PEND. -/
  | barexp (k : BitVec 4) (a : BitVec 7)
  /-- R301: Waits for a barrier phase to complete. -/
  | barwait (k : BitVec 4) (a : BitVec 7)
  /-- R302: Reads a barrier's state without waiting. -/
  | bartest (k : BitVec 4) (d : BitVec 6)
  /-- R172: Arrives at a named barrier and parks until the phase completes. -/
  | tbar (k : BitVec 4)
  /-- R304: Queues clearing of an accumulator tile. -/
  | mzero (t : BitVec 6)
  /-- R304: Queues loading an accumulator tile from scratchpad. -/
  | mlda (t : BitVec 6) (a : BitVec 7)
  /-- R304: Queues storing an accumulator tile to scratchpad. -/
  | msta (t : BitVec 6) (a : BitVec 7)
  /-- R305: Queues a matrix loop of K-steps onto a tile. -/
  | mloop (t : BitVec 6) (p : BitVec 6) (q : BitVec 6)
  /-- R306: Queues a distance loop with its epilogue. -/
  | mdist (t : BitVec 6) (p : BitVec 6) (q : BitVec 6)
  /-- R308: Queues a top-k merge epilogue of a tile. -/
  | mtopk (t : BitVec 6) (a : BitVec 7)
  /-- R307: Queues an epilogue retiring a tile. -/
  | mepi (t : BitVec 6) (a : BitVec 7)
  /-- R309: Queues a write of the routing register. -/
  | mroute (a : BitVec 7)
  /-- R310: Closes a matrix batch and returns its number. -/
  | mfence (d : BitVec 7)
  /-- R311: Parks until a matrix batch completes. -/
  | mwait (a : BitVec 7)
  /-- R173: Joins a rendezvous forming a convened set. -/
  | conv (p : BitVec 6)
  /-- R174: Ends a convened set once its register reads finish. -/
  | disb
  /-- R375: Remote load from a peer, one pass per class. -/
  | rld (d : BitVec 7) (q : BitVec 5) (r : BitVec 2) (z : BitVec 3)
  /-- R375: Remote store to a peer, staged inside a region. -/
  | rst (d : BitVec 7) (q : BitVec 5) (r : BitVec 2) (z : BitVec 3)
  /-- R375: Remote atomic at a peer. -/
  | ratom (d : BitVec 7) (q : BitVec 5) (o : BitVec 4) (r : BitVec 2)
  /-- R377: Reads a send-allowance register. -/
  | alwr (d : BitVec 7) (a : BitVec 7)
  /-- R378: Branches on the allowance state of a class. -/
  | balw (a : BitVec 7) (c : BitVec 2) (o : BitVec 9)
  /-- R379: Starts a collective from a parameter block. -/
  | coll (p : BitVec 6) (d : BitVec 7)
  /-- R380: Parks until a collective completes and returns its status. -/
  | cwait (d : BitVec 7) (a : BitVec 7)
  /-- R381: Adds to a chunk counter with release at device scope. -/
  | chunkinc (p : BitVec 6) (a : BitVec 7)
  /-- R382: Asks firmware to collapse a mirrored block. -/
  | mighint (p : BitVec 6)
  /-- R125: Uniform relative branch. -/
  | bra (o : BitVec 23)
  /-- R125: Writes the return address to a pair and branches. -/
  | call (l : BitVec 6) (o : BitVec 12)
  /-- R125: Branches on a scalar register being zero or non-zero. -/
  | brc (r : BitVec 7) (n : BitVec 1) (o : BitVec 10)
  /-- R125: Returns to the address in a scalar pair. -/
  | ret (p : BitVec 6)
  /-- R125: Jumps to the address in a scalar pair. -/
  | jmpi (p : BitVec 6)
  /-- R164: Ends the split's lanes and settles their entries. -/
  | exit
  /-- R175: Launches a new root grid from a launch record. -/
  | launch (p : BitVec 6) (d : BitVec 7)
  /-- R175: Launches a root grid whose team count is read indirectly. -/
  | launchi (p : BitVec 6) (d : BitVec 7)
  /-- R175: Launches a child grid with half the team's weight. -/
  | spawn (p : BitVec 6) (d : BitVec 7)
  /-- R176: Store-release of a value to an event word. -/
  | evpub (p : BitVec 6) (q : BitVec 6)
  /-- R176: Parks until an event word reaches a value. -/
  | evwait (p : BitVec 6) (q : BitVec 6)
  /-- R314: Opens a region and copies the shadow set. -/
  | rbeg (m : BitVec 16)
  /-- R315: Commits the open region's buffered effects. -/
  | rcom
  /-- R314: Commits the region and opens a new one. -/
  | safe (m : BitVec 16)
  /-- R336: Raises SOFT_TRAP with code 0x18 + n. -/
  | trap (n : BitVec 3)
  /-- R336: Raises the SVC cause. -/
  | svc (n : BitVec 16)
  /-- R326: Leaves the handler and resumes the trapping split. -/
  | eret
  /-- R338: Performs one loss-scale update and writes the step word. -/
  | lsupd (d : BitVec 7)
  /-- R339: Writes the group's %seed when permitted. -/
  | seedset (p : BitVec 6)
  /-- R340: Reads %clock or %time after earlier instructions complete. -/
  | clkrd (d : BitVec 6) (l : BitVec 1)
  /-- R336: Raises HALT, which reports the grid. -/
  | halt (n : BitVec 16)
  /-- R336: Raises BREAKPOINT. -/
  | bkpt (n : BitVec 16)
  /-- R341: Reads which completion flags are non-zero. -/
  | flrd (d : BitVec 7)
  /-- R341: Reads the count of one completion flag. -/
  | flrdCnt (d : BitVec 7) (k : BitVec 4)
  /-- R342: Writes a special register from a scalar register or pair. -/
  | wrs (n : BitVec 5) (a : BitVec 7)
  /-- R89: SCHED word with zero payload that binds to nothing. -/
  | nop
  /-- R88: SCHED hint setting a stall and priority nudge for its target. -/
  | hsched (t : BitVec 4) (n : BitVec 2)
  /-- R77: IMM hint widening the next instruction's immediate. -/
  | himm (h : BitVec 21)
  /-- R90: PRED hint opening a guard window. -/
  | hpred (k : BitVec 5) (g : BitVec 1) (n : BitVec 3)
  /-- R88: MOD hint setting rounding, saturation, flushing, cache policy and flag B. -/
  | hmod (r : BitVec 1) (m : BitVec 3) (t : BitVec 1) (f : BitVec 1) (c : BitVec 2) (b : BitVec 1) (z : BitVec 1)
  /-- R66: Clause header that waits on flags and names flags A and B. -/
  | clh (w : BitVec 12) (a : BitVec 4) (b : BitVec 4) (c : BitVec 1) (n : BitVec 1)
  /-- R137: A split whose PC equals its entry's meet PC arrives and the entry may settle. -/
  | meetArrival (ag : AgentRef) (slot : Nat)
  /-- R138: Two splits with the same PC and entry merge into the lower slot. -/
  | splitMerge (ag : AgentRef)
  /-- R64: A long-latency operation completes and its flag count falls. -/
  | longLatencyCompletion (ag : AgentRef) (op : Nat) (now : Elements) (last : Bool)
  /-- R88: A SCHED stall count elapses and the target may issue. -/
  | schedStallExpiry (ag : AgentRef)
  /-- R149: A group eligible for 128 cycles without issue is treated as class 0. -/
  | ageingPromotion (ag : AgentRef)
  /-- R184: A home-slice request waiting 256 cycles is served ahead of later ones. -/
  | sliceWaitPromotion (req : Nat)
  /-- R320: The region's issue count would reach 2,049 and the word traps instead. -/
  | safepointOverrun (ag : AgentRef)
  /-- R264: A glint reaches its 129th issue slot and takes a fatal trap. -/
  | glintBudget (ag : AgentRef)
  /-- R318: The 65,536th consecutive abort at one RBEG traps instead of re-issuing. -/
  | abortLimit (ag : AgentRef)
  /-- R202: A wait beyond slice capacity re-reads its version word at an interval. -/
  | waitgeRepoll (ag : AgentRef)
  /-- R318: A parked group re-issues at the RBEG address once its cause clears. -/
  | regionReplay (ag : AgentRef)
  /-- R322: An imprecise trap reaches a group at its next safe point. -/
  | impreciseTrapDelivery (ag : AgentRef)
  /-- R153: An accepted launch proceeds once every wait-list entry is satisfied. -/
  | waitListSatisfied (launch : Nat)
  /-- R399: The ROM reuses a bind record once it is BOUND after waiting for a free one. -/
  | slotRecordReuse (launch : Nat)
  /-- R147: Dispatch binds the next team of a record to a core with free resources. -/
  | teamBind (die : Nat) (rec : Nat)
  /-- R191: An empty core writes back its L1 and adopts a new carve-out split. -/
  | repartition (core : Nat) (carve : Nat)
  /-- R156: A finished team publishes its completion word and returns its weight. -/
  | teamCompletion (team : Nat)
  /-- R196: An engine write lands a scratchpad line and sets it present. -/
  | engineLineLanding (op : Nat) (line : Nat)
  /-- R255: An engine line fails and its destination is poisoned or left unwritten. -/
  | engineLineFailure (op : Nat) (line : Nat)
  /-- R255: An engine access waiting on a page fault proceeds once the page is resident. -/
  | engineAccessRetry (op : Nat) (line : Nat)
  /-- R255: An engine wait reaches ENGWAIT and the line fails with ENGINE_TIMEOUT. -/
  | engineWaitTimeout (op : Nat) (line : Nat)
  /-- R254: A copy writes its completion record, arrives at its barrier and clears its flag. -/
  | copyCompletion (op : Nat)
  /-- R261: A bulk-read line returns into the core's return buffer. -/
  | burstReturn (op : Nat) (burst : Nat)
  /-- R261: A buffered line spawns a glint in a free glint slot. -/
  | glintSpawn (core : Nat) (entry : Nat)
  /-- R274: The array performs one K-step of a queued operation. -/
  | matrixKStep (op : Nat)
  /-- R282: An epilogue converts a retiring tile and starts its delivery. -/
  | epilogueStep (op : Nat)
  /-- R283: A converted epilogue row is written or acknowledged. -/
  | epilogueRowDelivery (op : Nat) (row : Nat)
  /-- R275: A matrix batch completes in number order and releases MWAIT. -/
  | batchCompletion (queue : Nat)
  /-- R236: A deterministic-atomic entry enters a holding buffer at the home slice. -/
  | detEntryArrival (entry : Nat)
  /-- R328: A group of a pre-empted context stops at its stop point and saves state. -/
  | groupPreemptStop (ag : AgentRef)
  /-- R329: Once engines are at rest the context's core state is written to the save area. -/
  | contextSaveWrite (ctx : Nat)
  /-- R370: Firmware collapses a mirrored 64 KiB block for its writer. -/
  | mirrorCollapse (request : Nat)
  /-- R375: A peer performs a remote pass's lanes in its context. -/
  | remoteRequestArrival (req : RemoteReq)
  /-- R375: A pass's response arrives, credits the allowance and writes results. -/
  | remoteResponse (pass : Nat) (resp : RemoteResp)
  /-- R356: A commit message makes the peer perform a region's staged stores. -/
  | stagedCommit (src : StageKey)
  /-- R356: A discard message drops a region's staged stores at the peer. -/
  | stagedDiscard (src : StageKey)
  /-- R356: A commit undelivered within ENGWAIT reports the grid. -/
  | commitDeliveryTimeout (commit : Nat)
  /-- R358: A pushed epilogue row is written at the peer and acknowledged. -/
  | pushRowArrival (push : PushRow)
  /-- R358: An engine fabric step still failing after ENGWAIT fails with ENGINE_TIMEOUT. -/
  | pushResendTimeout (op : Nat) (row : Nat)
  /-- R365: A collective message arrives and is added or written in the fixed order. -/
  | collectiveMessage (coll : Nat) (msg : CollMsg)
  /-- R368: A chunk counter reaches TARGET and the engine takes up the chunk. -/
  | chunkReady (coll : Nat) (chunk : Nat)
  /-- R368: A chunk counter below TARGET for ENGWAIT fails the collective. -/
  | chunkCounterTimeout (coll : Nat) (chunk : Nat)
  /-- R379: A member's collective completes and releases CWAIT. -/
  | collectiveCompletion (coll : Nat)
  /-- R348: A port retrains on a link error and fails its unanswered requests. -/
  | portRetrain (port : Nat)
  /-- R348: A retrained port comes up and waiting requests use it. -/
  | portUp (port : Nat)
  /-- R348: A request with no up port waits ENGWAIT and fails with the time-out cause. -/
  | portWaitTimeout (pass : Nat)
  /-- R390: Reset runs the boot sequence on each Lantern core. -/
  | deviceReset
  /-- R393: The periodic scrub reads a line, correcting or poisoning it. -/
  | patrolScrub (line : Nat) (found : ScrubResult)
  /-- R398: A die reaching 115 °C reports every context and stops the device. -/
  | thermalTrip (die : Nat)
  /-- R398: Power above 2,640 W for over 10 ms at 1.2 GHz trips the device. -/
  | powerTrip
  /-- R396: ACLK is lowered by 100 MHz as a bound is approached. -/
  | aclkStepDown
  /-- R396: ACLK is raised again once both bounds are met. -/
  | aclkStepUp
  /-- R331: The Lantern watchdog on a context expires and reports the grid. -/
  | watchdogExpiry (ctx : Nat)
  /-- R391: The one-second ATTEST refusal window ends. -/
  | attestRefusalEnd
  /-- R387: Host command writing bytes at an IA through the home slices. -/
  | load (msg : HostMsg)
  /-- R387: Host command writing page-table entries and invalidating. -/
  | map (msg : HostMsg)
  /-- R387: MAP with FLAGS bit 0 adding frames to a die's table pool. -/
  | mapPoolFrames (msg : HostMsg)
  /-- R387: Host command invalidating a page-table entry. -/
  | unmap (msg : HostMsg)
  /-- R388: Host command creating or replacing a context record. -/
  | ctx (msg : HostMsg)
  /-- R152: Host command launching a grid from a launch record. -/
  | launchCommand (msg : HostMsg)
  /-- R328: Host command stopping and saving a context. -/
  | preempt (msg : HostMsg)
  /-- R330: Host command rebinding a pre-empted context's teams. -/
  | resume (msg : HostMsg)
  /-- R387: Host command reporting and freeing a context. -/
  | abort (msg : HostMsg)
  /-- R392: Host command returning bytes of the query space, optionally clearing counters. -/
  | query (msg : HostMsg)
  /-- R391: Host command returning a signed attestation report. -/
  | attest (msg : HostMsg)
  /-- R387: DEBUG sub 0 retraining a UALink port. -/
  | debugPortRetrain (msg : HostMsg)
  /-- R387: DEBUG sub 1 raising DEBUG_INJECT in every bound group of the context. -/
  | debugInject (msg : HostMsg)
  /-- R336: DEBUG sub 2 turning single stepping on. -/
  | debugStepOn (msg : HostMsg)
  /-- R336: DEBUG sub 3 turning single stepping off. -/
  | debugStepOff (msg : HostMsg)
  /-- R390: Host command verifying and installing a patch blob. -/
  | patch (msg : HostMsg)
  /-- R387: Host command setting the device number. -/
  | devno (msg : HostMsg)
  /-- R359: Host command writing CAP and LOW of allowance classes on every core. -/
  | alwset (msg : HostMsg)
  /-- R386: A message with an unknown OPC or bad header gets STATUS 1 and no effect. -/
  | unknownOpc (msg : HostMsg)
  /-- R5: A write to a register that has no row of its own. -/
  | registerWrite (reg : SysReg) (value : DWord)
  /-- R78: Issue of a word that matches no assigned encoding (unassigned or reserved major, unassigned function value, or a must-be-zero bit set) traps ILLEGAL_OPCODE or RESERVED_FIELD at decode. -/
  | illegalOpcode (word : Word)
  /-- R331: A home slice or HBM4E stack is taken out of service and accesses to it raise MEMORY_OFFLINE and report the grid. -/
  | memoryOffline (unit : MemUnit)
  /-- R331: An unrecoverable internal error occurs and reports every affected context with MACHINE_CHECK. -/
  | machineCheck (ctxs : List Nat)
  /-- R331: A Lantern firmware fault reports the affected grid with FIRMWARE as an imprecise cause. -/
  | lanternFirmwareFault (ctx : Nat)
  deriving DecidableEq, Repr

end Sys2Proof
end

