-- ==== Sys2Proof/WellFormed.lean ====
section
/-! DEFINITION. Which instructions are well-formed: what the fields of a word must satisfy whatever agent issues it (05 R74-R76, R83, R88). What depends on the group (its width, its register count, its hints) is checked when the word issues. -/

namespace Sys2Proof

/-- The order and scope codes of a memory form are assigned (R83). -/
def scopeOk (ord : BitVec 2) (sc : BitVec 3) : Bool :=
  sc.toNat < 5 || (sc = 5 && (ord = 1 || ord = 3))

/-- A register that a pair operand names is even (R22). -/
def evenReg (n : BitVec 7) : Bool := n.toNat % 2 = 0

/-- A register operand of an integer type: even when the type is 64 bits wide (R79, R100). -/
def typedReg (t : BitVec 2) (n : BitVec 7) : Bool := t.toNat < 2 || evenReg n

/-- The predicate exists (R76). -/
def predOk (k : BitVec 5) : Bool := k.toNat < 24

/-- The operand group of an atomic starts at a multiple of its size in registers (R233). -/
def atomReg (o : BitVec 4) (d : BitVec 7) : Bool :=
  if o = 15 then d.toNat % 4 = 0 else if o = 1 || o = 10 then evenReg d else true

/-- A register that holds special register n: even when n is 64 bits wide (R86). -/
def specialReg (n : BitVec 5) (d : BitVec 7) : Bool :=
  if n = 7 || n = 8 || n = 14 || n = 15 then evenReg d else true

/-- The checks of a word that no context decides. Events of the device have no encoding and no check. -/
def Instr.wf : Instr → Bool
  | .iadd d a b t => typedReg t d && typedReg t a && typedReg t b
  | .isub d a b t => typedReg t d && typedReg t a && typedReg t b
  | .imul d a b t => typedReg t d && typedReg t a && typedReg t b
  | .imulh d a b t => typedReg t d && typedReg t a && typedReg t b
  | .imad d a b t => typedReg t d && typedReg t a && typedReg t b
  | .imin d a b t => typedReg t d && typedReg t a && typedReg t b
  | .imax d a b t => typedReg t d && typedReg t a && typedReg t b
  | .icmp d a b _ t => predOk d && typedReg t a && typedReg t b
  | .movB64 d a => evenReg d && evenReg a
  | .iabs d a t => t = 0 || (evenReg d && evenReg a)
  | .ineg d a t => t = 0 || (evenReg d && evenReg a)
  | .vectorMovs d n => n.toNat ≤ 0x10 && specialReg n d
  | .isel _ _ k _ => predOk k
  | .fsel _ _ k _ => predOk k
  | .lea d a _ _ => evenReg d && evenReg a
  | .aadd d a _ => evenReg d && evenReg a
  | .fcmp d _ _ r => predOk d && r.toNat < 5
  | .cvt d a p q =>
    let wide (t : BitVec 4) : Bool := t = 3 || t = 7 || t = 11
    ((p.toNat < 11 && q.toNat < 11 && p != q)
      || (p = 11 && (q = 2 || q = 3 || q = 6 || q = 7 || q = 10))
      || (q = 11 && (p = 2 || p = 3 || p = 6 || p = 7 || p = 10)))
    && (!wide p || evenReg d) && (!wide q || evenReg a)
  | .flick _ a _ => evenReg a
  | .fsr _ a b _ => evenReg a && evenReg b
  | .bpack d _ _ => evenReg d
  | .bunpack _ a _ => evenReg a
  | .brd k _ _ _ => predOk k
  | .exrd d => evenReg d
  | .exwr a => evenReg a
  | .expr k => predOk k
  | .voteAny _ k => predOk k
  | .voteAll _ k => predOk k
  | .voteBallot d k => evenReg d && predOk k
  | .redg _ _ o => o.toNat ≤ 10
  | .sadd d a b t => t.toNat % 2 = 0 || (evenReg d && evenReg a && evenReg b)
  | .ssub d a b t => t.toNat % 2 = 0 || (evenReg d && evenReg a && evenReg b)
  | .smul d a b t => t.toNat % 2 = 0 || (evenReg d && evenReg a && evenReg b)
  | .scmp _ a b _ t => t != 3 || (evenReg a && evenReg b)
  | .scalarMovs d a n => a = 0 && n != 0 && n.toNat ≤ 0x10 && specialReg n d
  | .ldg _ a _ => evenReg a
  | .stg _ a _ => evenReg a
  | .ld d a r c z => scopeOk r c && z.toNat < 6 && evenReg a && (z != 5 || evenReg d)
  | .st d a r c z => scopeOk r c && z.toNat < 6 && evenReg a && (z != 5 || evenReg d)
  | .lds d _ z => z.toNat < 6 && (z != 5 || evenReg d)
  | .sts d _ z => z.toNat < 6 && (z != 5 || evenReg d)
  | .ldw d _ z => z.toNat < 6 && (z != 5 || evenReg d)
  | .bld _ _ _ c => c != 3
  | .bst _ _ _ c => c != 3
  | .atom d a o c r => scopeOk r c && evenReg a && atomReg o d
  | .red d a o c r => scopeOk r c && evenReg a && atomReg o d && o != 9 && o != 10 && o != 15
  | .fence m c p r => (m != 0 || p = 1) && (r != 0 || p = 1) && (p = 0 || c = 3 || c = 4) && scopeOk r c
  | .waitge d a c => c.toNat < 6 && evenReg d && evenReg a
  | .vpub a c => c.toNat < 5 && evenReg a
  | .privaddr d a => evenReg d && evenReg a
  | .pref a l => l.toNat < 2 && evenReg a
  | .dsync a => evenReg a
  | .atomDetFadd _ a => evenReg a
  | .atomDetBfadd2 _ a => evenReg a
  | .cpy _ _ k n => n = 0 || k = 0
  | .bread p _ _ => p.toNat < 63
  | .barinit _ _ x => x != 0
  | .mloop _ _ q => q.toNat < 63
  | .mdist _ _ q => q.toNat < 62
  | .rld d _ _ z => z.toNat < 6 && (z != 5 || evenReg d)
  | .rst d _ _ z => z.toNat < 6 && (z != 5 || evenReg d)
  | .ratom d _ o _ => atomReg o d
  | .alwr d _ => evenReg d
  | .flrdCnt _ k => k.toNat < 12
  | .wrs n a => n.toNat ≤ 0x10 && specialReg n a
  | .hsched t n => n != 3 && (t != 0 || n != 0)
  | .hpred k _ _ => predOk k
  | .hmod r m _ _ _ _ _ => m.toNat < 5 && (r = 1 || m = 0)
  | _ => true

end Sys2Proof
end

