-- ==== Sys2Proof/Decode.lean ====
section
/-! DEFINITION. Decoding of instruction words (05 R72-R91), the decode checks that a word alone decides (R74), and the encoder. Bits are read from the word as a number: bit 0 is the least significant. -/

namespace Sys2Proof

/-- The n bits of `w` from bit `lo` upward (R3). -/
def fld (w lo n : Nat) : BitVec n := BitVec.ofNat n (w / 2 ^ lo)

/-- Why a word is no instruction (R74): a VER of 10 or 11; an unassigned major opcode; an unassigned function value, sub-operation or op; must-be-zero bits that are set in the encoding of the instruction named. -/
inductive DecodeErr where
  | schedVer
  | major
  | function
  | reserved (i : Instr)
  deriving DecidableEq, Repr

/-- An instruction if its must-be-zero bits, gathered in `z`, are zero. -/
def mbz (z : Nat) (i : Instr) : Except DecodeErr Instr :=
  if z = 0 then .ok i else .error (.reserved i)

/-- Decodes the operands `w` of a word under major opcode `maj` (R78-R84, R87, R88). -/
def decodeMajor (maj w : Nat) : Except DecodeErr Instr :=
  match maj with
  | 0x00 => .ok (.iadd (fld w 16 7) (fld w 9 7) (fld w 2 7) (fld w 0 2))
  | 0x01 => .ok (.isub (fld w 16 7) (fld w 9 7) (fld w 2 7) (fld w 0 2))
  | 0x02 => .ok (.imul (fld w 16 7) (fld w 9 7) (fld w 2 7) (fld w 0 2))
  | 0x03 => .ok (.imulh (fld w 16 7) (fld w 9 7) (fld w 2 7) (fld w 0 2))
  | 0x04 => .ok (.imad (fld w 16 7) (fld w 9 7) (fld w 2 7) (fld w 0 2))
  | 0x05 => .ok (.imin (fld w 16 7) (fld w 9 7) (fld w 2 7) (fld w 0 2))
  | 0x06 => .ok (.imax (fld w 16 7) (fld w 9 7) (fld w 2 7) (fld w 0 2))
  | 0x07 => .ok (.icmp (fld w 18 5) (fld w 11 7) (fld w 4 7) (fld w 2 2) (fld w 0 2))
  | 0x08 =>
    match w % 4 with
    | 0 => .ok (.and (fld w 16 7) (fld w 9 7) (fld w 2 7))
    | 1 => .ok (.or (fld w 16 7) (fld w 9 7) (fld w 2 7))
    | 2 => .ok (.xor (fld w 16 7) (fld w 9 7) (fld w 2 7))
    | _ => .ok (.andn (fld w 16 7) (fld w 9 7) (fld w 2 7))
  | 0x09 =>
    match w % 4 with
    | 0 => .ok (.shl (fld w 16 7) (fld w 9 7) (fld w 2 7))
    | 1 => .ok (.shr (fld w 16 7) (fld w 9 7) (fld w 2 7))
    | 2 => .ok (.sar (fld w 16 7) (fld w 9 7) (fld w 2 7))
    | _ => .ok (.rol (fld w 16 7) (fld w 9 7) (fld w 2 7))
  | 0x0A =>
    match w % 512 with
    | 0 => .ok (.movB32 (fld w 16 7) (fld w 9 7))
    | 1 => .ok (.movB64 (fld w 16 7) (fld w 9 7))
    | 2 => .ok (.not (fld w 16 7) (fld w 9 7))
    | 3 => .ok (.popc (fld w 16 7) (fld w 9 7))
    | 4 => .ok (.clz (fld w 16 7) (fld w 9 7))
    | 5 => .ok (.brev (fld w 16 7) (fld w 9 7))
    | 6 => .ok (.iabs (fld w 16 7) (fld w 9 7) (fld w 0 1))
    | 7 => .ok (.iabs (fld w 16 7) (fld w 9 7) (fld w 0 1))
    | 8 => .ok (.ineg (fld w 16 7) (fld w 9 7) (fld w 0 1))
    | 9 => .ok (.ineg (fld w 16 7) (fld w 9 7) (fld w 0 1))
    | x => if 256 ≤ x ∧ x ≤ 287 then (mbz (w / 2 ^ 9 % 128) (.vectorMovs (fld w 16 7) (fld w 0 5)))
      else .error .function
  | 0x0B =>
    match w % 8 with
    | 0 => .ok (.isel (fld w 16 7) (fld w 9 7) (fld w 4 5) (fld w 3 1))
    | 1 => .ok (.fsel (fld w 16 7) (fld w 9 7) (fld w 4 5) (fld w 3 1))
    | _ => .error .function
  | 0x0C =>
    match w % 4 with
    | 2 => .ok (.bfi (fld w 16 7) (fld w 9 7) (fld w 2 7))
    | 0 => .ok (.bfx (fld w 16 7) (fld w 9 7) (fld w 2 7) (fld w 0 1))
    | 1 => .ok (.bfx (fld w 16 7) (fld w 9 7) (fld w 2 7) (fld w 0 1))
    | _ => .error .function
  | 0x0D => .ok (.lea (fld w 16 7) (fld w 9 7) (fld w 2 7) (fld w 0 2))
  | 0x0E => .ok (.aadd (fld w 16 7) (fld w 9 7) (fld w 0 9))
  | 0x0F => .ok (.movi (fld w 16 7) (fld w 0 16))
  | 0x10 =>
    match w % 4 with
    | 0 => .ok (.fadd (fld w 16 7) (fld w 9 7) (fld w 2 7))
    | 1 => .ok (.fsub (fld w 16 7) (fld w 9 7) (fld w 2 7))
    | 2 => .ok (.fmul (fld w 16 7) (fld w 9 7) (fld w 2 7))
    | _ => .ok (.ffma (fld w 16 7) (fld w 9 7) (fld w 2 7))
  | 0x11 =>
    match w % 4 with
    | 0 => .ok (.fmin (fld w 16 7) (fld w 9 7) (fld w 2 7))
    | 1 => .ok (.fmax (fld w 16 7) (fld w 9 7) (fld w 2 7))
    | _ => .error .function
  | 0x12 => mbz (w % 2) (.fcmp (fld w 18 5) (fld w 11 7) (fld w 4 7) (fld w 1 3))
  | 0x13 =>
    match w % 512 with
    | 0 => .ok (.fabs (fld w 16 7) (fld w 9 7))
    | 1 => .ok (.fneg (fld w 16 7) (fld w 9 7))
    | 2 => .ok (.frcp (fld w 16 7) (fld w 9 7))
    | 3 => .ok (.frsq (fld w 16 7) (fld w 9 7))
    | 4 => .ok (.fsqrt (fld w 16 7) (fld w 9 7))
    | 5 => .ok (.fexp2 (fld w 16 7) (fld w 9 7))
    | 6 => .ok (.flog2 (fld w 16 7) (fld w 9 7))
    | 7 => .ok (.fsin (fld w 16 7) (fld w 9 7))
    | 8 => .ok (.fcos (fld w 16 7) (fld w 9 7))
    | _ => .error .function
  | 0x14 =>
    match w % 4 with
    | 0 => .ok (.hadd2 (fld w 23 1) (fld w 16 7) (fld w 9 7) (fld w 2 7))
    | 1 => .ok (.hmul2 (fld w 23 1) (fld w 16 7) (fld w 9 7) (fld w 2 7))
    | 2 => .ok (.hfma2 (fld w 23 1) (fld w 16 7) (fld w 9 7) (fld w 2 7))
    | _ => .ok (.hmin2 (fld w 23 1) (fld w 16 7) (fld w 9 7) (fld w 2 7))
  | 0x15 =>
    match w % 4 with
    | 0 => .ok (.hadd2 (fld w 23 1) (fld w 16 7) (fld w 9 7) (fld w 2 7))
    | 1 => .ok (.hmul2 (fld w 23 1) (fld w 16 7) (fld w 9 7) (fld w 2 7))
    | 2 => .ok (.hfma2 (fld w 23 1) (fld w 16 7) (fld w 9 7) (fld w 2 7))
    | _ => .ok (.hmin2 (fld w 23 1) (fld w 16 7) (fld w 9 7) (fld w 2 7))
  | 0x16 =>
    match w % 4 with
    | 0 => .ok (.hmax2 (fld w 16 7) (fld w 9 7) (fld w 2 7) (fld w 0 1))
    | 1 => .ok (.hmax2 (fld w 16 7) (fld w 9 7) (fld w 2 7) (fld w 0 1))
    | _ => .error .function
  | 0x18 => mbz (w % 2) (.cvt (fld w 16 7) (fld w 9 7) (fld w 5 4) (fld w 1 4))
  | 0x19 =>
    match w % 4 with
    | 0 => .ok (.flick (fld w 16 7) (fld w 9 7) (fld w 2 7))
    | _ => .error .function
  | 0x1A => .ok (.fsr (fld w 16 7) (fld w 9 7) (fld w 2 7) (fld w 0 2))
  | 0x1B =>
    match w % 8 with
    | 0 => .ok (.bmax (fld w 16 7) (fld w 9 7) (fld w 3 6))
    | 1 => .ok (.bscale (fld w 16 7) (fld w 9 7) (fld w 3 6))
    | 2 => .ok (.bq (fld w 16 7) (fld w 9 7) (fld w 3 6))
    | 3 => .ok (.bdq (fld w 16 7) (fld w 9 7) (fld w 3 6))
    | 4 => .ok (.bpack (fld w 16 7) (fld w 9 7) (fld w 3 6))
    | 5 => .ok (.bunpack (fld w 16 7) (fld w 9 7) (fld w 3 6))
    | _ => .error .function
  | 0x1C => .ok (.brd (fld w 18 5) (fld w 17 1) (fld w 8 9) (fld w 0 8))
  | 0x1D =>
    match w % 512 with
    | 0 => mbz (w / 2 ^ 9 % 16384) (.merge)
    | 1 => mbz (w / 2 ^ 9 % 16384) (.meet)
    | 32 => mbz (w / 2 ^ 9 % 128) (.exrd (fld w 16 7))
    | 33 => mbz (w / 2 ^ 16 % 128) (.exwr (fld w 9 7))
    | 34 => mbz (w / 2 ^ 14 % 512) (.expr (fld w 9 5))
    | x => if 16 ≤ x ∧ x ≤ 31 then (mbz (w / 2 ^ 9 % 16384) (.brk (fld w 0 4)))
      else .error .function
  | 0x1E =>
    match w % 4 with
    | 0 => .ok (.shflIdx (fld w 16 7) (fld w 9 7) (fld w 2 7))
    | 1 => .ok (.shflUp (fld w 16 7) (fld w 9 7) (fld w 2 7))
    | 2 => .ok (.shflDown (fld w 16 7) (fld w 9 7) (fld w 2 7))
    | _ => .ok (.shflXor (fld w 16 7) (fld w 9 7) (fld w 2 7))
  | 0x1F =>
    match w % 512 with
    | 0 => mbz (w / 2 ^ 14 % 4) (.voteAny (fld w 16 7) (fld w 9 5))
    | 1 => mbz (w / 2 ^ 14 % 4) (.voteAll (fld w 16 7) (fld w 9 5))
    | 2 => mbz (w / 2 ^ 14 % 4) (.voteBallot (fld w 16 7) (fld w 9 5))
    | x => if 16 ≤ x ∧ x ≤ 26 then (.ok (.redg (fld w 16 7) (fld w 9 7) (fld w 0 4)))
      else .error .function
  | 0x20 => .ok (.sadd (fld w 16 7) (fld w 9 7) (fld w 2 7) (fld w 0 2))
  | 0x21 => .ok (.ssub (fld w 16 7) (fld w 9 7) (fld w 2 7) (fld w 0 2))
  | 0x22 => .ok (.smul (fld w 16 7) (fld w 9 7) (fld w 2 7) (fld w 0 2))
  | 0x23 =>
    match w % 4 with
    | 0 => .ok (.sand (fld w 16 7) (fld w 9 7) (fld w 2 7))
    | 1 => .ok (.sor (fld w 16 7) (fld w 9 7) (fld w 2 7))
    | 2 => .ok (.sxor (fld w 16 7) (fld w 9 7) (fld w 2 7))
    | _ => .error .function
  | 0x24 =>
    match w % 4 with
    | 0 => .ok (.sshl (fld w 16 7) (fld w 9 7) (fld w 2 7))
    | 1 => .ok (.sshr (fld w 16 7) (fld w 9 7) (fld w 2 7))
    | _ => .error .function
  | 0x25 => .ok (.scmp (fld w 18 5) (fld w 11 7) (fld w 4 7) (fld w 2 2) (fld w 0 2))
  | 0x26 => .ok (.smovImmediate (fld w 16 7) (fld w 0 16))
  | 0x27 =>
    match w / 2 ^ 6 % 8 with
    | 0 => mbz (w % 64) (.smov (fld w 16 7) (fld w 9 7))
    | 1 => .ok (.srd (fld w 16 7) (fld w 9 7) (fld w 0 6))
    | 2 => .ok (.swr (fld w 16 7) (fld w 9 7) (fld w 0 6))
    | 3 => mbz (w / 2 ^ 5 % 2) (.scalarMovs (fld w 16 7) (fld w 9 7) (fld w 0 5))
    | 4 => mbz (w % 64) (.broadcastMov (fld w 16 7) (fld w 9 7))
    | _ => .error .function
  | 0x28 => .ok (.ldg (fld w 16 7) (fld w 9 7) (fld w 0 9))
  | 0x29 => .ok (.stg (fld w 16 7) (fld w 9 7) (fld w 0 9))
  | 0x2A =>
    match w / 2 ^ 8 % 2 with
    | 0 => .ok (.ld (fld w 16 7) (fld w 9 7) (fld w 6 2) (fld w 3 3) (fld w 0 3))
    | _ => .ok (.st (fld w 16 7) (fld w 9 7) (fld w 6 2) (fld w 3 3) (fld w 0 3))
  | 0x2B =>
    match w / 2 ^ 7 % 4 with
    | 0 => mbz (w / 2 ^ 3 % 16) (.lds (fld w 16 7) (fld w 9 7) (fld w 0 3))
    | 1 => mbz (w / 2 ^ 3 % 16) (.sts (fld w 16 7) (fld w 9 7) (fld w 0 3))
    | 2 => mbz (w / 2 ^ 3 % 16) (.ldw (fld w 16 7) (fld w 9 7) (fld w 0 3))
    | _ => .error .function
  | 0x2C =>
    match w / 2 ^ 9 % 2 with
    | 0 => .ok (.bld (fld w 16 7) (fld w 10 6) (fld w 2 7) (fld w 0 2))
    | _ => .ok (.bst (fld w 16 7) (fld w 10 6) (fld w 2 7) (fld w 0 2))
  | 0x2D => .ok (.atom (fld w 16 7) (fld w 9 7) (fld w 5 4) (fld w 2 3) (fld w 0 2))
  | 0x2E =>
    if w / 2 ^ 5 % 16 = 9 ∨ w / 2 ^ 5 % 16 = 10 ∨ w / 2 ^ 5 % 16 = 15 then .error .function
    else .ok (.red (fld w 16 7) (fld w 9 7) (fld w 5 4) (fld w 2 3) (fld w 0 2))
  | 0x2F =>
    match w / 2 ^ 4 % 32 with
    | 0 => mbz (w / 2 ^ 3 % 2 + w / 2 ^ 9 % 128) (.fence (fld w 19 4) (fld w 16 3) (fld w 2 1) (fld w 0 2))
    | 1 => mbz (w / 2 ^ 3 % 2) (.waitge (fld w 16 7) (fld w 9 7) (fld w 0 3))
    | 2 => mbz (w / 2 ^ 3 % 2 + w / 2 ^ 16 % 128) (.vpub (fld w 9 7) (fld w 0 3))
    | 3 => mbz (w % 16) (.privaddr (fld w 16 7) (fld w 9 7))
    | 4 => mbz (w / 2 ^ 2 % 4 + w / 2 ^ 16 % 128) (.pref (fld w 9 7) (fld w 0 2))
    | 5 => if w % 2 = 0 then mbz (w / 2 ^ 1 % 8 + w / 2 ^ 16 % 128) (.dsync (fld w 9 7))
      else mbz (w / 2 ^ 1 % 8 + w / 2 ^ 9 % 16384) (.dsyncAll)
    | 6 => mbz (w % 16) (.atomDetFadd (fld w 16 7) (fld w 9 7))
    | 7 => mbz (w % 16) (.atomDetBfadd2 (fld w 16 7) (fld w 9 7))
    | _ => .error .function
  | 0x30 =>
    match w / 2 ^ 18 % 32 with
    | 0 => mbz (w % 64) (.cpy (fld w 17 1) (fld w 11 6) (fld w 7 4) (fld w 6 1))
    | 1 => mbz (w % 2) (.cpym (fld w 12 6) (fld w 5 7) (fld w 1 4))
    | 2 => mbz (w % 4) (.bread (fld w 12 6) (fld w 6 6) (fld w 2 4))
    | 3 => mbz (w % 262144) (.gret)
    | _ => .error .function
  | 0x31 =>
    match w / 2 ^ 18 % 32 with
    | 0 => mbz (w % 64) (.barinit (fld w 14 4) (fld w 13 1) (fld w 6 7))
    | 1 => mbz (w % 128) (.bararr (fld w 14 4) (fld w 7 7))
    | 2 => mbz (w % 128) (.barexp (fld w 14 4) (fld w 7 7))
    | 3 => mbz (w % 128) (.barwait (fld w 14 4) (fld w 7 7))
    | 4 => mbz (w % 256) (.bartest (fld w 14 4) (fld w 8 6))
    | 5 => mbz (w % 16384) (.tbar (fld w 14 4))
    | _ => .error .function
  | 0x34 =>
    match w / 2 ^ 18 % 32 with
    | 0 => mbz (w % 4096) (.mzero (fld w 12 6))
    | 1 => mbz (w % 32) (.mlda (fld w 12 6) (fld w 5 7))
    | 2 => mbz (w % 32) (.msta (fld w 12 6) (fld w 5 7))
    | 3 => .ok (.mloop (fld w 12 6) (fld w 6 6) (fld w 0 6))
    | 4 => .ok (.mdist (fld w 12 6) (fld w 6 6) (fld w 0 6))
    | 5 => mbz (w % 32) (.mtopk (fld w 12 6) (fld w 5 7))
    | 6 => mbz (w % 32) (.mepi (fld w 12 6) (fld w 5 7))
    | 7 => mbz (w % 2048) (.mroute (fld w 11 7))
    | 8 => mbz (w % 2048) (.mfence (fld w 11 7))
    | 9 => mbz (w % 2048) (.mwait (fld w 11 7))
    | 10 => mbz (w % 4096) (.conv (fld w 12 6))
    | 11 => mbz (w % 262144) (.disb)
    | _ => .error .function
  | 0x38 =>
    match w / 2 ^ 18 % 32 with
    | 0 => mbz (w % 2) (.rld (fld w 11 7) (fld w 6 5) (fld w 4 2) (fld w 1 3))
    | 1 => mbz (w % 2) (.rst (fld w 11 7) (fld w 6 5) (fld w 4 2) (fld w 1 3))
    | 2 => .ok (.ratom (fld w 11 7) (fld w 6 5) (fld w 2 4) (fld w 0 2))
    | 3 => mbz (w % 16) (.alwr (fld w 11 7) (fld w 4 7))
    | 4 => .ok (.balw (fld w 11 7) (fld w 9 2) (fld w 0 9))
    | 5 => mbz (w % 32) (.coll (fld w 12 6) (fld w 5 7))
    | 6 => mbz (w % 16) (.cwait (fld w 11 7) (fld w 4 7))
    | 7 => mbz (w % 32) (.chunkinc (fld w 12 6) (fld w 5 7))
    | 8 => mbz (w % 4096) (.mighint (fld w 12 6))
    | _ => .error .function
  | 0x3B => .ok (.bra (fld w 0 23))
  | 0x3C =>
    match w / 2 ^ 18 % 32 with
    | 0 => .ok (.call (fld w 12 6) (fld w 0 12))
    | 1 => .ok (.brc (fld w 11 7) (fld w 10 1) (fld w 0 10))
    | 2 => mbz (w % 4096) (.ret (fld w 12 6))
    | 3 => mbz (w % 4096) (.jmpi (fld w 12 6))
    | 4 => mbz (w % 262144) (.exit)
    | 5 => mbz (w % 32) (.launch (fld w 12 6) (fld w 5 7))
    | 6 => mbz (w % 32) (.launchi (fld w 12 6) (fld w 5 7))
    | 7 => mbz (w % 32) (.spawn (fld w 12 6) (fld w 5 7))
    | 8 => mbz (w % 64) (.evpub (fld w 12 6) (fld w 6 6))
    | 9 => mbz (w % 64) (.evwait (fld w 12 6) (fld w 6 6))
    | 10 => mbz (w / 2 ^ 16 % 4) (.rbeg (fld w 0 16))
    | 11 => mbz (w % 262144) (.rcom)
    | 12 => mbz (w / 2 ^ 16 % 4) (.safe (fld w 0 16))
    | 13 => mbz (w / 2 ^ 3 % 32768) (.trap (fld w 0 3))
    | 14 => mbz (w / 2 ^ 16 % 4) (.svc (fld w 0 16))
    | 15 => mbz (w % 262144) (.eret)
    | 16 => mbz (w % 2048) (.lsupd (fld w 11 7))
    | 17 => mbz (w % 4096) (.seedset (fld w 12 6))
    | 18 => mbz (w % 2048) (.clkrd (fld w 12 6) (fld w 11 1))
    | 19 => mbz (w / 2 ^ 16 % 4) (.halt (fld w 0 16))
    | 20 => mbz (w / 2 ^ 16 % 4) (.bkpt (fld w 0 16))
    | 21 => if w / 2 ^ 10 % 2 = 0 then mbz (w % 1024) (.flrd (fld w 11 7))
      else mbz (w % 64) (.flrdCnt (fld w 11 7) (fld w 6 4))
    | 22 => mbz (w % 64) (.wrs (fld w 13 5) (fld w 6 7))
    | _ => .error .function
  | 0x3E =>
    match w / 2 ^ 21 % 4 with
    | 0 => if w / 2 ^ 15 % 64 = 0 ∧ w % 32768 = 0 ∧ w / 2 ^ 29 % 2 = 0 then .ok .nop else mbz (w % 32768 + w / 2 ^ 29 % 2) (.hsched (fld w 17 4) (fld w 15 2))
    | 1 => mbz (w / 2 ^ 29 % 2) (.himm (fld w 0 21))
    | 2 => mbz (w % 4096 + w / 2 ^ 29 % 2) (.hpred (fld w 16 5) (fld w 15 1) (fld w 12 3))
    | _ => mbz (w % 2048 + w / 2 ^ 29 % 2) (.hmod (fld w 20 1) (fld w 17 3) (fld w 16 1) (fld w 15 1) (fld w 13 2) (fld w 12 1) (fld w 11 1))
  | 0x3F => mbz (w / 2 ^ 2 % 2 + w / 2 ^ 29 % 2) (.clh (fld w 11 12) (fld w 7 4) (fld w 3 4) (fld w 1 1) (fld w 0 1))
  | _ => .error .major

/-- The instruction of a word, whatever its VER and SC say (R78). -/
def decodeInstr (w : Nat) : Except DecodeErr Instr := decodeMajor (w / 2 ^ 23 % 64) w

/-- A decoded word: VER, SC and the instruction (R72). -/
structure Fetched where
  ver : BitVec 2
  sc : BitVec 1
  instr : Instr
  deriving DecidableEq, Repr

/-- Decodes a word: VER first, then the rest (R73, R74). -/
def decodeWord (w : Word) : Except DecodeErr Fetched :=
  if 2 ≤ w.toNat / 2 ^ 30 then .error .schedVer
  else
    match decodeInstr w.toNat with
    | .ok i => .ok ⟨fld w.toNat 30 2, fld w.toNat 29 1, i⟩
    | .error e => .error e

/-- A word from its four bytes in memory, the lowest address first (R3, R72). -/
def wordOfBytes (b0 b1 b2 b3 : Byte) : Word := b3 ++ b2 ++ b1 ++ b0

/-- The instruction the decoder reads from a table word of `nbits` bits: the word's bytes are laid out little-endian and decoded. -/
def decodeTableWord (nbits w : Nat) : Option Instr :=
  let v := w % 2 ^ nbits
  match decodeWord (wordOfBytes (fld v 0 8) (fld v 8 8) (fld v 16 8) (fld v 24 8)) with
  | .ok f => some f.instr
  | .error _ => none

/-- A field's value at the place of its lowest bit (R3). -/
def place (v lo : Nat) : Nat := v * 2 ^ lo

/-- The encoding of an instruction as a number, with VER 00 and SC 0 (R72, R78-R88); an event of the device has none. -/
def encodeNat : Instr → Option Nat
  | .iadd x0 x1 x2 x3 => some (0x00000000 + place x0.toNat 16 + place x1.toNat 9 + place x2.toNat 2 + place x3.toNat 0)
  | .isub x0 x1 x2 x3 => some (0x00800000 + place x0.toNat 16 + place x1.toNat 9 + place x2.toNat 2 + place x3.toNat 0)
  | .imul x0 x1 x2 x3 => some (0x01000000 + place x0.toNat 16 + place x1.toNat 9 + place x2.toNat 2 + place x3.toNat 0)
  | .imulh x0 x1 x2 x3 => some (0x01800000 + place x0.toNat 16 + place x1.toNat 9 + place x2.toNat 2 + place x3.toNat 0)
  | .imad x0 x1 x2 x3 => some (0x02000000 + place x0.toNat 16 + place x1.toNat 9 + place x2.toNat 2 + place x3.toNat 0)
  | .imin x0 x1 x2 x3 => some (0x02800000 + place x0.toNat 16 + place x1.toNat 9 + place x2.toNat 2 + place x3.toNat 0)
  | .imax x0 x1 x2 x3 => some (0x03000000 + place x0.toNat 16 + place x1.toNat 9 + place x2.toNat 2 + place x3.toNat 0)
  | .icmp x0 x1 x2 x3 x4 => some (0x03800000 + place x0.toNat 18 + place x1.toNat 11 + place x2.toNat 4 + place x3.toNat 2 + place x4.toNat 0)
  | .and x0 x1 x2 => some (0x04000000 + place x0.toNat 16 + place x1.toNat 9 + place x2.toNat 2)
  | .or x0 x1 x2 => some (0x04000001 + place x0.toNat 16 + place x1.toNat 9 + place x2.toNat 2)
  | .xor x0 x1 x2 => some (0x04000002 + place x0.toNat 16 + place x1.toNat 9 + place x2.toNat 2)
  | .andn x0 x1 x2 => some (0x04000003 + place x0.toNat 16 + place x1.toNat 9 + place x2.toNat 2)
  | .shl x0 x1 x2 => some (0x04800000 + place x0.toNat 16 + place x1.toNat 9 + place x2.toNat 2)
  | .shr x0 x1 x2 => some (0x04800001 + place x0.toNat 16 + place x1.toNat 9 + place x2.toNat 2)
  | .sar x0 x1 x2 => some (0x04800002 + place x0.toNat 16 + place x1.toNat 9 + place x2.toNat 2)
  | .rol x0 x1 x2 => some (0x04800003 + place x0.toNat 16 + place x1.toNat 9 + place x2.toNat 2)
  | .movB32 x0 x1 => some (0x05000000 + place x0.toNat 16 + place x1.toNat 9)
  | .movB64 x0 x1 => some (0x05000001 + place x0.toNat 16 + place x1.toNat 9)
  | .not x0 x1 => some (0x05000002 + place x0.toNat 16 + place x1.toNat 9)
  | .popc x0 x1 => some (0x05000003 + place x0.toNat 16 + place x1.toNat 9)
  | .clz x0 x1 => some (0x05000004 + place x0.toNat 16 + place x1.toNat 9)
  | .brev x0 x1 => some (0x05000005 + place x0.toNat 16 + place x1.toNat 9)
  | .iabs x0 x1 x2 => some (0x05000006 + place x0.toNat 16 + place x1.toNat 9 + place x2.toNat 0)
  | .ineg x0 x1 x2 => some (0x05000008 + place x0.toNat 16 + place x1.toNat 9 + place x2.toNat 0)
  | .vectorMovs x0 x1 => some (0x05000100 + place x0.toNat 16 + place x1.toNat 0)
  | .isel x0 x1 x2 x3 => some (0x05800000 + place x0.toNat 16 + place x1.toNat 9 + place x2.toNat 4 + place x3.toNat 3)
  | .fsel x0 x1 x2 x3 => some (0x05800001 + place x0.toNat 16 + place x1.toNat 9 + place x2.toNat 4 + place x3.toNat 3)
  | .bfx x0 x1 x2 x3 => some (0x06000000 + place x0.toNat 16 + place x1.toNat 9 + place x2.toNat 2 + place x3.toNat 0)
  | .bfi x0 x1 x2 => some (0x06000002 + place x0.toNat 16 + place x1.toNat 9 + place x2.toNat 2)
  | .lea x0 x1 x2 x3 => some (0x06800000 + place x0.toNat 16 + place x1.toNat 9 + place x2.toNat 2 + place x3.toNat 0)
  | .aadd x0 x1 x2 => some (0x07000000 + place x0.toNat 16 + place x1.toNat 9 + place x2.toNat 0)
  | .movi x0 x1 => some (0x07800000 + place x0.toNat 16 + place x1.toNat 0)
  | .fadd x0 x1 x2 => some (0x08000000 + place x0.toNat 16 + place x1.toNat 9 + place x2.toNat 2)
  | .fsub x0 x1 x2 => some (0x08000001 + place x0.toNat 16 + place x1.toNat 9 + place x2.toNat 2)
  | .fmul x0 x1 x2 => some (0x08000002 + place x0.toNat 16 + place x1.toNat 9 + place x2.toNat 2)
  | .ffma x0 x1 x2 => some (0x08000003 + place x0.toNat 16 + place x1.toNat 9 + place x2.toNat 2)
  | .fmin x0 x1 x2 => some (0x08800000 + place x0.toNat 16 + place x1.toNat 9 + place x2.toNat 2)
  | .fmax x0 x1 x2 => some (0x08800001 + place x0.toNat 16 + place x1.toNat 9 + place x2.toNat 2)
  | .fcmp x0 x1 x2 x3 => some (0x09000000 + place x0.toNat 18 + place x1.toNat 11 + place x2.toNat 4 + place x3.toNat 1)
  | .fabs x0 x1 => some (0x09800000 + place x0.toNat 16 + place x1.toNat 9)
  | .fneg x0 x1 => some (0x09800001 + place x0.toNat 16 + place x1.toNat 9)
  | .frcp x0 x1 => some (0x09800002 + place x0.toNat 16 + place x1.toNat 9)
  | .frsq x0 x1 => some (0x09800003 + place x0.toNat 16 + place x1.toNat 9)
  | .fsqrt x0 x1 => some (0x09800004 + place x0.toNat 16 + place x1.toNat 9)
  | .fexp2 x0 x1 => some (0x09800005 + place x0.toNat 16 + place x1.toNat 9)
  | .flog2 x0 x1 => some (0x09800006 + place x0.toNat 16 + place x1.toNat 9)
  | .fsin x0 x1 => some (0x09800007 + place x0.toNat 16 + place x1.toNat 9)
  | .fcos x0 x1 => some (0x09800008 + place x0.toNat 16 + place x1.toNat 9)
  | .hadd2 x0 x1 x2 x3 => some (0x0A000000 + place x0.toNat 23 + place x1.toNat 16 + place x2.toNat 9 + place x3.toNat 2)
  | .hmul2 x0 x1 x2 x3 => some (0x0A000001 + place x0.toNat 23 + place x1.toNat 16 + place x2.toNat 9 + place x3.toNat 2)
  | .hfma2 x0 x1 x2 x3 => some (0x0A000002 + place x0.toNat 23 + place x1.toNat 16 + place x2.toNat 9 + place x3.toNat 2)
  | .hmin2 x0 x1 x2 x3 => some (0x0A000003 + place x0.toNat 23 + place x1.toNat 16 + place x2.toNat 9 + place x3.toNat 2)
  | .hmax2 x0 x1 x2 x3 => some (0x0B000000 + place x0.toNat 16 + place x1.toNat 9 + place x2.toNat 2 + place x3.toNat 0)
  | .cvt x0 x1 x2 x3 => some (0x0C000000 + place x0.toNat 16 + place x1.toNat 9 + place x2.toNat 5 + place x3.toNat 1)
  | .flick x0 x1 x2 => some (0x0C800000 + place x0.toNat 16 + place x1.toNat 9 + place x2.toNat 2)
  | .fsr x0 x1 x2 x3 => some (0x0D000000 + place x0.toNat 16 + place x1.toNat 9 + place x2.toNat 2 + place x3.toNat 0)
  | .bmax x0 x1 x2 => some (0x0D800000 + place x0.toNat 16 + place x1.toNat 9 + place x2.toNat 3)
  | .bscale x0 x1 x2 => some (0x0D800001 + place x0.toNat 16 + place x1.toNat 9 + place x2.toNat 3)
  | .bq x0 x1 x2 => some (0x0D800002 + place x0.toNat 16 + place x1.toNat 9 + place x2.toNat 3)
  | .bdq x0 x1 x2 => some (0x0D800003 + place x0.toNat 16 + place x1.toNat 9 + place x2.toNat 3)
  | .bpack x0 x1 x2 => some (0x0D800004 + place x0.toNat 16 + place x1.toNat 9 + place x2.toNat 3)
  | .bunpack x0 x1 x2 => some (0x0D800005 + place x0.toNat 16 + place x1.toNat 9 + place x2.toNat 3)
  | .brd x0 x1 x2 x3 => some (0x0E000000 + place x0.toNat 18 + place x1.toNat 17 + place x2.toNat 8 + place x3.toNat 0)
  | .merge => some (0x0E800000)
  | .meet => some (0x0E800001)
  | .brk x0 => some (0x0E800010 + place x0.toNat 0)
  | .exrd x0 => some (0x0E800020 + place x0.toNat 16)
  | .exwr x0 => some (0x0E800021 + place x0.toNat 9)
  | .expr x0 => some (0x0E800022 + place x0.toNat 9)
  | .shflIdx x0 x1 x2 => some (0x0F000000 + place x0.toNat 16 + place x1.toNat 9 + place x2.toNat 2)
  | .shflUp x0 x1 x2 => some (0x0F000001 + place x0.toNat 16 + place x1.toNat 9 + place x2.toNat 2)
  | .shflDown x0 x1 x2 => some (0x0F000002 + place x0.toNat 16 + place x1.toNat 9 + place x2.toNat 2)
  | .shflXor x0 x1 x2 => some (0x0F000003 + place x0.toNat 16 + place x1.toNat 9 + place x2.toNat 2)
  | .voteAny x0 x1 => some (0x0F800000 + place x0.toNat 16 + place x1.toNat 9)
  | .voteAll x0 x1 => some (0x0F800001 + place x0.toNat 16 + place x1.toNat 9)
  | .voteBallot x0 x1 => some (0x0F800002 + place x0.toNat 16 + place x1.toNat 9)
  | .redg x0 x1 x2 => some (0x0F800010 + place x0.toNat 16 + place x1.toNat 9 + place x2.toNat 0)
  | .sadd x0 x1 x2 x3 => some (0x10000000 + place x0.toNat 16 + place x1.toNat 9 + place x2.toNat 2 + place x3.toNat 0)
  | .ssub x0 x1 x2 x3 => some (0x10800000 + place x0.toNat 16 + place x1.toNat 9 + place x2.toNat 2 + place x3.toNat 0)
  | .smul x0 x1 x2 x3 => some (0x11000000 + place x0.toNat 16 + place x1.toNat 9 + place x2.toNat 2 + place x3.toNat 0)
  | .sand x0 x1 x2 => some (0x11800000 + place x0.toNat 16 + place x1.toNat 9 + place x2.toNat 2)
  | .sor x0 x1 x2 => some (0x11800001 + place x0.toNat 16 + place x1.toNat 9 + place x2.toNat 2)
  | .sxor x0 x1 x2 => some (0x11800002 + place x0.toNat 16 + place x1.toNat 9 + place x2.toNat 2)
  | .sshl x0 x1 x2 => some (0x12000000 + place x0.toNat 16 + place x1.toNat 9 + place x2.toNat 2)
  | .sshr x0 x1 x2 => some (0x12000001 + place x0.toNat 16 + place x1.toNat 9 + place x2.toNat 2)
  | .scmp x0 x1 x2 x3 x4 => some (0x12800000 + place x0.toNat 18 + place x1.toNat 11 + place x2.toNat 4 + place x3.toNat 2 + place x4.toNat 0)
  | .smovImmediate x0 x1 => some (0x13000000 + place x0.toNat 16 + place x1.toNat 0)
  | .smov x0 x1 => some (0x13800000 + place x0.toNat 16 + place x1.toNat 9)
  | .srd x0 x1 x2 => some (0x13800040 + place x0.toNat 16 + place x1.toNat 9 + place x2.toNat 0)
  | .swr x0 x1 x2 => some (0x13800080 + place x0.toNat 16 + place x1.toNat 9 + place x2.toNat 0)
  | .scalarMovs x0 x1 x2 => some (0x138000C0 + place x0.toNat 16 + place x1.toNat 9 + place x2.toNat 0)
  | .broadcastMov x0 x1 => some (0x13800100 + place x0.toNat 16 + place x1.toNat 9)
  | .ldg x0 x1 x2 => some (0x14000000 + place x0.toNat 16 + place x1.toNat 9 + place x2.toNat 0)
  | .stg x0 x1 x2 => some (0x14800000 + place x0.toNat 16 + place x1.toNat 9 + place x2.toNat 0)
  | .ld x0 x1 x2 x3 x4 => some (0x15000000 + place x0.toNat 16 + place x1.toNat 9 + place x2.toNat 6 + place x3.toNat 3 + place x4.toNat 0)
  | .st x0 x1 x2 x3 x4 => some (0x15000100 + place x0.toNat 16 + place x1.toNat 9 + place x2.toNat 6 + place x3.toNat 3 + place x4.toNat 0)
  | .lds x0 x1 x2 => some (0x15800000 + place x0.toNat 16 + place x1.toNat 9 + place x2.toNat 0)
  | .sts x0 x1 x2 => some (0x15800080 + place x0.toNat 16 + place x1.toNat 9 + place x2.toNat 0)
  | .ldw x0 x1 x2 => some (0x15800100 + place x0.toNat 16 + place x1.toNat 9 + place x2.toNat 0)
  | .bld x0 x1 x2 x3 => some (0x16000000 + place x0.toNat 16 + place x1.toNat 10 + place x2.toNat 2 + place x3.toNat 0)
  | .bst x0 x1 x2 x3 => some (0x16000200 + place x0.toNat 16 + place x1.toNat 10 + place x2.toNat 2 + place x3.toNat 0)
  | .atom x0 x1 x2 x3 x4 => some (0x16800000 + place x0.toNat 16 + place x1.toNat 9 + place x2.toNat 5 + place x3.toNat 2 + place x4.toNat 0)
  | .red x0 x1 x2 x3 x4 => some (0x17000000 + place x0.toNat 16 + place x1.toNat 9 + place x2.toNat 5 + place x3.toNat 2 + place x4.toNat 0)
  | .fence x0 x1 x2 x3 => some (0x17800000 + place x0.toNat 19 + place x1.toNat 16 + place x2.toNat 2 + place x3.toNat 0)
  | .waitge x0 x1 x2 => some (0x17800010 + place x0.toNat 16 + place x1.toNat 9 + place x2.toNat 0)
  | .vpub x0 x1 => some (0x17800020 + place x0.toNat 9 + place x1.toNat 0)
  | .privaddr x0 x1 => some (0x17800030 + place x0.toNat 16 + place x1.toNat 9)
  | .pref x0 x1 => some (0x17800040 + place x0.toNat 9 + place x1.toNat 0)
  | .dsync x0 => some (0x17800050 + place x0.toNat 9)
  | .dsyncAll => some (0x17800051)
  | .atomDetFadd x0 x1 => some (0x17800060 + place x0.toNat 16 + place x1.toNat 9)
  | .atomDetBfadd2 x0 x1 => some (0x17800070 + place x0.toNat 16 + place x1.toNat 9)
  | .cpy x0 x1 x2 x3 => some (0x18000000 + place x0.toNat 17 + place x1.toNat 11 + place x2.toNat 7 + place x3.toNat 6)
  | .cpym x0 x1 x2 => some (0x18040000 + place x0.toNat 12 + place x1.toNat 5 + place x2.toNat 1)
  | .bread x0 x1 x2 => some (0x18080000 + place x0.toNat 12 + place x1.toNat 6 + place x2.toNat 2)
  | .gret => some (0x180C0000)
  | .barinit x0 x1 x2 => some (0x18800000 + place x0.toNat 14 + place x1.toNat 13 + place x2.toNat 6)
  | .bararr x0 x1 => some (0x18840000 + place x0.toNat 14 + place x1.toNat 7)
  | .barexp x0 x1 => some (0x18880000 + place x0.toNat 14 + place x1.toNat 7)
  | .barwait x0 x1 => some (0x188C0000 + place x0.toNat 14 + place x1.toNat 7)
  | .bartest x0 x1 => some (0x18900000 + place x0.toNat 14 + place x1.toNat 8)
  | .tbar x0 => some (0x18940000 + place x0.toNat 14)
  | .mzero x0 => some (0x1A000000 + place x0.toNat 12)
  | .mlda x0 x1 => some (0x1A040000 + place x0.toNat 12 + place x1.toNat 5)
  | .msta x0 x1 => some (0x1A080000 + place x0.toNat 12 + place x1.toNat 5)
  | .mloop x0 x1 x2 => some (0x1A0C0000 + place x0.toNat 12 + place x1.toNat 6 + place x2.toNat 0)
  | .mdist x0 x1 x2 => some (0x1A100000 + place x0.toNat 12 + place x1.toNat 6 + place x2.toNat 0)
  | .mtopk x0 x1 => some (0x1A140000 + place x0.toNat 12 + place x1.toNat 5)
  | .mepi x0 x1 => some (0x1A180000 + place x0.toNat 12 + place x1.toNat 5)
  | .mroute x0 => some (0x1A1C0000 + place x0.toNat 11)
  | .mfence x0 => some (0x1A200000 + place x0.toNat 11)
  | .mwait x0 => some (0x1A240000 + place x0.toNat 11)
  | .conv x0 => some (0x1A280000 + place x0.toNat 12)
  | .disb => some (0x1A2C0000)
  | .rld x0 x1 x2 x3 => some (0x1C000000 + place x0.toNat 11 + place x1.toNat 6 + place x2.toNat 4 + place x3.toNat 1)
  | .rst x0 x1 x2 x3 => some (0x1C040000 + place x0.toNat 11 + place x1.toNat 6 + place x2.toNat 4 + place x3.toNat 1)
  | .ratom x0 x1 x2 x3 => some (0x1C080000 + place x0.toNat 11 + place x1.toNat 6 + place x2.toNat 2 + place x3.toNat 0)
  | .alwr x0 x1 => some (0x1C0C0000 + place x0.toNat 11 + place x1.toNat 4)
  | .balw x0 x1 x2 => some (0x1C100000 + place x0.toNat 11 + place x1.toNat 9 + place x2.toNat 0)
  | .coll x0 x1 => some (0x1C140000 + place x0.toNat 12 + place x1.toNat 5)
  | .cwait x0 x1 => some (0x1C180000 + place x0.toNat 11 + place x1.toNat 4)
  | .chunkinc x0 x1 => some (0x1C1C0000 + place x0.toNat 12 + place x1.toNat 5)
  | .mighint x0 => some (0x1C200000 + place x0.toNat 12)
  | .bra x0 => some (0x1D800000 + place x0.toNat 0)
  | .call x0 x1 => some (0x1E000000 + place x0.toNat 12 + place x1.toNat 0)
  | .brc x0 x1 x2 => some (0x1E040000 + place x0.toNat 11 + place x1.toNat 10 + place x2.toNat 0)
  | .ret x0 => some (0x1E080000 + place x0.toNat 12)
  | .jmpi x0 => some (0x1E0C0000 + place x0.toNat 12)
  | .exit => some (0x1E100000)
  | .launch x0 x1 => some (0x1E140000 + place x0.toNat 12 + place x1.toNat 5)
  | .launchi x0 x1 => some (0x1E180000 + place x0.toNat 12 + place x1.toNat 5)
  | .spawn x0 x1 => some (0x1E1C0000 + place x0.toNat 12 + place x1.toNat 5)
  | .evpub x0 x1 => some (0x1E200000 + place x0.toNat 12 + place x1.toNat 6)
  | .evwait x0 x1 => some (0x1E240000 + place x0.toNat 12 + place x1.toNat 6)
  | .rbeg x0 => some (0x1E280000 + place x0.toNat 0)
  | .rcom => some (0x1E2C0000)
  | .safe x0 => some (0x1E300000 + place x0.toNat 0)
  | .trap x0 => some (0x1E340000 + place x0.toNat 0)
  | .svc x0 => some (0x1E380000 + place x0.toNat 0)
  | .eret => some (0x1E3C0000)
  | .lsupd x0 => some (0x1E400000 + place x0.toNat 11)
  | .seedset x0 => some (0x1E440000 + place x0.toNat 12)
  | .clkrd x0 x1 => some (0x1E480000 + place x0.toNat 12 + place x1.toNat 11)
  | .halt x0 => some (0x1E4C0000 + place x0.toNat 0)
  | .bkpt x0 => some (0x1E500000 + place x0.toNat 0)
  | .flrd x0 => some (0x1E540000 + place x0.toNat 11)
  | .flrdCnt x0 x1 => some (0x1E540400 + place x0.toNat 11 + place x1.toNat 6)
  | .wrs x0 x1 => some (0x1E580000 + place x0.toNat 13 + place x1.toNat 6)
  | .nop => some (0x1F000000)
  | .hsched x0 x1 => some (0x1F000000 + place x0.toNat 17 + place x1.toNat 15)
  | .himm x0 => some (0x1F200000 + place x0.toNat 0)
  | .hpred x0 x1 x2 => some (0x1F400000 + place x0.toNat 16 + place x1.toNat 15 + place x2.toNat 12)
  | .hmod x0 x1 x2 x3 x4 x5 x6 => some (0x1F600000 + place x0.toNat 20 + place x1.toNat 17 + place x2.toNat 16 + place x3.toNat 15 + place x4.toNat 13 + place x5.toNat 12 + place x6.toNat 11)
  | .clh x0 x1 x2 x3 x4 => some (0x1F800000 + place x0.toNat 11 + place x1.toNat 7 + place x2.toNat 3 + place x3.toNat 1 + place x4.toNat 0)
  | .meetArrival _ _ => none
  | .splitMerge _ => none
  | .longLatencyCompletion _ _ _ _ => none
  | .schedStallExpiry _ => none
  | .ageingPromotion _ => none
  | .sliceWaitPromotion _ => none
  | .safepointOverrun _ => none
  | .glintBudget _ => none
  | .abortLimit _ => none
  | .waitgeRepoll _ => none
  | .regionReplay _ => none
  | .impreciseTrapDelivery _ => none
  | .waitListSatisfied _ => none
  | .slotRecordReuse _ => none
  | .teamBind _ _ => none
  | .repartition _ _ => none
  | .teamCompletion _ => none
  | .engineLineLanding _ _ => none
  | .engineLineFailure _ _ => none
  | .engineAccessRetry _ _ => none
  | .engineWaitTimeout _ _ => none
  | .copyCompletion _ => none
  | .burstReturn _ _ => none
  | .glintSpawn _ _ => none
  | .matrixKStep _ => none
  | .epilogueStep _ => none
  | .epilogueRowDelivery _ _ => none
  | .batchCompletion _ => none
  | .detEntryArrival _ => none
  | .groupPreemptStop _ => none
  | .contextSaveWrite _ => none
  | .mirrorCollapse _ => none
  | .remoteRequestArrival _ => none
  | .remoteResponse _ _ => none
  | .stagedCommit _ => none
  | .stagedDiscard _ => none
  | .commitDeliveryTimeout _ => none
  | .pushRowArrival _ => none
  | .pushResendTimeout _ _ => none
  | .collectiveMessage _ _ => none
  | .chunkReady _ _ => none
  | .chunkCounterTimeout _ _ => none
  | .collectiveCompletion _ => none
  | .portRetrain _ => none
  | .portUp _ => none
  | .portWaitTimeout _ => none
  | .deviceReset => none
  | .patrolScrub _ _ => none
  | .thermalTrip _ => none
  | .powerTrip => none
  | .aclkStepDown => none
  | .aclkStepUp => none
  | .watchdogExpiry _ => none
  | .attestRefusalEnd => none
  | .load _ => none
  | .map _ => none
  | .mapPoolFrames _ => none
  | .unmap _ => none
  | .ctx _ => none
  | .launchCommand _ => none
  | .preempt _ => none
  | .resume _ => none
  | .abort _ => none
  | .query _ => none
  | .attest _ => none
  | .debugPortRetrain _ => none
  | .debugInject _ => none
  | .debugStepOn _ => none
  | .debugStepOff _ => none
  | .patch _ => none
  | .devno _ => none
  | .alwset _ => none
  | .unknownOpc _ => none
  | .registerWrite _ _ => none
  | .illegalOpcode _ => none
  | .memoryOffline _ => none
  | .machineCheck _ => none
  | .lanternFirmwareFault _ => none

/-- The word of an instruction with VER 00 and SC 0 (R72, R78-R88). -/
def encode (i : Instr) : Option Word := (encodeNat i).map (BitVec.ofNat 32)

/-- The word of an instruction with its VER and SC (R72). -/
def encodeWord (f : Fetched) : Option Word :=
  (encode f.instr).map fun w => w + BitVec.ofNat 32 (f.ver.toNat * 2 ^ 30 + f.sc.toNat * 2 ^ 29)

/-! ### Operands -/

/-- A register operand of a word: a vector register; an even and odd pair of them; an aligned quad; a block operand (a pair in a 16-lane group, R45); a scalar register; a scalar pair; a predicate (R76). -/
inductive Opnd where
  | vec (n : Nat)
  | vpair (n : Nat)
  | vquad (n : Nat)
  | vblk (n : Nat)
  | scl (n : Nat)
  | spair (n : Nat)
  | prd (n : Nat)
  deriving DecidableEq, Repr

/-- Vector register operand. -/
def Opnd.v (n : BitVec 7) : Opnd := .vec n.toNat
/-- Vector pair operand. -/
def Opnd.vp (n : BitVec 7) : Opnd := .vpair n.toNat
/-- Quad v(4q) to v(4q+3) (20 R374). -/
def Opnd.vq (q : BitVec 5) : Opnd := .vquad (4 * q.toNat)
/-- Block operand. -/
def Opnd.blk (n : BitVec 7) : Opnd := .vblk n.toNat
/-- Vector register or, when wide, pair. -/
def Opnd.vIf (wide : Bool) (n : BitVec 7) : Opnd := if wide then .vpair n.toNat else .vec n.toNat
/-- Operand of an integer type fn: .i64 and .n64 are pairs (R79, R100). -/
def Opnd.vt (t : BitVec 2) (n : BitVec 7) : Opnd := Opnd.vIf (2 ≤ t.toNat) n
/-- Operand d of an atomic op (11 R233): a pair for add.n64 and cas.b32, a quad for cas.b64. -/
def Opnd.vat (o : BitVec 4) (n : BitVec 7) : Opnd :=
  if o = 15 then .vquad n.toNat else Opnd.vIf (o = 1 || o = 10) n
/-- Scalar register operand. -/
def Opnd.s (n : BitVec 7) : Opnd := .scl n.toNat
/-- Scalar register named by a 5-bit field (R76). -/
def Opnd.s5 (n : BitVec 5) : Opnd := .scl n.toNat
/-- Scalar pair named by its even register. -/
def Opnd.sp (n : BitVec 7) : Opnd := .spair n.toNat
/-- Scalar pair named by a pair number n: s(2n), s(2n+1) (R76). -/
def Opnd.spn (n : BitVec 6) : Opnd := .spair (2 * n.toNat)
/-- Scalar register or, when wide, pair. -/
def Opnd.sIf (wide : Bool) (n : BitVec 7) : Opnd := if wide then .spair n.toNat else .scl n.toNat
/-- Predicate operand. -/
def Opnd.p (n : BitVec 5) : Opnd := .prd n.toNat

/-- The special registers of 64 bits: %exec, %seed, %clock, %time (R58, R86). -/
def isWide (n : BitVec 5) : Bool := n = 7 || n = 8 || n = 14 || n = 15

/-- The type codes of 64-bit types (R21). -/
def isType64 (t : BitVec 4) : Bool := t = 3 || t = 7 || t = 11 || t = 13

/-- A CVT operand of type t: scalar when one of the two types is .f64, else vector; a pair for a 64-bit type (R117). -/
def Opnd.cv (p q t : BitVec 4) (n : BitVec 7) : Opnd :=
  if p = 11 || q = 11 then Opnd.sIf (isType64 t) n else Opnd.vIf (isType64 t) n

/-- The register operands of an instruction word. -/
def Instr.operands : Instr → List Opnd
  | .iadd d a b t => [.vt t d, .vt t a, .vt t b]
  | .isub d a b t => [.vt t d, .vt t a, .vt t b]
  | .imul d a b t => [.vt t d, .vt t a, .vt t b]
  | .imulh d a b t => [.vt t d, .vt t a, .vt t b]
  | .imad d a b t => [.vt t d, .vt t a, .vt t b]
  | .imin d a b t => [.vt t d, .vt t a, .vt t b]
  | .imax d a b t => [.vt t d, .vt t a, .vt t b]
  | .icmp d a b _ t => [.p d, .vt t a, .vt t b]
  | .and d a b => [.v d, .v a, .v b]
  | .or d a b => [.v d, .v a, .v b]
  | .xor d a b => [.v d, .v a, .v b]
  | .andn d a b => [.v d, .v a, .v b]
  | .shl d a b => [.v d, .v a, .v b]
  | .shr d a b => [.v d, .v a, .v b]
  | .sar d a b => [.v d, .v a, .v b]
  | .rol d a b => [.v d, .v a, .v b]
  | .movB32 d a => [.v d, .v a]
  | .movB64 d a => [.vp d, .vp a]
  | .not d a => [.v d, .v a]
  | .popc d a => [.v d, .v a]
  | .clz d a => [.v d, .v a]
  | .brev d a => [.v d, .v a]
  | .iabs d a t => [.vIf (t = 1) d, .vIf (t = 1) a]
  | .ineg d a t => [.vIf (t = 1) d, .vIf (t = 1) a]
  | .vectorMovs d n => [.vIf (isWide n) d]
  | .isel d a k _ => [.v d, .v a, .p k]
  | .fsel d a k _ => [.v d, .v a, .p k]
  | .bfx d a b _ => [.v d, .v a, .v b]
  | .bfi d a b => [.v d, .v a, .v b]
  | .lea d a b _ => [.vp d, .vp a, .v b]
  | .aadd d a _ => [.vp d, .vp a]
  | .movi d _ => [.v d]
  | .fadd d a b => [.v d, .v a, .v b]
  | .fsub d a b => [.v d, .v a, .v b]
  | .fmul d a b => [.v d, .v a, .v b]
  | .ffma d a b => [.v d, .v a, .v b]
  | .fmin d a b => [.v d, .v a, .v b]
  | .fmax d a b => [.v d, .v a, .v b]
  | .fcmp d a b _ => [.p d, .v a, .v b]
  | .fabs d a => [.v d, .v a]
  | .fneg d a => [.v d, .v a]
  | .frcp d a => [.v d, .v a]
  | .frsq d a => [.v d, .v a]
  | .fsqrt d a => [.v d, .v a]
  | .fexp2 d a => [.v d, .v a]
  | .flog2 d a => [.v d, .v a]
  | .fsin d a => [.v d, .v a]
  | .fcos d a => [.v d, .v a]
  | .hadd2 _ d a b => [.v d, .v a, .v b]
  | .hmul2 _ d a b => [.v d, .v a, .v b]
  | .hfma2 _ d a b => [.v d, .v a, .v b]
  | .hmin2 _ d a b => [.v d, .v a, .v b]
  | .hmax2 d a b _ => [.v d, .v a, .v b]
  | .cvt d a p q => [.cv p q p d, .cv p q q a]
  | .flick d a b => [.v d, .vp a, .s b]
  | .fsr d a b _ => [.v d, .vp a, .sp b]
  | .bmax d a p => [.blk d, .blk a, .spn p]
  | .bscale d a p => [.blk d, .blk a, .spn p]
  | .bq d a p => [.blk d, .blk a, .spn p]
  | .bdq d a p => [.blk d, .blk a, .spn p]
  | .bpack d a p => [.vp d, .v a, .spn p]
  | .bunpack d a p => [.v d, .vp a, .spn p]
  | .brd k _ _ _ => [.p k]
  | .merge => []
  | .meet => []
  | .brk _ => []
  | .exrd d => [.sp d]
  | .exwr a => [.sp a]
  | .expr k => [.p k]
  | .shflIdx d a b => [.v d, .v a, .v b]
  | .shflUp d a b => [.v d, .v a, .s b]
  | .shflDown d a b => [.v d, .v a, .s b]
  | .shflXor d a b => [.v d, .v a, .s b]
  | .voteAny d k => [.s d, .p k]
  | .voteAll d k => [.s d, .p k]
  | .voteBallot d k => [.sp d, .p k]
  | .redg d a _ => [.s d, .v a]
  | .sadd d a b t => [.sIf (t.toNat % 2 = 1) d, .sIf (t.toNat % 2 = 1) a, .sIf (t.toNat % 2 = 1) b]
  | .ssub d a b t => [.sIf (t.toNat % 2 = 1) d, .sIf (t.toNat % 2 = 1) a, .sIf (t.toNat % 2 = 1) b]
  | .smul d a b t => [.sIf (t.toNat % 2 = 1) d, .sIf (t.toNat % 2 = 1) a, .sIf (t.toNat % 2 = 1) b]
  | .sand d a b => [.s d, .s a, .s b]
  | .sor d a b => [.s d, .s a, .s b]
  | .sxor d a b => [.s d, .s a, .s b]
  | .sshl d a b => [.s d, .s a, .s b]
  | .sshr d a b => [.s d, .s a, .s b]
  | .scmp d a b _ t => [.sIf (t = 3) a, .sIf (t = 3) b, .s5 d]
  | .smovImmediate d _ => [.s d]
  | .smov d a => [.s d, .s a]
  | .srd d a _ => [.s d, .v a]
  | .swr d a _ => [.v d, .s a]
  | .scalarMovs d _ n => [.sIf (isWide n) d]
  | .broadcastMov d a => [.v d, .s a]
  | .ldg d a _ => [.v d, .sp a]
  | .stg d a _ => [.v d, .sp a]
  | .ld d a _ _ z => [.vIf (z = 5) d, .vp a]
  | .st d a _ _ z => [.vIf (z = 5) d, .vp a]
  | .lds d a z => [.vIf (z = 5) d, .v a]
  | .sts d a z => [.vIf (z = 5) d, .v a]
  | .ldw d a z => [.vIf (z = 5) d, .v a]
  | .bld d a b _ => [.blk d, .spn a, .s b]
  | .bst d a b _ => [.blk d, .spn a, .s b]
  | .atom d a o _ _ => [.vat o d, .vp a]
  | .red d a o _ _ => [.vat o d, .vp a]
  | .fence _ _ _ _ => []
  | .waitge d a _ => [.sp d, .sp a]
  | .vpub a _ => [.sp a]
  | .privaddr d a => [.vp d, .vp a]
  | .pref a _ => [.vp a]
  | .dsync a => [.sp a]
  | .dsyncAll => []
  | .atomDetFadd d a => [.v d, .vp a]
  | .atomDetBfadd2 d a => [.v d, .vp a]
  | .cpy _ p _ _ => [.spn p]
  | .cpym p r _ => [.spn p, .s r]
  | .bread p h _ => [.spn p, .spn h]
  | .gret => []
  | .barinit _ _ _ => []
  | .bararr _ d => [.s d]
  | .barexp _ a => [.s a]
  | .barwait _ a => [.s a]
  | .bartest _ d => [.spn d]
  | .tbar _ => []
  | .mzero _ => []
  | .mlda _ a => [.s a]
  | .msta _ a => [.s a]
  | .mloop _ p q => [.spn p, .spn q]
  | .mdist _ p q => [.spn p, .spn q]
  | .mtopk _ a => [.s a]
  | .mepi _ a => [.s a]
  | .mroute a => [.s a]
  | .mfence d => [.s d]
  | .mwait a => [.s a]
  | .conv p => [.spn p]
  | .disb => []
  | .rld d q _ z => [.vIf (z = 5) d, .vq q]
  | .rst d q _ z => [.vIf (z = 5) d, .vq q]
  | .ratom d q o _ => [.vat o d, .vq q]
  | .alwr d a => [.sp d, .s a]
  | .balw a _ _ => [.s a]
  | .coll p d => [.spn p, .s d]
  | .cwait d a => [.s d, .s a]
  | .chunkinc p a => [.spn p, .s a]
  | .mighint p => [.spn p]
  | .bra _ => []
  | .call l _ => [.spn l]
  | .brc r _ _ => [.s r]
  | .ret p => [.spn p]
  | .jmpi p => [.spn p]
  | .exit => []
  | .launch p d => [.spn p, .s d]
  | .launchi p d => [.spn p, .s d]
  | .spawn p d => [.spn p, .s d]
  | .evpub p q => [.spn p, .spn q]
  | .evwait p q => [.spn p, .spn q]
  | .rbeg _ => []
  | .rcom => []
  | .safe _ => []
  | .trap _ => []
  | .svc _ => []
  | .eret => []
  | .lsupd d => [.s d]
  | .seedset p => [.spn p]
  | .clkrd d _ => [.spn d]
  | .halt _ => []
  | .bkpt _ => []
  | .flrd d => [.s d]
  | .flrdCnt d _ => [.s d]
  | .wrs n a => [.sIf (isWide n) a]
  | .nop => []
  | .hsched _ _ => []
  | .himm _ => []
  | .hpred k _ _ => [.p k]
  | .hmod _ _ _ _ _ _ _ => []
  | .clh _ _ _ _ _ => []
  | .meetArrival _ _ => []
  | .splitMerge _ => []
  | .longLatencyCompletion _ _ _ _ => []
  | .schedStallExpiry _ => []
  | .ageingPromotion _ => []
  | .sliceWaitPromotion _ => []
  | .safepointOverrun _ => []
  | .glintBudget _ => []
  | .abortLimit _ => []
  | .waitgeRepoll _ => []
  | .regionReplay _ => []
  | .impreciseTrapDelivery _ => []
  | .waitListSatisfied _ => []
  | .slotRecordReuse _ => []
  | .teamBind _ _ => []
  | .repartition _ _ => []
  | .teamCompletion _ => []
  | .engineLineLanding _ _ => []
  | .engineLineFailure _ _ => []
  | .engineAccessRetry _ _ => []
  | .engineWaitTimeout _ _ => []
  | .copyCompletion _ => []
  | .burstReturn _ _ => []
  | .glintSpawn _ _ => []
  | .matrixKStep _ => []
  | .epilogueStep _ => []
  | .epilogueRowDelivery _ _ => []
  | .batchCompletion _ => []
  | .detEntryArrival _ => []
  | .groupPreemptStop _ => []
  | .contextSaveWrite _ => []
  | .mirrorCollapse _ => []
  | .remoteRequestArrival _ => []
  | .remoteResponse _ _ => []
  | .stagedCommit _ => []
  | .stagedDiscard _ => []
  | .commitDeliveryTimeout _ => []
  | .pushRowArrival _ => []
  | .pushResendTimeout _ _ => []
  | .collectiveMessage _ _ => []
  | .chunkReady _ _ => []
  | .chunkCounterTimeout _ _ => []
  | .collectiveCompletion _ => []
  | .portRetrain _ => []
  | .portUp _ => []
  | .portWaitTimeout _ => []
  | .deviceReset => []
  | .patrolScrub _ _ => []
  | .thermalTrip _ => []
  | .powerTrip => []
  | .aclkStepDown => []
  | .aclkStepUp => []
  | .watchdogExpiry _ => []
  | .attestRefusalEnd => []
  | .load _ => []
  | .map _ => []
  | .mapPoolFrames _ => []
  | .unmap _ => []
  | .ctx _ => []
  | .launchCommand _ => []
  | .preempt _ => []
  | .resume _ => []
  | .abort _ => []
  | .query _ => []
  | .attest _ => []
  | .debugPortRetrain _ => []
  | .debugInject _ => []
  | .debugStepOn _ => []
  | .debugStepOff _ => []
  | .patch _ => []
  | .devno _ => []
  | .alwset _ => []
  | .unknownOpc _ => []
  | .registerWrite _ _ => []
  | .illegalOpcode _ => []
  | .memoryOffline _ => []
  | .machineCheck _ => []
  | .lanternFirmwareFault _ => []

/-- An operand that must be even, or a multiple of 4, and is not (R22, R233); `narrow` says that the group is 16 lanes wide (R45). -/
def Opnd.misplaced (narrow : Bool) : Opnd → Bool
  | .vpair n => n % 2 ≠ 0
  | .vquad n => n % 4 ≠ 0
  | .spair n => n % 2 ≠ 0
  | .vblk n => narrow && n % 2 ≠ 0
  | .vec _ | .scl _ | .prd _ => false

/-- The number of the last register an operand reaches. -/
def Opnd.last (narrow : Bool) : Opnd → Nat
  | .vec n | .scl n | .prd n => n
  | .vpair n | .spair n => n + 1
  | .vquad n => n + 3
  | .vblk n => if narrow then n + 1 else n

/-- REGISTER_RANGE of an operand in a group with `nregs` vector registers (R55, R76). -/
def Opnd.groupRange (narrow : Bool) (nregs : Nat) (o : Opnd) : Option Nat :=
  match o with
  | .vec _ | .vpair _ | .vquad _ | .vblk _ => if o.last narrow < nregs then none else some 0x09
  | .scl _ => none
  | .spair _ => if o.last narrow < 128 then none else some 0x0B
  | .prd n => if n < 24 then none else some 0x0A

/-- REGISTER_RANGE of an operand in a glint: registers 16 and above do not exist (R76, R262). -/
def Opnd.glintRange (o : Opnd) : Option Nat :=
  match o with
  | .prd n => if n < 24 then none else some 0x0A
  | _ => if o.last false < 16 then none else some 0x0B

/-! ### Checks that the word alone decides -/

/-- A type-code pair that CVT accepts in its vector form or its scalar form (R117). -/
def cvtPairOk (p q : BitVec 4) : Bool :=
  (p.toNat ≤ 10 && q.toNat ≤ 10 && p != q)
  || (p = 11 && (q = 2 || q = 3 || q = 6 || q = 7 || q = 10))
  || (q = 11 && (p = 2 || p = 3 || p = 6 || p = 7 || p = 10))

/-- An order and scope pair that traps RESERVED_FIELD: scope codes 110 and 111, and .dev.prom with .rlx or .rel (R83). -/
def ordScopeReserved (r : BitVec 2) (c : BitVec 3) : Bool :=
  6 ≤ c.toNat || (c = 5 && (r = 0 || r = 2))

/-- The reserved codes of a word's own fields (step 5 of R74): the cause code 0x04, or 0x05 in a hint (R331). -/
def Instr.reservedCode : Instr → Option Nat
  | .vectorMovs _ n => if 0x11 ≤ n.toNat then some 0x04 else none
  | .scalarMovs _ a n => if 0x11 ≤ n.toNat ∨ n = 0 ∨ a ≠ 0 then some 0x04 else none
  | .fcmp _ _ _ r => if 5 ≤ r.toNat then some 0x04 else none
  | .cvt _ _ p q => if 14 ≤ p.toNat ∨ 14 ≤ q.toNat then some 0x04 else none
  | .ld _ _ r c z => if ordScopeReserved r c ∨ 6 ≤ z.toNat then some 0x04 else none
  | .st _ _ r c z => if ordScopeReserved r c ∨ 6 ≤ z.toNat then some 0x04 else none
  | .lds _ _ z => if 6 ≤ z.toNat then some 0x04 else none
  | .sts _ _ z => if 6 ≤ z.toNat then some 0x04 else none
  | .ldw _ _ z => if 6 ≤ z.toNat then some 0x04 else none
  | .bld _ _ _ c => if c = 3 then some 0x04 else none
  | .bst _ _ _ c => if c = 3 then some 0x04 else none
  | .atom _ _ _ c r => if ordScopeReserved r c then some 0x04 else none
  | .red _ _ _ c r => if ordScopeReserved r c then some 0x04 else none
  | .fence m c p r =>
    if (m = 0 ∧ p = 0) ∨ (r = 0 ∧ p = 0) ∨ (p = 1 ∧ c ≠ 3 ∧ c ≠ 4) ∨ ordScopeReserved r c
    then some 0x04 else none
  | .waitge _ _ c => if 6 ≤ c.toNat then some 0x04 else none
  | .vpub _ c => if 5 ≤ c.toNat then some 0x04 else none
  | .pref _ l => if 2 ≤ l.toNat then some 0x04 else none
  | .cpy _ _ k n => if n = 1 ∧ k ≠ 0 then some 0x04 else none
  | .barinit _ _ x => if x = 0 then some 0x04 else none
  | .rld _ _ _ z => if 6 ≤ z.toNat then some 0x04 else none
  | .rst _ _ _ z => if 6 ≤ z.toNat then some 0x04 else none
  | .flrdCnt _ k => if 12 ≤ k.toNat then some 0x04 else none
  | .wrs n _ => if 0x11 ≤ n.toNat then some 0x04 else none
  | .hsched _ n => if n = 3 then some 0x05 else none
  | .hmod r m _ _ _ _ _ => if (r = 0 ∧ m ≠ 0) ∨ 5 ≤ m.toNat then some 0x05 else none
  | _ => none

/-- Pair numbers whose following registers would reach beyond s127 (R286, R295, R305, R306). -/
def Instr.beyondScalars : Instr → Bool
  | .bread p _ _ => p.toNat = 63
  | .mloop _ _ q => q.toNat = 63
  | .mdist _ _ q => 62 ≤ q.toNat
  | _ => false

/-- The word is a hint or a clause header (MAJ 0x3E, 0x3F; R87, R88). -/
def Instr.isHint : Instr → Bool
  | .hsched _ _ | .himm _ | .hpred _ _ _ | .hmod _ _ _ _ _ _ _ => true
  | _ => false

/-- The instructions that have an immediate field in the sense of R77, before which an IMM hint may stand. -/
def Instr.takesImm : Instr → Bool
  | .aadd _ _ _ | .movi _ _ | .smovImmediate _ _ | .ldg _ _ _ | .stg _ _ _ | .call _ _ | .brc _ _ _
  | .balw _ _ _ | .brd _ _ _ _ | .rbeg _ | .safe _ => true
  | _ => false

/-- The targets before which a MOD hint with RM = 100 is accepted: FSR and BQ, which use it, and CPY, CPYM and BREAD, which ignore a hint's rounding fields (R28, R287). -/
def Instr.takesSrHint : Instr → Bool
  | .fsr _ _ _ _ | .bq _ _ _ | .cpy _ _ _ _ | .cpym _ _ _ | .bread _ _ _ => true
  | _ => false

/-- A row with an encoding, and not an event of the device. -/
def Instr.isWord (i : Instr) : Bool := (encode i).isSome

/-- The bytes of an encoded word, lowest address first (R3). -/
def bytesOfWord (w : Word) : List Byte :=
  [fld w.toNat 0 8, fld w.toNat 8 8, fld w.toNat 16 8, fld w.toNat 24 8]

end Sys2Proof
end

