-- ==== Sys2Proof/Config.lean ====
section
/-! DEFINITION. What an implementation fixes and the spec leaves open: the free values, each a constant with no body, and the actions of the model's agenda. -/

namespace Sys2Proof

/-- What happens next in the device, one action for each step of the model. The spec gives no order between agents (07 R158), so the order is an input (log entry 2). -/
inductive Action where
  /-- A quadrant of a core issues one word in this quadrant cycle (07 R148). -/
  | issue (core quad : Nat)
  /-- An event of the device that has a row of the opcode table. -/
  | event (i : Instr)
  /-- The next ATOM or RED performs so many of its lanes in its issue; writes of other agents fall before the others (11 R227). -/
  | cutLanes (lanes : Nat)
  /-- Time passes (04 R58, 23 R397). -/
  | elapse (cycles nanos : Nat)
  /-- A core evicts an L1 line, named by the line number of its intermediate address (09 R199, R201). -/
  | evictL1 (core line : Nat)
  /-- A die's cached translation is replaced (09 R188). -/
  | dropTlb (die entry : Nat)
  /-- A check code finds an uncorrectable error in a line of HBM4E or of a scratchpad, or in the copy that an L1 or L2 of a die holds (03 R44, 09 R196, 22 R393). -/
  | uncorrectable (line : Nat) (cache : Option Nat)
  /-- A check code corrects an error in a line, or in a cache's copy of it (03 R44, 22 R393). -/
  | corrected (line : Nat) (cache : Option Nat)
  /-- State of an agent is found in error, at use or by scrub (16 R321, R331); `shadowClean` says that the shadow set reads back clean. -/
  | registerError (ag : AgentRef) (what : BitVec 3) (shadowClean scrub : Bool)
  /-- Another device of the pod writes a byte of a line that a Prism slice holds: data, penumbra or tags (10 R212, 19 R351). -/
  | prismWrite (addr : Nat) (byte : Nat) (value : Byte)
  /-- A port reports: 1 its retrain limit, 2 an error burst, 3 that it is disabled (16 R331, LINK_STATE). -/
  | linkEvent (port : Nat) (what : Nat)
  /-- A peer refuses a push row: 1 it met a fault there, 2 it waited too long there, 3 its context is gone (16 R331, REMOTE_FAILED). -/
  | pushRefused (op row : Nat) (why : BitVec 2)
  /-- The Prism's directory becomes full or free, its slices unreachable or reachable (19 R351). -/
  | prismState (full unreachable : Bool)
  /-- A peer acknowledges a commit or a discard (19 R356). -/
  | commitAcknowledged (commit : Nat)
  /-- The requester acknowledges the response of a remote atomic that this device keeps (19 R357). -/
  | responseAcknowledged (srcDev pass : Nat)
  /-- A peer becomes the owner of a mirrored block of which this device holds a copy (19 R370 steps 1 and 2). -/
  | mirrorRelease (ia : Nat) (owner : Nat)
  /-- Every other device of the mirror set has answered a request of this device: all have given the block up, or one had no table (19 R370). -/
  | mirrorPeers (request : Nat) (released : Bool)
  deriving DecidableEq, Repr, Inhabited

namespace Config

/-- The action that happens next when the agenda is empty, by the state's tick. -/
opaque freeAction : Nat → Action

/-- A number that the spec leaves open, by the state's tick. -/
opaque freeNat : Nat → Nat

/-- A byte that the spec leaves open, by the state's tick and a position. -/
opaque freeByte : Nat → Nat → Byte

/-- The die of a member of a collective on a peer device, by device, context and COLLID: no field names it (19 R364). -/
opaque peerDie : Nat → Nat → Nat → Nat

/-- SHA-384 (22 R391): named by the spec and not given there. -/
opaque sha384 : List Byte → List Byte

/-- Verification of an Ed25519 signature under the vendor key: the signed bytes, the signature (22 R390). -/
opaque ed25519Verifies : List Byte → List Byte → Bool

/-- Verification of an ML-DSA-65 signature under the vendor key: the signed bytes, the signature (22 R390). -/
opaque mldsaVerifies : List Byte → List Byte → Bool

/-- The device identity's Ed25519 signature (22 R391). -/
opaque ed25519Sign : List Byte → List Byte

/-- The device identity's ML-DSA-65 signature (22 R391). -/
opaque mldsaSign : List Byte → List Byte

/-- The 32 bytes of the device identity (22 R391). -/
opaque identity : List Byte

/-- SHA-384 of the mask ROM (22 R391). -/
opaque romHash : List Byte

/-- VERSION of the firmware that runs, as the save area's header holds it (22 R389). -/
opaque firmwareVersion : Word

/-- VER of a record of the Quoty chain, by its ID (22 R392). -/
opaque quotyVer : Nat → BitVec 16

/-- The Molgor version that the Quoty chain names (22 R392). -/
opaque molgorVersion : Word

end Config

end Sys2Proof
end

