-- ==== Sys2Proof/Machine/State.lean ====
section
/-! DEFINITION. The state of the device as plain data, and the state after reset. Sparse parts are lists of key and value with rising keys that list no entry at its default (see Machine/SMap.lean). -/

namespace Sys2Proof.Machine

/-- Why the machine stops with a fault. -/
inductive Fault where
  /-- Raised by the meaning of an instruction word when no agent is issuing it (State.focus is none, or names an agent or split that does not exist). No run of the device executes a word without an issuing agent, and `step` sets the focus before it runs a word. Safe: nothing is claimed of such an execution. -/
  | noIssuer
  deriving DecidableEq, Repr

/-- Why an instruction has no meaning. -/
inductive Refusal where
  /-- An instruction the model does not model yet, raised by its arm of exec. Safe: nothing is claimed of it. -/
  | notModelled (mnemonic : String)
  deriving DecidableEq, Repr

/-- A sparse map: pairs of a key and a value, keys rising, no value equal to the map's default. -/
abbrev SMap (α : Type) := List (Nat × α)

/-- The bytes of every line of the device: HBM4E data with its penumbra and tags, scratchpad lines, lines of the Prism slices (03 R42, R44; 09 R177). Byte b of line n has the address 256 n + b: b 0 to 127 are the line's addressed bytes, 128 to 135 its penumbra, 136 and 137 its tags. An unlisted address reads zero (log entry 3). -/
abbrev Memory := List Host.Cell

/-! ### Orders, scopes, lines -/

/-- The orders of an access (10 R205, 05 R83). -/
inductive MemOrder where
  | rlx | acq | rel | ar
  deriving DecidableEq, Repr

/-- The scopes of an access (10 R204). -/
inductive Scope where
  | grp | team | die | dev | sys | prom
  deriving DecidableEq, Repr

/-- The kinds of access that qualify a memory cause (16 R331). -/
inductive Kind where
  | load | store | engineRead | engineWrite
  deriving DecidableEq, Repr

/-- A line that an access reaches: its place in memory, and the line number of its intermediate address (0 for a scratchpad line). -/
structure LineRef where
  key : Nat
  ia : Nat
  deriving DecidableEq, Repr

/-! ### Splits -/

/-- A pending MOD hint (05 R88). -/
structure ModHint where
  rnden : Bool
  rm : BitVec 3
  sat : Bool
  flush : Bool
  cp : BitVec 2
  fb : Bool
  nzc : Bool
  deriving DecidableEq, Repr

/-- An open PRED window: the predicate, the negate bit and the words left (05 R90). -/
structure PredWindow where
  k : BitVec 5
  g : Bool
  left : Nat
  deriving DecidableEq, Repr

/-- The pending hint state of a split (05 R91). -/
structure Hints where
  sched : Option (BitVec 4 × BitVec 2)
  imm : Option (BitVec 21)
  mod : Option ModHint
  window : Option PredWindow
  deriving DecidableEq, Repr

/-- An effect that waits in a store buffer (16 R316). -/
inductive BufKind where
  /-- Bytes from an offset of the line, and a slot's tag. -/
  | store (off : Nat) (bytes : List Byte) (tag : Option (Nat × BitVec 2))
  /-- A reduction (11 R233): op, offset, operand words, rounding mode, saturation, flushing. -/
  | red (off : Nat) (op : BitVec 4) (x : List Word) (mode : BitVec 3) (sat flush : Bool)
  /-- An entry of ATOM.DET (11 R235), with the number of the instruction that carried it. -/
  | det (off : Nat) (lane : Nat) (bf : Bool) (value : Word) (op : Nat)
  /-- A line of a peer that a staged RST pass writes (19 R356). -/
  | staged (cls : Nat) (peerLine : Nat) (run : Nat)
  deriving DecidableEq, Repr

/-- A buffered effect with the order, scope and cache policy of its form, and the address it names. -/
structure BufEntry where
  line : LineRef
  va : DWord
  kind : BufKind
  order : MemOrder
  scope : Scope
  cp : BitVec 2
  pc : Pc
  deriving DecidableEq, Repr

/-- What a word waits for before it is performed. The word has had no effect, but for the lanes of `lanes` that have acted; it is issued again once this has ended. -/
inductive Hold where
  /-- Scratchpad lines that are absent (09 R195, R197). -/
  | lines (ls : List Nat)
  /-- Global lines that an engine owns (10 R216). -/
  | owned (ls : List Nat)
  /-- A completion flag that counts 63 (04 R64). -/
  | flagFull (k : Nat)
  /-- Some completion flag of the group (16 R314). -/
  | flagsClear
  /-- The long-latency operations of the group but copies and bulk reads (17 R338). -/
  | quiet
  /-- Every long-latency operation of the group (17 R340). -/
  | allDone
  /-- The passes and staged stores of the region, at RCOM (16 R315, 19 R356, 20 R376). -/
  | region
  /-- The domains of an acquiring FENCE: fabric, matrix, copy, threads from bit 0 up (10 R219). -/
  | domains (m : BitVec 4)
  /-- Sixteen closed batches that are incomplete (13 R275). -/
  | batchRoom
  /-- Batch number n, counted from the forming of the set (13 R276). -/
  | batch (n : Nat)
  /-- The array's reads of the registers of the set (08 R174). -/
  | regReads
  /-- The array's reads, for these operations, of registers that the word would write (13 R271). -/
  | regWrite (ops : List Nat)
  /-- The oldest of eight collectives in flight (20 R379). -/
  | collRoom (id : Nat)
  /-- A collective (20 R380). -/
  | coll (id : Nat)
  /-- The allowance of a class, for a cost in units (19 R361). -/
  | allowance (cls : Nat) (cost : Nat)
  /-- The fabric operations of the group, before a release at .sys (19 R352). -/
  | fabric
  /-- The same, before the release half of a FENCE (10 R219). -/
  | fence
  /-- A page on which a merge of DSYNC waits since a time (11 R237, 12 R255). -/
  | page (ia : Nat) (since : Nat)
  /-- A line that an engine owns, at a merge of DSYNC (11 R238). -/
  | merge (l : Nat)
  /-- Deterministic entries of the grid that are on their way to a home slice (11 R238). -/
  | detInFlight
  /-- Remote passes and deterministic entries that the group has sent: a trap outside a region waits until they have completed (16 R322), an abort until the remote atomics have returned (16 R318). -/
  | earlier
  /-- The effects that the group's last commit handed over (16 R315). -/
  | handed
  /-- The group has committed its region while its context is being pre-empted, and stops before the committing word (16 R328). -/
  | preempted
  /-- The later lanes of an ATOM or a RED, between two of which other agents' writes fall (11 R227): each lane with its effect, what the first of them have returned, their flags. -/
  | lanes (all : List (Nat × BufEntry)) (vals : List (Nat × List Word)) (flags : BitVec 8)
  /-- The precise trap that the word is to take waits for this (16 R322, R327). -/
  | trap (h : Hold)
  deriving DecidableEq, Repr

/-- A 64-bit word of memory on which a split waits, and the value it waits for (08 R176, 09 R202). `registered` says that the home slice holds the wait; one beyond its 256 is re-read at intervals. -/
structure WordWait where
  line : LineRef
  off : Nat
  least : DWord
  scope : Scope
  registered : Bool
  deriving DecidableEq, Repr

/-- Whether a split can issue (07 R143, R148). -/
inductive Park where
  | running
  /-- The word at the PC waits to be issued again. -/
  | retry (h : Hold)
  /-- The word at the PC is an arrival at a barrier whose phase must complete; it completes then (08 R172, 14 R301). -/
  | barrier (k : Nat)
  /-- The word at the PC is a CONV whose rendezvous is open (08 R173). -/
  | convene
  /-- The word at the PC is a WAITGE or an EVWAIT; it completes once the word satisfies it. -/
  | word (w : WordWait)
  /-- The wait of the word at the PC has ended with a trap, which the split takes when it next issues (08 R173, 12 R259). -/
  | trapDue (cause : Byte)
  deriving DecidableEq, Repr

/-- A split of a group (07 R133), with the clause attributes in force (04 R66, 05 R87). -/
structure Split where
  slot : Nat
  pc : Pc
  live : Mask
  exec : Mask
  /-- ENTRY, the index of its innermost open meet-stack entry. -/
  entry : Option Nat
  hints : Hints
  /-- Flags that the clause's first instruction waits for. -/
  wait : BitVec 12
  fa : BitVec 4
  fb : BitVec 4
  noYield : Bool
  cold : Bool
  /-- The split stands at its kernel's entry point, whose word must be a clause header (04 R66). -/
  starts : Bool
  /-- The cycle from which a SCHED stall lets the split issue. -/
  stallUntil : Nat
  park : Park
  deriving DecidableEq, Repr

/-- An entry of the meet stack that is in use (07 R135). -/
structure MeetEntry where
  mpc : Pc
  full : Mask
  arrived : Mask
  exitm : Mask
  ppc : Pc
  pmask : Mask
  parent : Option Nat
  deriving DecidableEq, Repr

/-! ### Long-latency operations, regions, traps -/

/-- Why an entry of ATOM.DET is refused: the cause that DETAIL holds, and FADDR (11 R236). -/
structure DetRefusal where
  cause : Byte
  faddr : DWord
  deriving DecidableEq, Repr

/-- The work that a counted operation stands for: an access of the group's own, or an operation of an engine, of the fabric, of deterministic entries or a collective, by its number. -/
inductive PendKind where
  | thread
  | engine (op : Nat)
  | remote (run : Nat)
  /-- The entries of one ATOM.DET: how many have still to reach a holding buffer, the first refusal among them, and whether a region's commit sent them (11 R235, R236). -/
  | det (left : Nat) (refused : Option DetRefusal) (committed : Bool)
  | coll (id : Nat)
  /-- Effects of a committed region, handed over to the memory system: the first waits for its line, the others stand behind it (16 R315, 10 R216, R221). With the region's number and RBEG address, the classes of its staged stores, and whether the commit is a release at .die or wider (10 R222). -/
  | handed (region : Nat) (rbeg : Pc) (classes : List Nat) (rels : Bool) (effects : List BufEntry)
  deriving DecidableEq, Repr

/-- A long-latency operation that has been issued and has not completed (04 R64, R65). `vals` are the elements it has still to deliver, by register × 64 + lane; `sides` the sidecars, by register × 2 + slice. -/
structure PendOp where
  id : Nat
  pc : Pc
  /-- The completion flag that counts it. -/
  flag : Option Nat
  kind : PendKind
  vals : SMap Word
  sides : SMap (BitVec 10)
  xflags : BitVec 8
  deriving DecidableEq, Repr

/-- An entry of the atomic log (16 R317): the lanes, each lane's location and returned value. `failed` says that the entry keeps the place of a RATOM pass that failed: a replay performs it there (log entry 108). -/
structure LogEntry where
  lanes : Mask
  locs : List (Nat × Nat)
  vals : List (Nat × List Word)
  failed : Bool
  deriving DecidableEq, Repr

/-- The shadow set of a region (16 R314). -/
structure Shadow where
  v : SMap Word
  side : SMap (BitVec 10)
  s : SMap Word
  p : SMap Mask
  xflags : BitVec 8
  lscale : BitVec 8
  lsmin : BitVec 8
  lsmax : BitVec 8
  run : BitVec 16
  count : BitVec 16
  seed : DWord
  splits : List Split
  meet : SMap MeetEntry
  lastSplit : Nat
  deriving DecidableEq, Repr

/-- An open region (16 R314, R320): RBEG address, the split that opened it, the mask, the shadow set, the words issued. `replaying` says that it has aborted and its RBEG word is to be issued again (17 R335). -/
structure Region where
  /-- The sender's number of the region (19 R356). -/
  id : Nat
  rbeg : Pc
  slot : Nat
  mask : BitVec 32
  shadow : Shadow
  issued : Nat
  replaying : Bool
  deriving DecidableEq, Repr

/-- The boundary at which a group stands since the last word it issued (16 R322). -/
inductive Edge where
  | none | rcom | safe
  deriving DecidableEq, Repr

/-- What a group that aborted its region waits for before it replays (16 R318, R319). -/
inductive ReplayCause where
  /-- A translation of an intermediate address by the context. -/
  | page (ia : Nat) (write : Bool)
  /-- A port towards the peer of a class (19 R348, R355). -/
  | remote (cls : Nat)
  | prism
  | noCause
  deriving DecidableEq, Repr

/-- An imprecise trap that waits for a safe point (16 R322). -/
structure Imprecise where
  cause : Byte
  faddr : DWord
  origin : DWord
  detail : DWord
  committed : Bool
  deriving DecidableEq, Repr

/-- What trap entry sets aside (16 R323), with the split that trapped and the place of the frame. The region the group was in is set aside with its log (log entry 14). -/
structure SetAside where
  splits : List Split
  meet : SMap MeetEntry
  lastSplit : Nat
  split : Nat
  frame : DWord
  region : Option Region
  log : List LogEntry
  replayPos : Nat
  /-- The flags on which operations that outlive the trap count, by the operation's number (16 R323). -/
  flags : List (Nat × Nat)
  deriving DecidableEq, Repr

/-- A remote form in progress (20 R375): the split that issued it, the word's address and the hints bound to it, its data register and size code, its passes not yet sent, and those sent and not answered. The request of a pass not sent holds its class in `pass`. -/
structure RemoteRun where
  id : Nat
  slot : Nat
  pc : Pc
  hints : Hints
  d : Nat
  z : Nat
  todo : List (Nat × RemoteReq)
  waiting : List Nat
  deriving DecidableEq, Repr

/-- The matrix context of a convened set or of a lone group (13 R275, R284). Batches are counted from the forming of the set: `closed` of them closed, `complete` completed. -/
structure MatCtx where
  id : Nat
  routing : DWord
  closed : Nat
  complete : Nat
  deriving DecidableEq, Repr

/-- What is particular to a glint (12 R262 to R265). -/
structure Glint where
  op : Nat
  burst : Nat
  va : DWord
  coords : List Nat
  bytes : List Byte
  issued : Nat
  deriving DecidableEq, Repr

/-- A group, or a glint (04 R54, 07 R130 to R133, 12 R262). -/
structure Group where
  /-- The team it belongs to, by the model's number. -/
  team : Nat
  /-- %group. -/
  num : Nat
  /-- %ctx. -/
  ctx : Nat
  width : Nat
  /-- The kernel's `.regs`. -/
  regs : Nat
  v : SMap Word
  side : SMap (BitVec 10)
  s : SMap Word
  p : SMap Mask
  xflags : BitVec 8
  lscale : BitVec 8
  lsmin : BitVec 8
  lsmax : BitVec 8
  run : BitVec 16
  count : BitVec 16
  seed : DWord
  splits : List Split
  meet : SMap MeetEntry
  lastSplit : Nat
  pend : List PendOp
  region : Option Region
  buf : List BufEntry
  log : List LogEntry
  replayPos : Nat
  /-- Its last word was RCOM or SAFE. -/
  edge : Edge
  /-- Consecutive aborts at one RBEG address. -/
  aborts : Nat
  abortsAt : Pc
  replay : Option ReplayCause
  handler : Option SetAside
  seq : Word
  imprecise : List Imprecise
  pslot : Nat
  /-- seq of ATOM.DET, by lane. -/
  detSeq : SMap Nat
  mat : MatCtx
  colls : List (Nat × Nat)
  collCount : Nat
  remote : Option RemoteRun
  remoteFails : Nat
  pcls : Nat
  readyAt : Nat
  /-- The cycle since which the agent has been eligible without issuing, while it is (07 R149). -/
  eligible : Option Nat
  promoted : Bool
  yielded : Option Nat
  /-- A word issued under single stepping whose SINGLE_STEP is still to be raised (17 R336): split slot, address, active lanes. -/
  stepDue : Option (Nat × Pc × Mask)
  stopped : Bool
  glint : Option Glint
  deriving DecidableEq, Repr

/-! ### Teams, grids, contexts -/

/-- A named barrier (12 R257). -/
structure Barrier where
  init : Bool
  lax : Bool
  flt : Bool
  ovr : Bool
  phase : BitVec 8
  expect : BitVec 7
  remain : BitVec 7
  lstat : BitVec 2
  pend : BitVec 32
  deriving DecidableEq, Repr

/-- A convened set: its members by %group, and its matrix context (07 R144, 13 R275). After DISB it has no members, and `formed` keeps those it had, whose FENCE waits for its batches (10 R219). -/
structure ConvSet where
  members : List Nat
  mat : MatCtx
  formed : List Nat
  deriving DecidableEq, Repr

/-- An open rendezvous of CONV (08 R173). -/
structure Rendezvous where
  mask : DWord
  arrived : List Nat
  deriving DecidableEq, Repr

/-- What a group that has ended still holds: its key, its registers, its private slot (07 R156). -/
structure GoneGroup where
  key : Nat
  width : Nat
  regs : Nat
  pslot : Nat
  deriving DecidableEq, Repr

/-- A team that is bound (07 R130, R132, R155, 09 R192). -/
structure Team where
  id : Nat
  ctx : Nat
  grid : Nat
  /-- %team. -/
  num : Nat
  core : Nat
  pair : Bool
  groups : Nat
  scr : Nat
  carve : BitVec 3
  base0 : Nat
  base1 : Nat
  weight : Nat
  barriers : List Barrier
  sets : List ConvSet
  rendezvous : List Rendezvous
  /-- The groups that have ended, and what they hold until the team is released (07 R130, R156). -/
  ended : Nat
  gone : List GoneGroup
  /-- The completion store has been performed (07 R156). -/
  published : Bool
  /-- When an access of its completion began to wait, in nanoseconds (12 R255). -/
  waitSince : Option Nat
  deriving DecidableEq, Repr

/-- Where a launch came from: a host command with its SEQ, or a group, its word and, for a SPAWN, the root counter of the spawner and the weight taken. -/
inductive LaunchFrom where
  | host (seq : BitVec 16)
  | group (key : Nat) (team : Nat) (pc : Pc)
  | spawn (key : Nat) (team : Nat) (pc : Pc) (root : DWord) (weight : Nat)
  deriving DecidableEq, Repr

/-- How far an accepted launch has come (07 R153): at its wait list, at its count, at the store to DONE with the number of its teams, or rejected late while the access that returns a weight waits. -/
inductive LaunchStage where
  | list
  | count
  | place (teams : Nat)
  | reject (cause : Byte) (faddr : Nat)
  deriving DecidableEq, Repr

/-- A launch that has been accepted (07 R151 to R153): the record, the argument block as it stood, the grid identifier. -/
structure Launch where
  id : Nat
  ctx : Nat
  grid : Nat
  /-- The record's sixteen doublewords. -/
  record : List DWord
  recIa : Nat
  args : List Byte
  origin : LaunchFrom
  stage : LaunchStage
  /-- The address of the access of it that waits on a page, and since when. -/
  waiting : Option (Nat × Nat)
  deriving DecidableEq, Repr

/-- A grid whose launch has proceeded (07 R153 to R155). -/
structure Grid where
  ctx : Nat
  id : Nat
  record : List DWord
  recIa : Nat
  args : List Byte
  /-- DIMX × DIMY × DIMZ, with the count of an indirect launch in place of DIMX. -/
  teams : Nat
  weight : Nat
  root : DWord
  /-- The next unit to receive a bind record (22 R399). -/
  nextUnit : Nat
  /-- The number of the launch. -/
  launch : Nat
  /-- Teams that have completed. -/
  done : Nat
  deriving DecidableEq, Repr

/-! ### Engines -/

/-- Forms of the copy unit (12 R243, R256, R260). -/
inductive CopyKind where
  | toScratch | toGlobal
  | multicast (mask : BitVec 32)
  | bulk (handler : Pc) (arg : DWord)
  deriving DecidableEq, Repr

/-- A receiver of a copy: its core, its team, and whether its completion has been performed; `fault` says that it faulted (12 R256). -/
structure Receiver where
  core : Nat
  team : Option Nat
  fault : Bool
  arrived : Bool
  deriving DecidableEq, Repr

/-- One failure of an engine operation: its cause, its address, the receiver. -/
structure EngineFail where
  cause : Byte
  faddr : DWord
  core : Nat
  deriving DecidableEq, Repr

/-- A copy or bulk read in flight (12 R252 to R265). -/
structure CopyOp where
  id : Nat
  kind : CopyKind
  core : Nat
  /-- The issuing group's place and number of its pending operation. -/
  key : Nat
  team : Nat
  ctx : Nat
  pc : Pc
  /-- The layout record's eight doublewords, and the codebook (12 R243, R246). -/
  record : List DWord
  codebook : List Byte
  recOff : Nat
  bar : Option Nat
  seed : DWord
  receivers : List Receiver
  /-- Destination lines, or bursts, that have landed, and those that have failed. -/
  landed : List Nat
  failed : List Nat
  /-- Accesses that wait on a page (`CopyOp.waitKey`): when each began to wait. -/
  waits : SMap Nat
  flags : BitVec 8
  /-- Source lines read, each once: line number of the virtual address, or 2^60 and the line of the team's scratchpad, with 138 bytes. -/
  sources : SMap (List Byte)
  /-- Source lines whose one read has failed, with its cause and FADDR (12 R253, R255, R256). -/
  badSources : SMap (Byte × DWord)
  lines : Nat
  fallback : Nat
  fails : List EngineFail
  /-- Kinds of failure seen: a line, a receiver, a glint (16 R331, COPY_FAULT). -/
  lineFailed : Bool
  receiverFailed : Bool
  glintFailed : Bool
  deriving DecidableEq, Repr

/-- A line in a core's return buffer (12 R261): the BREAD, the burst, its bytes, and the log of an earlier attempt. -/
structure Burst where
  op : Nat
  burst : Nat
  va : DWord
  coords : List Nat
  bytes : List Byte
  log : List LogEntry
  /-- The glint aborted and waits for this before it is spawned again. -/
  hold : Option Hold
  cause : Option ReplayCause
  deriving DecidableEq, Repr

/-- Operations of the matrix array (14 R304 to R309). -/
inductive MatKind where
  | zero
  | load (tile : Word)
  | store (tile : Word)
  | loop (a b lw : DWord) (dist : Bool)
  | epilogue
  | route (value : DWord)
  deriving DecidableEq, Repr

/-- A read of a register tile by a K-step: the step, the group, the first of its 32 registers (13 R271). -/
structure RegRead where
  step : Nat
  key : Nat
  first : Nat
  deriving DecidableEq, Repr

/-- An operation in a matrix queue (13 R274 to R285). -/
structure MatOp where
  id : Nat
  core : Nat
  /-- The matrix context it belongs to, and the batch it will be part of. -/
  q : Nat
  batch : Nat
  key : Nat
  team : Nat
  ctx : Nat
  pc : Pc
  kind : MatKind
  acc : Nat
  /-- The epilogue's descriptor, and whether it merges top-k lists. -/
  desc : Option (List DWord)
  topk : Bool
  /-- Register tiles as they stood at issue, one for each member: 32 blocks of scale, tag and codes. -/
  regsA : List (List (Byte × BitVec 2 × List Nat))
  regsB : List (List (Byte × BitVec 2 × List Nat))
  /-- Whose registers each step reads (13 R271). -/
  regReads : List RegRead
  /-- The codebooks of the A and the B operand, once a step has fetched a CB4 block of it (13 R270). -/
  bookA : Option (List Byte)
  bookB : Option (List Byte)
  /-- Operand lines read before their step (13 R277): the step × 2^22 + core × 4096 + line, with 138 bytes. -/
  sources : SMap (List Byte)
  /-- K-steps performed. -/
  step : Nat
  /-- The loop part, or the whole of another operation, has been performed. -/
  stepsDone : Bool
  /-- Rows converted by the epilogue: bytes, and for a block its slot's tag. -/
  rows : List (List Byte × Option (BitVec 2))
  converted : Bool
  delivered : List Nat
  counted : Bool
  /-- When a push row first failed with the link cause, or a delivery began to wait. -/
  waits : SMap Nat
  flags : BitVec 8
  deriving DecidableEq, Repr

/-- The state of a scratchpad line (09 R195, R196): P and X, and the engine write issued last. An unlisted line is present. -/
structure LineState where
  present : Bool
  poisoned : Bool
  writer : Nat
  deriving DecidableEq, Repr

/-- What a pre-emption has saved (16 R328 to R330). Groups are kept by the core and slot they held. -/
structure Saved where
  groups : List (Nat × Group)
  teams : List Team
  /-- Bytes of the teams' scratchpad lines, with the states of the lines. -/
  lines : List Host.Cell
  lineBits : List (Nat × LineState)
  /-- Accumulator words and the tiles they belong to. -/
  accWords : List (Nat × Word)
  tiles : List Nat
  matOps : List MatOp
  /-- The scratchpad lines that the queued operations own (09 R196). -/
  owned : List (Nat × Nat)
  deriving DecidableEq, Repr

/-- A context record (22 R388) and what the device knows of the context. -/
structure Context where
  record : SMap Byte
  reported : Option Byte
  /-- A pre-emption in progress, with the SEQ of its command. -/
  preempting : Option (BitVec 16)
  preempted : Bool
  saved : Option Saved
  /-- A RESUME in progress: the target cluster of each cluster, 255 for none named. -/
  resuming : Option (List Nat)
  stepping : Bool
  nextGrid : Nat
  /-- Spill units in use (11 R236). -/
  detUnits : List Nat
  /-- ABORT has been received while engines drain. -/
  freeing : Bool
  deriving DecidableEq, Repr

/-- A batch that has failed: its matrix context, its number, the cause and the operation's address (13 R278). -/
structure BatchFail where
  q : Nat
  batch : Nat
  key : Nat
  fault : Byte
  cause : Byte
  pc : Pc
  deriving DecidableEq, Repr

/-- A matrix batch's flags, gathered until it completes (13 R282). -/
structure BatchFlags where
  q : Nat
  batch : Nat
  key : Nat
  flags : BitVec 8
  deriving DecidableEq, Repr

/-- A line of a core's L1 (09 R199): the line of memory it copies, its 138 bytes (payload, penumbra, tags), which of them it holds, and which are dirty. -/
structure L1Line where
  home : Nat
  bytes : List Byte
  valid : BitVec 138
  dirty : BitVec 138
  deriving DecidableEq, Repr

/-- A cached translation (09 R188): page level, physical address of the page, W and MIR. -/
structure TlbEntry where
  level : Nat
  pa : Nat
  writable : Bool
  mirrored : Bool
  deriving DecidableEq, Repr

/-- A buffered effect of a glint that has ended, held until its scratchpad line is present (12 R265). -/
structure HeldEffect where
  op : Nat
  entry : BufEntry
  core : Nat
  ctx : Nat
  team : Nat
  deriving DecidableEq, Repr

/-! ### Deterministic atomics -/

/-- An entry of ATOM.DET in a holding buffer or a run: issuer, seq, value (11 R235). -/
structure DetEntry where
  issuer : Nat
  seq : Nat
  /-- Of bfadd2.bf16; else of fadd.f32. -/
  bf : Bool
  value : Word
  deriving DecidableEq, Repr

/-- A request that waits at a home slice: an entry of ATOM.DET on its way into a holding buffer (09 R184, 11 R236). -/
structure SliceReq where
  id : Nat
  slice : Nat
  since : Nat
  promoted : Bool
  line : LineRef
  off : Nat
  bf : Bool
  /-- The grid-linear lane index, the lane and the value; seq is counted as the entry enters a buffer. -/
  issuer : Nat
  lane : Nat
  value : Word
  ctx : Nat
  grid : Nat
  /-- The group, its pending operation and the word, for DET_SPILL. -/
  key : Nat
  pend : Nat
  team : Nat
  pc : Pc
  va : DWord
  /-- A write-out that it calls for waits on a page since then. -/
  waitSince : Option Nat
  deriving DecidableEq, Repr

/-- A holding buffer of a home slice (11 R236): entries sorted by key, and when its latest entry came. -/
structure DetBuf where
  slice : Nat
  line : LineRef
  off : Nat
  ctx : Nat
  grid : Nat
  entries : List DetEntry
  latest : Nat
  va : DWord
  deriving DecidableEq, Repr

/-- A spill run: the unit of the context's spill area it occupies, the word and grid it belongs to, and the forms of its entries, for which the run's bytes have no place (11 R236; log entry 36). -/
structure DetRun where
  ctx : Nat
  grid : Nat
  line : LineRef
  off : Nat
  bfs : List Bool
  unit : Nat
  va : DWord
  deriving DecidableEq, Repr

/-! ### Fabric -/

/-- A send-allowance register (19 R359). -/
structure Allowance where
  cap : BitVec 16
  low : BitVec 16
  value : BitVec 16
  deriving DecidableEq, Repr

/-- Who waits on an allowance (19 R361). -/
inductive Waiter where
  | group (key : Nat)
  /-- A row of an epilogue, or a message of a collective by its `CollSend.waitKey`: each is a step of its own. -/
  | push (op row : Nat)
  | coll (id what : Nat)
  deriving DecidableEq, Repr

/-- A port (19 R347, R348). -/
structure Port where
  up : Bool
  deriving DecidableEq, Repr

/-- A pass sent and not answered (19 R353): its class, cost, the group and the run, the port that carries it (none while it waits for a port), since when it waits. -/
structure Pass where
  id : Nat
  cls : Nat
  cost : Nat
  core : Nat
  key : Nat
  run : Nat
  team : Nat
  ctx : Nat
  pc : Pc
  req : RemoteReq
  port : Option Nat
  waitSince : Nat
  /-- The split that issued the form, its destination register and size code. -/
  slot : Nat
  d : Nat
  z : Nat
  /-- The index of its entry in the atomic log (16 R317). -/
  logAt : Option Nat
  /-- It has failed: the low bits of REMOTE_FAILED and the peer's cause. The group has still to learn it. -/
  failed : Option (BitVec 2 × Byte)
  /-- It has its values and flags, which wait until the array has read the registers that they are written to (13 R271). -/
  answer : Option (List (Nat × List Word) × BitVec 8)
  deriving DecidableEq, Repr

/-- A push row sent to a peer and not acknowledged (13 R283, 19 R358). -/
structure PushPass where
  core : Nat
  op : Nat
  row : Nat
  cls : Nat
  cost : Nat
  port : Option Nat
  deriving DecidableEq, Repr

/-- A commit or a discard of staged stores on its way to a peer (19 R356). -/
structure Commit where
  id : Nat
  ctx : Nat
  cls : Nat
  src : StageKey
  discard : Bool
  since : Nat
  core : Nat
  num : Nat
  team : Nat
  pc : Pc
  deriving DecidableEq, Repr

/-- A request of a peer that waits here on a page (19 R354) or, for staged stores, on room in the stage. -/
structure PeerWait where
  req : RemoteReq
  since : Nat
  deriving DecidableEq, Repr

/-- A member of a collective (19 R364): device and die, and the class that names it, 64 for this member. -/
structure CollMember where
  dev : Nat
  die : Nat
  cls : Nat
  deriving DecidableEq, Repr

/-- A message that a member is to send: rank of the receiver, line, what it brings. -/
structure CollSend where
  dst : Nat
  line : Nat
  kind : CollKind
  deriving DecidableEq, Repr

/-- A message on its way: the core and class whose units it has taken, the units, and the port it left by (19 R348, R360). -/
structure CollSent where
  what : CollSend
  core : Nat
  cls : Nat
  cost : Nat
  port : Option Nat
  deriving DecidableEq, Repr

/-- A collective in flight at a member (19 R363 to R368). -/
structure Coll where
  id : Nat
  ctx : Nat
  core : Nat
  die : Nat
  key : Nat
  team : Nat
  handle : Nat
  pc : Pc
  /-- The parameter block's bytes. -/
  block : List Byte
  /-- Each member in rank order, and this member's rank. -/
  members : List CollMember
  rank : Nat
  /-- Ranks that have shown the same parameters (19 R364). -/
  met : List Nat
  /-- This member's contributions that have been read: line, bytes. -/
  parts : List (Nat × List Byte)
  /-- Partial sums received: rank, line, the bytes that came. -/
  sums : List (Nat × Nat × List Byte)
  /-- Lines of the result received. -/
  results : List (Nat × List Byte)
  /-- Chunks taken up, and when the wait of each began. -/
  ready : List Nat
  since : Nat
  /-- Lines of DST written. -/
  written : List Nat
  /-- Messages still to be sent. -/
  queue : List CollSend
  /-- Messages sent and not acknowledged, oldest first. -/
  sent : List CollSent
  /-- What waits, since when: 2 × line for a read of SRC, 2 × line + 1 for a write of DST, and `CollSend.waitKey` for a message whose link failed or that found no port. -/
  waits : SMap Nat
  failed : Option Byte
  deriving DecidableEq, Repr

/-- The outcome of a collective that has completed, kept for CWAIT (20 R380). -/
structure CollDone where
  id : Nat
  failed : Option Byte
  deriving DecidableEq, Repr

/-- What this device sends to other devices, oldest first: requests, responses, commits and discards, pushes, messages of collectives. -/
inductive FabricMsg where
  | request (cls : Nat) (req : RemoteReq)
  | response (dev : Nat) (pass : Nat) (resp : RemoteResp)
  /-- The requester has a remote atomic's response (19 R357). -/
  | received (dev : Nat) (pass : Nat)
  | commit (cls : Nat) (src : StageKey)
  | discard (cls : Nat) (src : StageKey)
  /-- A commit or a discard of another device has been carried out. -/
  | settled (src : StageKey)
  | push (cls : Nat) (row : PushRow)
  /-- A push row has been written; or why it has not, as in the low bits of REMOTE_FAILED, and the cause met here. -/
  | pushAck (dev : Nat) (addr : DWord) (refusal : Option (BitVec 2 × Byte))
  | coll (dev die : Nat) (ctx : Nat) (collid : Nat) (msg : CollMsg)
  /-- This device claims a mirrored block from the other devices of its set (19 R370). -/
  | mirrorClaim (ia : Nat)
  /-- This device has given a mirrored block up to its owner, or has no table for the split. -/
  | mirrorAnswer (owner : Nat) (ia : Nat) (released : Bool)
  deriving DecidableEq, Repr

/-- A trip (23 R398): when the first of its sampling period came, whether one was thermal, and the contexts whose report is still due, for it may yet be THERMAL. -/
structure Trip where
  since : Nat
  thermal : Bool
  due : List Nat
  deriving DecidableEq, Repr

/-- A collapse of a mirrored block that has been asked for (19 R370). -/
structure MirrorReq where
  id : Nat
  ctx : Nat
  ia : Nat
  /-- Every other device of the set has given the block up. -/
  released : Bool
  deriving DecidableEq, Repr

/-! ### Host -/

/-- A message to the host: a response or a fault message (22 R386). -/
structure HostOut where
  opc : Byte
  status : Byte
  seq : BitVec 16
  ctx : Word
  cause : Byte
  payload : List Byte
  deriving DecidableEq, Repr

/-- A patch blob's header and bytes (22 R390). -/
structure PatchBlob where
  version : Word
  bytes : List Byte
  deriving DecidableEq, Repr

/-- What the Lantern cores are told and the host is not (16 R331, column L). -/
structure LanternReport where
  cause : Byte
  detail : Nat
  deriving DecidableEq, Repr

/-! ### The device -/

/-- The state of a quadrant: the cycle from which it may issue, and the agent that issued last (07 R148, R149). -/
structure Quadrant where
  busyUntil : Nat
  last : Nat
  deriving DecidableEq, Repr

/-- The state of the device. -/
structure State where
  /-- The actions to come, first to last: the model's input (log entry 2). -/
  agenda : List Action
  /-- Counts the free values used: the model's own (log entry 2). -/
  tick : Nat
  /-- The agent and split slot whose word is being issued: the model's own (log entry 2). -/
  focus : Option (Nat × Nat)
  /-- Numbers the model gives to operations, teams and launches: the model's own (log entry 2). -/
  fresh : Nat
  /-- How many lanes of the next ATOM or RED act in its issue, before writes of other agents; none: all of them (11 R227). The model's own (log entry 5). -/
  laneCut : Option Nat
  cycles : Nat
  nanos : Nat
  devno : BitVec 10
  aclkMHz : Nat
  stopped : Bool
  /-- When ACLK took its present value (23 R396, R398). -/
  aclkSince : Nat
  /-- The trip that has stopped the device (23 R398). -/
  tripped : Option Trip
  booted : Bool
  mem : Memory
  /-- Lines whose check code cannot correct them (03 R44). -/
  poison : List Nat
  offlineSlices : List Nat
  offlineStacks : List Nat
  /-- PTROOT of dies 0 to 3. -/
  ptroot : SMap DWord
  /-- Cached translations, one for a leaf, by its level and the first 64 KiB page that it maps, whose two top bits are the die (`tlbKey`). -/
  tlb : SMap TlbEntry
  /-- Frames of each die's table pool: die, physical address (19 R370, 22 R387). -/
  pool : List (Nat × Nat)
  /-- Free tables of 256 bytes, cut from frames of the pool: die, physical address. -/
  smallTables : List (Nat × Nat)
  /-- Doublewords of the slot tables: (die × 128 + record) × 8 + doubleword. -/
  slots : SMap DWord
  /-- The record at which each die's dispatch goes on with its visits (07 R147). -/
  visits : SMap Nat
  /-- Context records and status, by context number. -/
  ctxs : List (Nat × Context)
  grids : List Grid
  launches : List Launch
  teams : List Team
  /-- Groups by core × 64 + slot; glints by core × 64 + 32 + glint slot. -/
  groups : List (Nat × Group)
  /-- CARVE of each core; an unlisted core holds 011 (log entry 4). -/
  carve : SMap (BitVec 3)
  /-- States of scratchpad lines, by core × 4096 + line. -/
  lineState : SMap LineState
  /-- L1 lines, by core × 2^45 + line number of the intermediate address. -/
  l1 : List (Nat × L1Line)
  /-- Accumulator tiles: (core × 64 + tile) × 1024 + 32 i + j. -/
  acc : SMap Word
  /-- The context that wrote a tile most recently, by core × 64 + tile. -/
  accOwner : SMap Nat
  quads : SMap Quadrant
  copies : List CopyOp
  /-- Return buffers, by core. -/
  bursts : List (Nat × Burst)
  /-- Releases at .team scope not yet followed by a write-back of their core's dirty lines: the core, and the line written (LineRef.own), or `fenceLine` for a FENCE (10 R214). -/
  teamRels : List (Nat × Nat)
  /-- Registered waits, by agent and split, that a write of the current action has satisfied (09 R202). -/
  metWaits : List (Nat × Nat)
  /-- Lines that engine operations own, in the order of issue: the line (LineRef.own) and the operation (10 R216). -/
  owned : List (Nat × Nat)
  held : List HeldEffect
  matOps : List MatOp
  batchFails : List BatchFail
  batchFlags : List BatchFlags
  sliceReqs : List SliceReq
  detBufs : List DetBuf
  detRuns : List DetRun
  /-- Send allowances, by core × 64 + class; an unlisted one holds CAP 256, LOW 64, VALUE 256. -/
  allow : SMap Allowance
  /-- The wait order of each class, by core × 64 + class. -/
  waiters : SMap (List Waiter)
  ports : SMap Port
  passes : List Pass
  pushes : List PushPass
  commits : List Commit
  peerWaits : List PeerWait
  /-- Push rows of peers that wait here on a page, each since when (19 R358). -/
  pushWaits : List (PushRow × Nat)
  /-- Staged stores that peers' regions hold here (19 R356). -/
  staged : List RemoteReq
  /-- Responses of remote atomics kept until acknowledged (19 R357). -/
  keptResponses : List (Nat × Nat × RemoteResp)
  colls : List Coll
  collsDone : List CollDone
  wire : List FabricMsg
  mirrorReqs : List MirrorReq
  prismFull : Bool
  prismUnreachable : Bool
  outbox : List HostOut
  lantern : List LanternReport
  /-- Counters of 22 R393, by die × 16 + counter. -/
  counters : SMap Word
  /-- Times of the ATTEST requests of the last second, and whether ATTEST is refused (22 R391). -/
  attests : List Nat
  attestRefused : Option Nat
  patchStore : Option PatchBlob
  patchRunning : Option PatchBlob
  oneWay : Word
  deriving DecidableEq, Repr

/-- The device right after reset (22 R390: before the boot sequence, which DEVICE_RESET performs): no group, no context, every register at the value the spec gives for reset. Bind-record fields whose Reset column holds a dash (07 R145) read 0 at power-on (log entry 4). -/
def State.reset : State where
  agenda := []
  tick := 0
  focus := none
  fresh := 0
  laneCut := none
  cycles := 0
  nanos := 0
  devno := 0
  aclkMHz := 2400
  stopped := false
  aclkSince := 0
  tripped := none
  booted := false
  mem := []
  poison := []
  offlineSlices := []
  offlineStacks := []
  ptroot := []
  tlb := []
  pool := []
  smallTables := []
  slots := []
  visits := []
  ctxs := []
  grids := []
  launches := []
  teams := []
  groups := []
  carve := []
  lineState := []
  l1 := []
  acc := []
  accOwner := []
  quads := []
  copies := []
  bursts := []
  teamRels := []
  metWaits := []
  owned := []
  held := []
  matOps := []
  batchFails := []
  batchFlags := []
  sliceReqs := []
  detBufs := []
  detRuns := []
  allow := []
  waiters := []
  ports := []
  passes := []
  pushes := []
  commits := []
  peerWaits := []
  pushWaits := []
  staged := []
  keptResponses := []
  colls := []
  collsDone := []
  wire := []
  mirrorReqs := []
  prismFull := false
  prismUnreachable := false
  outbox := []
  lantern := []
  counters := []
  attests := []
  attestRefused := none
  patchStore := none
  patchRunning := none
  oneWay := 0

end Sys2Proof.Machine
end

