-- ==== Sys2Proof/Machine/SMap.lean ====
section
/-! DEFINITION. Sparse maps, keyed lists and memory as lists in canonical form: reading, writing, and the form itself. -/

namespace Sys2Proof.Machine

/-- The value of key `k`, or the default `d`. -/
def smGet {α : Type} (d : α) : SMap α → Nat → α
  | [], _ => d
  | (j, v) :: r, k => if j = k then v else smGet d r k

/-- Removes key `k`. -/
def smDel {α : Type} (m : SMap α) (k : Nat) : SMap α := m.filter fun e => decide (e.1 ≠ k)

/-- Lists `v` at key `k`, keys rising. -/
def smIns {α : Type} : SMap α → Nat → α → SMap α
  | [], k, v => [(k, v)]
  | (j, u) :: r, k, v =>
    if j = k then (k, v) :: r else if k < j then (k, v) :: (j, u) :: r else (j, u) :: smIns r k v

/-- Writes `v` at key `k`: the default is not listed. -/
def smPut {α : Type} [DecidableEq α] (d : α) (m : SMap α) (k : Nat) (v : α) : SMap α :=
  if v = d then smDel m k else smIns m k v

/-- Every key is above `k`, and the keys rise. -/
def keysRise {α : Type} : Option Nat → List (Nat × α) → Bool
  | _, [] => true
  | none, (j, _) :: r => keysRise (some j) r
  | some i, (j, _) :: r => decide (i < j) && keysRise (some j) r

/-- The canonical form of a sparse map: keys rise and no value is the default. -/
def smWf {α : Type} [DecidableEq α] (d : α) (m : SMap α) : Bool :=
  keysRise none m && m.all fun e => decide (e.2 ≠ d)

/-- The value of key `k` in a keyed list. -/
def alGet {α : Type} : List (Nat × α) → Nat → Option α
  | [], _ => none
  | (j, v) :: r, k => if j = k then some v else alGet r k

/-- Replaces the value of key `k` by `f` of it. -/
def alMap {α : Type} : List (Nat × α) → Nat → (α → α) → List (Nat × α)
  | [], _, _ => []
  | (j, v) :: r, k, f => if j = k then (j, f v) :: r else (j, v) :: alMap r k f

/-! ### Memory -/

/-- The byte at an address; an unlisted address reads zero (log entry 3). -/
def memGet (m : Memory) (a : Nat) : Byte := smGet 0 m a

/-- Writes one byte. -/
def memPut (m : Memory) (a : Nat) (b : Byte) : Memory := smPut 0 m a b

/-- The canonical form of memory: addresses rise and no listed byte is what an unlisted address reads. -/
def Memory.wf (m : Memory) : Bool := smWf 0 m

/-- Writes bytes at rising addresses from `a`. -/
def memPuts : Memory → Nat → List Byte → Memory
  | m, _, [] => m
  | m, a, b :: r => memPuts (memPut m a b) (a + 1) r

/-- `n` bytes from address `a`. -/
def memGets (m : Memory) (a : Nat) : Nat → List Byte
  | 0 => []
  | n + 1 => memGet m a :: memGets m (a + 1) n

/-- The entries from address `a` up to before address `b`. -/
def memRange (m : Memory) (a b : Nat) : List Host.Cell :=
  m.filter fun c => decide (a ≤ c.1) && decide (c.1 < b)

/-- Removes every entry from address `a` up to before address `b`: the bytes read zero. -/
def memClear (m : Memory) (a b : Nat) : Memory :=
  m.filter fun c => decide (c.1 < a) || decide (b ≤ c.1)

/-- `n` bytes from address `a`, read in one pass over the memory. -/
def memLine (m : Memory) (a n : Nat) : List Byte := memGets (memRange m a (a + n)) a n

end Sys2Proof.Machine
end

