-- ==== Sys2Proof/Machine/Bits.lean ====
section
/-! DEFINITION. Bit-field, sign-extension and byte-order helpers (02 R21, R22; 00 R3), lanes and masks. -/

namespace Sys2Proof.Machine

/-- The number of bytes, the lowest address first (R3). -/
def leNat : List Byte → Nat
  | [] => 0
  | b :: r => b.toNat + 256 * leNat r

/-- The `n` low bytes of a number, the lowest address first. -/
def natLe (x : Nat) : Nat → List Byte
  | 0 => []
  | n + 1 => BitVec.ofNat 8 x :: natLe (x / 256) n

/-- Bits [lo + n − 1 : lo] of a number. -/
def bits (x lo n : Nat) : Nat := x / 2 ^ lo % 2 ^ n

/-- Bit i of a number. -/
def bit (x i : Nat) : Bool := x / 2 ^ i % 2 = 1

/-- The number of a bit. -/
def b2n (b : Bool) : Nat := if b then 1 else 0

/-- An n-bit number read as two's complement. -/
def sext (x n : Nat) : Int := if x % 2 ^ n < 2 ^ (n - 1) then (x % 2 ^ n : Int) else (x % 2 ^ n : Int) - (2 ^ n : Nat)

/-- An integer modulo 2^n. -/
def wrap (n : Nat) (x : Int) : Nat := (x % ((2 ^ n : Nat) : Int)).toNat

/-- 2^n − 1 as a mask of n lanes. -/
def laneMask (n : Nat) : Mask := BitVec.ofNat 64 (2 ^ n - 1)

/-- Bit l of a lane mask. -/
def hasLane (m : Mask) (l : Nat) : Bool := m.getLsbD l

/-- The lanes of a mask, from `l` upward, at most `n` of them looked at. -/
def lanesFrom (m : Mask) (l : Nat) : Nat → List Nat
  | 0 => []
  | n + 1 => if hasLane m l then l :: lanesFrom m (l + 1) n else lanesFrom m (l + 1) n

/-- The lanes of a mask in increasing order. -/
def lanes (m : Mask) : List Nat := lanesFrom m 0 64

/-- The mask of a list of lanes. -/
def maskOf : List Nat → Mask
  | [] => 0
  | l :: r => maskOf r ||| BitVec.ofNat 64 (2 ^ l)

/-- The lanes among the first `n` for which `f` holds. -/
def maskWhere (n : Nat) (f : Nat → Bool) : Mask := maskOf ((List.range n).filter f)

/-- A 64-bit value from its even and odd registers (R22). -/
def pairOf (lo hi : Word) : DWord := hi ++ lo

/-- The even register's half of a 64-bit value. -/
def lo32 (x : DWord) : Word := BitVec.ofNat 32 x.toNat

/-- The odd register's half of a 64-bit value. -/
def hi32 (x : DWord) : Word := BitVec.ofNat 32 (x.toNat / 2 ^ 32)

/-- The bits of a narrow integer value as a register element: sign copies for the signed types, zeros for the natural ones (R22). -/
def narrow (signed : Bool) (n : Nat) (x : Nat) : Word :=
  if signed then BitVec.ofNat 32 (wrap 32 (sext x n)) else BitVec.ofNat 32 (x % 2 ^ n)

/-- Rotation left of a 32-bit word (R33). -/
def rotl32 (x : Word) (n : Nat) : Word := x.rotateLeft n

/-- Two lists, byte by byte. -/
def zipBytes (f : Byte → Byte → Byte) : List Byte → List Byte → List Byte
  | a :: r, b :: q => f a b :: zipBytes f r q
  | _, _ => []

/-- Replaces the elements of a list from index `i` by those of another. -/
def overlay {α : Type} : List α → Nat → List α → List α
  | [], _, _ => []
  | l, _, [] => l
  | _ :: r, 0, y :: q => y :: overlay r 0 q
  | x :: r, i + 1, q => x :: overlay r i q

/-- Element i of a list of bytes, zero beyond it. -/
def byteAt (l : List Byte) (i : Nat) : Byte := l.getD i 0

/-- The `n` bytes of a list from index `i`, zero beyond it. -/
def slice (l : List Byte) (i n : Nat) : List Byte := (List.range n).map fun k => byteAt l (i + k)

/-- Little-endian number of `n` bytes of a list from index `i`. -/
def leAt (l : List Byte) (i n : Nat) : Nat := leNat (slice l i n)

end Sys2Proof.Machine
end

