-- ==== Sys2Proof/Machine/Float.lean ====
section
/-! DEFINITION. Floating point: formats (02 R24), exact values, rounding (R28, R29), the operations of IEEE 754 the spec uses (R25, R26), comparison, conversion (R32), and the flicker generator (R33). An exact real value is a sign, a natural mantissa and an exponent. -/

namespace Sys2Proof.Machine

/-! ### Flags (04 R59) -/

/-- NV, bit 0 of %flags. -/
def fNV : BitVec 8 := 0x01
/-- DZ, bit 1. -/
def fDZ : BitVec 8 := 0x02
/-- OF, bit 2. -/
def fOF : BitVec 8 := 0x04
/-- UF, bit 3. -/
def fUF : BitVec 8 := 0x08
/-- NX, bit 4. -/
def fNX : BitVec 8 := 0x10
/-- SAT, bit 5. -/
def fSAT : BitVec 8 := 0x20
/-- STEPOVF, bit 6. -/
def fSTEPOVF : BitVec 8 := 0x40
/-- FLOOR, bit 7. -/
def fFLOOR : BitVec 8 := 0x80

/-- A flag if a condition holds. -/
def flagIf (c : Bool) (f : BitVec 8) : BitVec 8 := if c then f else 0

/-! ### Formats and values -/

/-- An IEEE format: widths of its exponent and fraction fields (R24). -/
structure Fmt where
  ebits : Nat
  fbits : Nat
  deriving DecidableEq, Repr

def Fmt.f64 : Fmt := ⟨11, 52⟩
def Fmt.f32 : Fmt := ⟨8, 23⟩
def Fmt.bf16 : Fmt := ⟨8, 7⟩
def Fmt.f16 : Fmt := ⟨5, 10⟩

/-- Bias B = 2^(e−1) − 1. -/
def Fmt.bias (f : Fmt) : Int := ((2 ^ (f.ebits - 1) : Nat) : Int) - 1
/-- emin = 1 − B. -/
def Fmt.emin (f : Fmt) : Int := 1 - f.bias
/-- emax = B. -/
def Fmt.emax (f : Fmt) : Int := f.bias
/-- Precision p = f + 1. -/
def Fmt.p (f : Fmt) : Nat := f.fbits + 1
/-- Bits of the whole format. -/
def Fmt.width (f : Fmt) : Nat := 1 + f.ebits + f.fbits

/-- What a pattern denotes: a NaN, an infinity, or a finite value ±m × 2^e. -/
inductive Fl where
  | nan (signalling : Bool)
  | inf (neg : Bool)
  | fin (neg : Bool) (m : Nat) (e : Int)
  deriving DecidableEq, Repr

/-- The value of a pattern (R24). -/
def Fl.ofBits (f : Fmt) (x : Nat) : Fl :=
  let s := bit x (f.ebits + f.fbits)
  let ee := bits x f.fbits f.ebits
  let ff := x % 2 ^ f.fbits
  if ee = 2 ^ f.ebits - 1 then
    if ff = 0 then .inf s else .nan (!bit ff (f.fbits - 1))
  else if ee = 0 then .fin s ff (f.emin - f.fbits)
  else .fin s (2 ^ f.fbits + ff) ((ee : Int) - f.bias - f.fbits)

/-- The default NaN (R24). -/
def Fmt.defaultNaN (f : Fmt) : Nat := (2 ^ f.ebits - 1) * 2 ^ f.fbits + 2 ^ (f.fbits - 1)

/-- The pattern of a value of the format; a NaN gives the default NaN (R26). The mantissa of a finite value is a whole number of grid spacings (R28). -/
def Fl.toBits (f : Fmt) : Fl → Nat
  | .nan _ => f.defaultNaN
  | .inf s => b2n s * 2 ^ (f.ebits + f.fbits) + (2 ^ f.ebits - 1) * 2 ^ f.fbits
  | .fin s m e =>
    b2n s * 2 ^ (f.ebits + f.fbits) +
      (if m = 0 then 0
       else if m < 2 ^ f.fbits then m
       else (e + f.fbits + f.bias).toNat * 2 ^ f.fbits + m - 2 ^ f.fbits)

/-- floor(log2 |x|) of a finite value other than zero. -/
def magExp (m : Nat) (e : Int) : Int := (Nat.log2 m : Int) + e

/-! ### Rounding -/

/-- How a result is rounded: mode, SR's word and width, saturation, flushing (R28, R29). -/
structure RndCtl where
  mode : BitVec 3
  word : Word
  w : Nat
  sat : Bool
  flush : Bool
  deriving DecidableEq, Repr

/-- Round to nearest, no saturation, no flushing. -/
def RndCtl.rne : RndCtl := ⟨0, 0, 32, false, false⟩

/-- Trailing zero bits of a number, looking at most at `n` bits. -/
def trailingZeros (x : Nat) : Nat → Nat
  | 0 => 0
  | n + 1 => if x % 2 = 1 then 0 else 1 + trailingZeros (x / 2) n

/-- Whether the neighbour away from zero is taken, when `r` of 2^sh is discarded and `lo` is kept, r ≠ 0 (R28, R31). -/
def roundsUp (c : RndCtl) (neg : Bool) (lo r sh : Nat) : Bool :=
  if c.mode = 0 then decide (2 ^ sh < 2 * r) || (decide (2 * r = 2 ^ sh) && decide (lo % 2 = 1))
  else if c.mode = 1 then false
  else if c.mode = 2 then !neg
  else if c.mode = 3 then neg
  else
    let d := sh - trailingZeros r sh
    let v := min c.w d
    let q := c.word.toNat / 2 ^ (32 - v)
    decide (2 ^ (sh + v) ≤ r * 2 ^ v + q * 2 ^ sh)

/-- ±m × 2^e in units of 2^qe, rounded: the units and whether they differ from the exact value. -/
def roundAt (c : RndCtl) (qe : Int) (neg : Bool) (m : Nat) (e : Int) : Nat × Bool :=
  if qe ≤ e then (m * 2 ^ (e - qe).toNat, false)
  else
    let sh := (qe - e).toNat
    let lo := m / 2 ^ sh
    let r := m % 2 ^ sh
    if r = 0 then (lo, false)
    else (if roundsUp c neg lo r sh then lo + 1 else lo, true)

/-- The grid spacing's exponent at a value (R28): max(floor(log2 |x|), emin) − p + 1. -/
def gridExp (p : Nat) (emin : Int) (m : Nat) (e : Int) : Int := max (magExp m e) emin - p + 1

/-- `round` of R28 into an IEEE format, with the flushing of R29: the delivered value and its flags. -/
def roundFl (f : Fmt) (c : RndCtl) (neg : Bool) (m : Nat) (e : Int) : Fl × BitVec 8 :=
  if m = 0 then (.fin neg 0 0, 0)
  else
    let qe := gridExp f.p f.emin m e
    let (k, inexact) := roundAt c qe neg m e
    let tiny := decide (magExp m e < f.emin)
    let uf := flagIf (inexact && tiny) fUF
    if k ≠ 0 ∧ f.emax < magExp k qe then
      if c.sat then (.fin neg (2 ^ f.p - 1) (f.emax - f.fbits), uf ||| fSAT ||| fNX)
      else
        let toInf := c.mode = 0 || c.mode = 4 || (c.mode = 2 && !neg) || (c.mode = 3 && neg)
        (if toInf then .inf neg else .fin neg (2 ^ f.p - 1) (f.emax - f.fbits), uf ||| fOF ||| fNX)
    else if c.flush && decide (k ≠ 0) && decide (magExp k qe < f.emin) then
      (.fin neg 0 0, uf ||| fUF ||| fNX)
    else (.fin neg k qe, uf ||| flagIf inexact fNX)

/-- Reads an operand under flushing: a subnormal is a zero of its sign (R29). -/
def flushIn (f : Fmt) (on : Bool) : Fl → Fl
  | .fin s m e => if on && decide (m ≠ 0) && decide (magExp m e < f.emin) then .fin s 0 0 else .fin s m e
  | x => x

/-! ### Exact operations: the exact result, and whether the operation is invalid -/

/-- The signed mantissa at exponent e' ≤ e. -/
def signedAt (neg : Bool) (m : Nat) (e e' : Int) : Int :=
  let k : Int := ((m * 2 ^ (e - e').toNat : Nat) : Int)
  if neg then -k else k

/-- An exact signed value as a finite value; an exact zero takes the sign `z`. -/
def Fl.ofInt (z : Bool) (k : Int) (e : Int) : Fl :=
  if k = 0 then .fin z 0 0 else .fin (decide (k < 0)) k.natAbs e

/-- A signalling NaN. -/
def Fl.isSnan : Fl → Bool
  | .nan s => s
  | _ => false

/-- A NaN. -/
def Fl.isNan : Fl → Bool
  | .nan _ => true
  | _ => false

/-- A NaN or an infinity. -/
def Fl.isSpecial : Fl → Bool
  | .fin _ _ _ => false
  | _ => true

/-- The sign of a value; a NaN has none. -/
def Fl.isNeg : Fl → Bool
  | .nan _ => false
  | .inf s => s
  | .fin s _ _ => s

/-- A zero. -/
def Fl.isZero : Fl → Bool
  | .fin _ m _ => m = 0
  | _ => false

/-- The value with its sign inverted. -/
def Fl.neg : Fl → Fl
  | .nan s => .nan s
  | .inf s => .inf (!s)
  | .fin s m e => .fin (!s) m e

/-- The magnitude. -/
def Fl.abs : Fl → Fl
  | .nan s => .nan s
  | .inf _ => .inf false
  | .fin _ m e => .fin false m e

/-- The exact sum (R26): an exact zero of operands with opposite signs is −0 only in RD. -/
def flAdd (mode : BitVec 3) : Fl → Fl → Fl × Bool
  | .nan s, y => (.nan false, s || y.isSnan)
  | x, .nan s => (.nan false, s || x.isSnan)
  | .inf s, .inf t => if s = t then (.inf s, false) else (.nan false, true)
  | .inf s, .fin _ _ _ => (.inf s, false)
  | .fin _ _ _, .inf s => (.inf s, false)
  | .fin s m e, .fin t n g =>
    let h := min e g
    let k := signedAt s m e h + signedAt t n g h
    (Fl.ofInt (if s = t then s else mode = 3) k h, false)

/-- The exact product. -/
def flMul : Fl → Fl → Fl × Bool
  | .nan s, y => (.nan false, s || y.isSnan)
  | x, .nan s => (.nan false, s || x.isSnan)
  | .inf s, .inf t => (.inf (s ^^ t), false)
  | .inf s, .fin t n _ => if n = 0 then (.nan false, true) else (.inf (s ^^ t), false)
  | .fin s m _, .inf t => if m = 0 then (.nan false, true) else (.inf (s ^^ t), false)
  | .fin s m e, .fin t n g => (.fin (s ^^ t) (m * n) (e + g), false)

/-- The exact a × b + c, with NV for 0 × ∞ whatever c is (R26). -/
def flFma (mode : BitVec 3) (a b c : Fl) : Fl × Bool :=
  let (x, nv) := flMul a b
  let (y, nv') := flAdd mode x c
  (y, nv || nv')

/-- Less than, on values that are no NaN; −0 is less than +0 when `zeros`. -/
def flLt (zeros : Bool) : Fl → Fl → Bool
  | .inf s, .inf t => s && !t
  | .inf s, .fin _ _ _ => s
  | .fin _ _ _, .inf t => !t
  | .fin s m e, .fin t n g =>
    let h := min e g
    let x := signedAt s m e h
    let y := signedAt t n g h
    decide (x < y) || (zeros && decide (x = y) && decide (m = 0) && s && !t)
  | _, _ => false

/-- Equality of values; −0 equals +0. -/
def flEq (x y : Fl) : Bool := !x.isNan && !y.isNan && !flLt false x y && !flLt false y x

/-- minimumNumber: the value, and whether NV is raised (R26). -/
def flMin (x y : Fl) : Fl × Bool :=
  let nv := x.isSnan || y.isSnan
  if x.isNan then (if y.isNan then (.nan false, nv) else (y, nv))
  else if y.isNan then (x, nv)
  else if flLt true y x then (y, nv) else (x, nv)

/-- maximumNumber. -/
def flMax (x y : Fl) : Fl × Bool :=
  let nv := x.isSnan || y.isSnan
  if x.isNan then (if y.isNan then (.nan false, nv) else (y, nv))
  else if y.isNan then (x, nv)
  else if flLt true x y then (y, nv) else (x, nv)

/-- The relations of FCMP and SCMP: EQ, NE, LT, LE, UN; the outcome and whether NV is raised (R26, R105). -/
def flRel (r : Nat) (x y : Fl) : Bool × Bool :=
  let un := x.isNan || y.isNan
  let sn := x.isSnan || y.isSnan
  let res :=
    if un then r = 1 || r = 4
    else if r = 0 then flEq x y
    else if r = 1 then !flEq x y
    else if r = 2 then flLt false x y
    else if r = 3 then !flLt false y x
    else false
  (res, sn || (un && (r = 2 || r = 3)))

/-! ### Delivered results -/

/-- A delivered pattern with its flags, STEPOVF among them (04 R61). -/
structure FRes where
  bits : Nat
  flags : BitVec 8
  deriving DecidableEq, Repr

/-- Adds STEPOVF when the flags hold OF or NV or the result is infinite or a NaN (R61). -/
def FRes.of (f : Fmt) (x : Fl) (fl : BitVec 8) : FRes :=
  ⟨x.toBits f, fl ||| flagIf (fl &&& (fOF ||| fNV) ≠ 0 || x.isSpecial) fSTEPOVF⟩

/-- Rounds an exact result into a format and delivers it. -/
def deliver (f : Fmt) (c : RndCtl) (r : Fl × Bool) : FRes :=
  match r.1 with
  | .fin s m e => let (y, fl) := roundFl f c s m e; FRes.of f y (fl ||| flagIf r.2 fNV)
  | x => FRes.of f x (flagIf r.2 fNV)

/-- An operand's value under the flushing of the hint. -/
def operand (f : Fmt) (c : RndCtl) (x : Nat) : Fl := flushIn f c.flush (Fl.ofBits f x)

def fpAdd (f : Fmt) (c : RndCtl) (x y : Nat) : FRes := deliver f c (flAdd c.mode (operand f c x) (operand f c y))
def fpSub (f : Fmt) (c : RndCtl) (x y : Nat) : FRes := deliver f c (flAdd c.mode (operand f c x) (operand f c y).neg)
def fpMul (f : Fmt) (c : RndCtl) (x y : Nat) : FRes := deliver f c (flMul (operand f c x) (operand f c y))
def fpFma (f : Fmt) (c : RndCtl) (x y z : Nat) : FRes :=
  deliver f c (flFma c.mode (operand f c x) (operand f c y) (operand f c z))

/-- minimumNumber and maximumNumber on patterns: exact, no rounding (R112). -/
def fpMin (f : Fmt) (c : RndCtl) (x y : Nat) : FRes :=
  let (r, nv) := flMin (operand f c x) (operand f c y); FRes.of f r (flagIf nv fNV)
def fpMax (f : Fmt) (c : RndCtl) (x y : Nat) : FRes :=
  let (r, nv) := flMax (operand f c x) (operand f c y); FRes.of f r (flagIf nv fNV)

/-! ### Conversions (R32, 06 R118) -/

/-- The range of an integer type of `n` bits. -/
def intMin (signed : Bool) (n : Nat) : Int := if signed then -((2 ^ (n - 1) : Nat) : Int) else 0
def intMax (signed : Bool) (n : Nat) : Int := if signed then ((2 ^ (n - 1) : Nat) : Int) - 1 else ((2 ^ n : Nat) : Int) - 1

/-- Clamps into an integer type; whether it clamped. -/
def clampInt (signed : Bool) (n : Nat) (t : Int) : Int × Bool :=
  if t < intMin signed n then (intMin signed n, true)
  else if intMax signed n < t then (intMax signed n, true)
  else (t, false)

/-- Float to integer: out of range clamps with NV; a NaN gives 0 with NV; inexact in range raises NX. -/
def floatToInt (signed : Bool) (n : Nat) (c : RndCtl) : Fl → Int × BitVec 8
  | .nan _ => (0, fNV)
  | .inf s => (if s then intMin signed n else intMax signed n, fNV)
  | .fin s m e =>
    let (k, inexact) := roundAt c 0 s m e
    let (t, out) := clampInt signed n (if s then -(k : Int) else k)
    (t, if out then fNV else flagIf inexact fNX)

/-- Integer to float. -/
def intToFloat (f : Fmt) (c : RndCtl) (t : Int) : FRes := deliver f c (Fl.ofInt false t 0, false)

/-! ### Flicker (R33) -/

/-- One round of flicker. -/
def flickerRound (k : Word) (p q : Nat) (x : Word × Word × Word × Word) : Word × Word × Word × Word :=
  let (a, b, c, d) := x
  let a := a + b + k
  let d := rotl32 (d ^^^ a) p
  let c := c + d
  let b := rotl32 (b ^^^ c) q
  (a, b, c, d)

/-- flicker(seed, stream, index). -/
def flicker (seed : DWord) (stream : Word) (index : DWord) : Word :=
  let x := (lo32 seed, hi32 seed, lo32 index, hi32 index ^^^ stream)
  let x := flickerRound 0x4F1B2D69 13 7 x
  let x := flickerRound 0x93C5E187 17 9 x
  let x := flickerRound 0x2AD864F3 11 5 x
  let (a, b, c, d) := flickerRound 0xC76E0B5D 19 15 x
  (a ^^^ c) + (b ^^^ d)

end Sys2Proof.Machine
end

