-- ==== Sys2Proof/Machine/Blocks.lean ====
section
/-! DEFINITION. Block records: classes, tags and element formats (03 R36 to R41), records and lines (R37, R42), scale choice and quantisation (R47, R48), dequantisation (R49) and the decode for the matrix array (R50). -/

namespace Sys2Proof.Machine

/-! ### Classes and formats -/

/-- Element width of a class code (R36): 4, 6, 8. -/
def clsW (cls : Nat) : Nat := if cls = 0 then 4 else if cls = 1 then 6 else 8
/-- Record bytes: 1 + 4w. -/
def clsB (cls : Nat) : Nat := 1 + 4 * clsW cls
/-- Records per line. -/
def clsRpl (cls : Nat) : Nat := if cls = 0 then 8 else if cls = 1 then 5 else 4

/-- Element formats (R39 to R41). -/
inductive EFmt where
  | e2m1 | e2m3 | e3m2 | e4m3 | e5m2
  | int (k : Nat)
  | cb4
  deriving DecidableEq, Repr

/-- The element format of a class and a tag from 0 to 2 (R38). -/
def elemFmt (cls tag : Nat) : EFmt :=
  if cls = 0 then (if tag = 0 then .e2m1 else if tag = 1 then .int 4 else .cb4)
  else if cls = 1 then (if tag = 0 then .e2m3 else if tag = 1 then .e3m2 else .int 6)
  else (if tag = 0 then .e4m3 else if tag = 1 then .e5m2 else .int 8)

/-- Exponent and fraction widths of a floating-point element format. -/
def EFmt.ef : EFmt → Nat × Nat
  | .e2m1 => (2, 1)
  | .e2m3 => (2, 3)
  | .e3m2 => (3, 2)
  | .e4m3 => (4, 3)
  | .e5m2 => (5, 2)
  | .int _ => (0, 0)
  | .cb4 => (4, 3)

/-- Bias of a floating-point element format (R39). -/
def EFmt.bias (f : EFmt) : Int := ((2 ^ (f.ef.1 - 1) : Nat) : Int) - 1

/-- The largest finite magnitude, as m × 2^e. -/
def EFmt.maxMag : EFmt → Nat × Int
  | .e2m1 => (3, 1)
  | .e2m3 => (15, -1)
  | .e3m2 => (7, 2)
  | .e4m3 => (14, 5)
  | .e5m2 => (7, 13)
  | .int k => (2 ^ (k - 1) - 1, -((k : Int) - 2))
  | .cb4 => (14, 5)

/-- The value of a floating-point element code (R39). -/
def floatElem (f : EFmt) (code : Nat) : Fl :=
  let (eb, fb) := f.ef
  let s := bit code (eb + fb)
  let e := bits code fb eb
  let m := code % 2 ^ fb
  if f = .e5m2 ∧ e = 31 then (if m = 0 then .inf s else .nan false)
  else if (f = .e4m3 ∨ f = .cb4) ∧ e = 15 ∧ m = 7 then .nan false
  else if e = 0 then .fin s m (1 - f.bias - fb)
  else .fin s (2 ^ fb + m) ((e : Int) - f.bias - fb)

/-- The value of an element code; `cb` is the codebook of a CB4 block (R39 to R41). -/
def elemVal (f : EFmt) (cb : List Byte) (code : Nat) : Fl :=
  match f with
  | .int k => Fl.ofInt false (sext code k) (-((k : Int) - 2))
  | .cb4 => floatElem .e4m3 (byteAt cb (code % 16)).toNat
  | g => floatElem g code

/-! ### Records -/

/-- A block: scale, tag, 32 element codes. -/
structure Blk where
  scale : Byte
  tag : BitVec 2
  codes : List Nat
  deriving DecidableEq, Repr

/-- The canonical zero block (R38). -/
def Blk.zero : Blk := ⟨0, 3, List.replicate 32 0⟩

/-- Tag 11 (R38). -/
def Blk.isZero (b : Blk) : Bool := b.tag = 3

/-- A NaN block: scale 0xFF and a tag other than 11 (R35). -/
def Blk.isNaN (b : Blk) : Bool := b.scale = 0xFF && b.tag ≠ 3

/-- The element codes as one little-endian integer (R37). -/
def packCodes (w : Nat) : List Nat → Nat
  | [] => 0
  | c :: r => c % 2 ^ w + 2 ^ w * packCodes w r

/-- The record's bytes (R37). -/
def Blk.record (cls : Nat) (b : Blk) : List Byte :=
  b.scale :: natLe (packCodes (clsW cls) b.codes) (4 * clsW cls)

/-- The block of a record's bytes and a tag. -/
def Blk.ofRecord (cls : Nat) (bytes : List Byte) (tag : BitVec 2) : Blk :=
  let x := leNat (bytes.drop 1)
  ⟨byteAt bytes 0, tag, (List.range 32).map fun i => bits x (clsW cls * i) (clsW cls)⟩

/-- Slot j of a line of 138 bytes: payload bytes and tag bits (R42). -/
def lineBlk (cls : Nat) (line : List Byte) (j : Nat) : Blk :=
  Blk.ofRecord cls (slice line (j * clsB cls) (clsB cls)) (BitVec.ofNat 2 (leAt line 136 2 / 4 ^ j))

/-- Replaces tag j of the two tag bytes. -/
def setTag (tags j : Nat) (tag : BitVec 2) : Nat := tags - bits tags (2 * j) 2 * 4 ^ j + tag.toNat * 4 ^ j

/-- A line with slot j replaced; its other bytes and tags are kept. -/
def putBlk (cls : Nat) (line : List Byte) (j : Nat) (b : Blk) : List Byte :=
  let l := overlay line (j * clsB cls) (b.record cls)
  overlay l 136 (natLe (setTag (leAt line 136 2) j b.tag) 2)

/-- A whole block line of up to rpl blocks: canonical zero blocks after them, spare bytes and unused tags zero (R42, 12 R248). -/
def blockLine (cls : Nat) (bs : List Blk) : List Byte :=
  (List.range (clsRpl cls)).foldl (fun l j => putBlk cls l j (bs.getD j Blk.zero)) (List.replicate 138 0)

/-! ### Exact comparison of magnitudes -/

/-- m × 2^e ≤ n × 2^g. -/
def magLe (m : Nat) (e : Int) (n : Nat) (g : Int) : Bool :=
  let h := min e g
  decide (m * 2 ^ (e - h).toNat ≤ n * 2 ^ (g - h).toNat)

/-- The larger of two finite magnitudes. -/
def magMax (x y : Nat × Int) : Nat × Int := if magLe x.1 x.2 y.1 y.2 then y else x

/-- The largest magnitude of finite values; none when one of them is a NaN or infinite. -/
def amaxOf : List Fl → Option (Nat × Int)
  | [] => some (0, 0)
  | .fin _ m e :: r => (amaxOf r).map (magMax (m, e))
  | _ :: _ => none

/-- cmax of a codebook (R41); none when an entry is a NaN. -/
def cbMax (cb : List Byte) : Option (Nat × Int) :=
  amaxOf ((slice cb 0 16).map fun c => floatElem .e4m3 c.toNat)

/-- A codebook that holds a NaN entry, or only ±0 (R41). -/
def cbInvalid (cb : List Byte) : Bool :=
  match cbMax cb with
  | none => true
  | some (m, _) => m = 0

/-! ### Quantisation (R47, R48) -/

/-- What a quantisation needs besides the values. -/
structure QCtl where
  cls : Nat
  tag : Nat
  rule : Bool
  mode : BitVec 3
  zc : Bool
  seed : DWord
  stream : Word
  w : Nat
  cb : List Byte
  deriving DecidableEq, Repr

/-- The quantised block, its flags, and whether an element saturated (R52). -/
structure QRes where
  blk : Blk
  flags : BitVec 8
  saturated : Bool
  deriving DecidableEq, Repr

/-- The shift s of the scale rule, for a largest magnitude m × 2^e other than zero (R47). -/
def chooseShift (max : Nat × Int) (rule : Bool) (m : Nat) (e : Int) : Int :=
  let s := magExp m e - magExp max.1 max.2
  if rule && !magLe m e max.1 (max.2 + s) then s + 1 else s

/-- The scale byte: clamp(s + 127, 0, 254). -/
def scaleByte (s : Int) : Nat := if s + 127 < 0 then 0 else if 254 < s + 127 then 254 else (s + 127).toNat

/-- Rounds ±m × 2^e into a floating-point element format with saturation: the code and the flags. -/
def quantFloat (f : EFmt) (c : RndCtl) (neg : Bool) (m : Nat) (e : Int) : Nat × BitVec 8 :=
  let (eb, fb) := f.ef
  let sbit := b2n neg * 2 ^ (eb + fb)
  if m = 0 then (sbit, 0)
  else
    let emin := 1 - f.bias
    let qe := gridExp (fb + 1) emin m e
    let (k, inexact) := roundAt c qe neg m e
    let uf := flagIf (inexact && decide (magExp m e < emin)) fUF
    let code (k : Nat) (qe : Int) : Nat :=
      if k < 2 ^ fb then k else (qe + fb + f.bias).toNat * 2 ^ fb + k - 2 ^ fb
    if magLe k qe f.maxMag.1 f.maxMag.2 then (sbit + code k qe, uf ||| flagIf inexact fNX)
    else
      let (n, g) := f.maxMag
      -- the largest code: its mantissa as fb + 1 bits
      let sh := fb + 1 - (Nat.log2 n + 1)
      (sbit + code (n * 2 ^ sh) (g - sh), uf ||| fSAT ||| fNX)

/-- Rounds ±m × 2^e into INTk with the clamp of R40. -/
def quantInt (k : Nat) (c : RndCtl) (neg : Bool) (m : Nat) (e : Int) : Nat × BitVec 8 :=
  let (u, inexact) := roundAt c (-((k : Int) - 2)) neg m e
  let (t, out) := clampInt true k (if neg then -(u : Int) else u)
  (wrap k t, if out then fSAT ||| fNX else flagIf inexact fNX)

/-- The distance of ±m × 2^e from an entry, in units of 2^h. -/
def distAt (neg : Bool) (m : Nat) (e : Int) (h : Int) : Fl → Nat
  | .fin s n g => (signedAt neg m e h - signedAt s n g h).natAbs
  | _ => 0

/-- The least index of an entry nearest to ±m × 2^e: the list left, the next index, the best so far. -/
def nearestLoop (neg : Bool) (m : Nat) (e h : Int) : List Byte → Nat → Nat × Nat → Nat
  | [], _, best => best.1
  | c :: r, n, best =>
    let d := distAt neg m e h (floatElem .e4m3 c.toNat)
    nearestLoop neg m e h r (n + 1) (if d < best.2 then (n, d) else best)

/-- Quantises into a codebook: the index, SAT beyond cmax, NX when inexact (R48). -/
def quantCb (cb : List Byte) (neg : Bool) (m : Nat) (e : Int) : Nat × BitVec 8 :=
  let h := min e (-9)
  let d0 := distAt neg m e h (floatElem .e4m3 (byteAt cb 0).toNat)
  let i := nearestLoop neg m e h (slice cb 1 15) 1 (0, d0)
  let exact := distAt neg m e h (floatElem .e4m3 (byteAt cb i).toNat) = 0
  let beyond := match cbMax cb with
    | some (n, g) => !magLe m e n g
    | none => false
  (i, flagIf beyond fSAT ||| flagIf (!exact) fNX)

/-- The value of a code is ±0. -/
def codeIsZero (f : EFmt) (cb : List Byte) (code : Nat) : Bool := (elemVal f cb code).isZero

/-- zero_code(F): 0, or for CB4 the least index of an entry of least magnitude (R48). -/
def zeroCode (f : EFmt) (cb : List Byte) : Nat :=
  match f with
  | .cb4 => (quantCb cb false 0 0).1
  | _ => 0

/-- Quantises element i, whose exact value is `x`, at scale X. -/
def quantElem (f : EFmt) (q : QCtl) (scale : Nat) (x : Fl) (idx : DWord) : Nat × BitVec 8 :=
  match x with
  | .fin s m e =>
    let e' := e - ((scale : Int) - 127)
    let c : RndCtl := ⟨q.mode, if q.mode = 4 then flicker q.seed q.stream idx else 0, q.w, true, false⟩
    match f with
    | .int k => quantInt k c s m e'
    | .cb4 => quantCb q.cb s m e'
    | g => quantFloat g c s m e'
  | _ => (0, 0)

/-- `quantise_block` of R48. The traps it names are checked before it is called. -/
def quantiseBlock (q : QCtl) (xs : List Fl) (idx : Nat → DWord) : QRes :=
  let f := elemFmt q.cls q.tag
  let t := BitVec.ofNat 2 q.tag
  match amaxOf xs with
  | none => ⟨⟨0xFF, t, List.replicate 32 0⟩, 0, false⟩
  | some (m, e) =>
    if m = 0 then
      if q.zc then ⟨Blk.zero, 0, false⟩
      else
        let z := zeroCode f q.cb
        ⟨⟨0, t, List.replicate 32 z⟩, flagIf (!codeIsZero f q.cb z) fNX, false⟩
    else
      let max := if f = .cb4 then (cbMax q.cb).getD (1, 0) else f.maxMag
      let x := scaleByte (chooseShift max q.rule m e)
      let es := (List.range 32).map fun i => quantElem f q x (xs.getD i (.fin false 0 0)) (idx i)
      let codes := es.map (·.1)
      let flags := es.foldl (fun a r => a ||| r.2) 0
      let sat := decide (flags &&& fSAT ≠ 0)
      if q.zc && codes.all (codeIsZero f q.cb) then ⟨Blk.zero, flags, sat⟩
      else ⟨⟨BitVec.ofNat 8 x, t, codes⟩, flags, sat⟩

/-! ### Dequantisation (R49) -/

/-- The exact value of element i of a block: +0 in a zero block, a NaN in a NaN block. -/
def Blk.value (cls : Nat) (cb : List Byte) (b : Blk) (i : Nat) : Fl :=
  if b.isZero then .fin false 0 0
  else if b.isNaN then .nan false
  else
    match elemVal (elemFmt cls b.tag.toNat) cb (b.codes.getD i 0) with
    | .fin s m e => .fin s m (e + ((b.scale.toNat : Int) - 127))
    | x => x

/-- Element i rounded into an IEEE format (R49). -/
def dequant (f : Fmt) (c : RndCtl) (cls : Nat) (cb : List Byte) (b : Blk) (i : Nat) : FRes :=
  deliver f c (b.value cls cb i, false)

/-- A block with its scale changed by DELTA (08 R170): the block and whether the clamp applied. -/
def Blk.rescale (delta : Byte) (b : Blk) : Blk × Bool :=
  if b.scale = 0xFF then (b, false)
  else
    let x : Int := (b.scale.toNat : Int) + delta.toInt
    (⟨BitVec.ofNat 8 (if x < 0 then 0 else if 254 < x then 254 else x.toNat), b.tag, b.codes⟩,
      decide (x < 0 ∨ 254 < x))

/-! ### Decode for the matrix array (R50) -/

/-- An element as mantissa m and local exponent e; none for a special element. -/
def matElem (f : EFmt) (cb : List Byte) (code : Nat) : Option (Int × Nat) :=
  let float (f : EFmt) (code : Nat) : Option (Int × Nat) :=
    let (eb, fb) := f.ef
    match floatElem f code with
    | .fin s _ _ =>
      let e := bits code fb eb
      let m : Int := ((if e = 0 then code % 2 ^ fb else 2 ^ fb + code % 2 ^ fb : Nat) : Int)
      some (if s then -m else m, max e 1 - 1)
    | _ => none
  match f with
  | .int k => some (sext code k, 0)
  | .cb4 => float .e4m3 (byteAt cb (code % 16)).toNat
  | g => float g code

/-- The constant c of a format (R50). -/
def EFmt.c : EFmt → Int
  | .int k => -((k : Int) - 2)
  | f => 1 - f.bias - f.ef.2

/-- The largest |m| of a format, for the window of 13 R273. -/
def EFmt.maxM : EFmt → Nat
  | .e2m1 => 3
  | .int k => 2 ^ (k - 1)
  | .e3m2 => 7
  | .e5m2 => 7
  | _ => 15

end Sys2Proof.Machine
end

