-- ==== Sys2Proof/Machine/Special.lean ====
section
/-! DEFINITION. The special functions of 06 R113 to R115. FRCP, FSQRT and FRSQ are computed exactly up to a sticky bit. FEXP2, FLOG2, FSIN and FCOS of an operand whose exact value is irrational are computed in fixed point of 704 fractional bits, and a sticky bit stands for the rest (log entry 8). -/

namespace Sys2Proof.Machine

/-- Fractional bits of the fixed-point values below. -/
def fxBits : Nat := 704

/-- One. -/
def fxOne : Nat := 2 ^ fxBits

/-- floor(ln 2 × 2^704). -/
def fxLn2 : Nat := 0xB17217F7D1CF79ABC9E3B39803F2F6AF40F343267298B62D8A0D175B8BAAFA2BE7B876206DEBAC98559552FB4AFA1B10ED2EAE35C138214427573B291169B8253E96CA16224AE8C51ACBDA11317C387EB9EA9BC3B136603B

/-- floor(π/2 × 2^704). -/
def fxHalfPi : Nat := 0x1921FB54442D18469898CC51701B839A252049C1114CF98E804177D4C76273644A29410F31C6809BBDF2A33679A748636605614DBE4BE286E9FC26ADADAA3848BC90B6AECC4BCFD8DE89885D34C6FDAD617FEB96DE80D6FDB

/-- floor of the square root, by Newton's iteration from above. -/
def isqrtLoop (n : Nat) : Nat → Nat → Nat
  | 0, x => x
  | k + 1, x =>
    let y := (x + n / x) / 2
    if y < x then isqrtLoop n k y else x

/-- floor(√n). -/
def isqrt (n : Nat) : Nat := if n = 0 then 0 else isqrtLoop n 800 (2 ^ (Nat.log2 n / 2 + 1))

/-- A truncated magnitude q × 2^e with a sticky bit below it. -/
def sticky (neg : Bool) (q : Nat) (e : Int) (inexact : Bool) : Fl := .fin neg (2 * q + b2n inexact) (e - 1)

/-- 1/a for a finite a other than zero. -/
def recipFl (s : Bool) (m : Nat) (e : Int) : Fl :=
  let k := Nat.log2 m + 64
  sticky s (2 ^ k / m) (-(k : Int) - e) (2 ^ k % m ≠ 0)

/-- √a for a positive finite a: the mantissa is scaled to an even exponent with room below. -/
def sqrtFl (m : Nat) (e : Int) : Fl :=
  let m2 := if e % 2 = 0 then m * 2 ^ 128 else m * 2 ^ 129
  let e2 : Int := if e % 2 = 0 then e - 128 else e - 129
  let q := isqrt m2
  sticky false q (e2 / 2) (q * q ≠ m2)

/-- 1/√a for a positive finite a. -/
def rsqrtFl (m : Nat) (e : Int) : Fl :=
  let m1 := if e % 2 = 0 then m else 2 * m
  let e1 : Int := if e % 2 = 0 then e else e - 1
  -- 1/√(m1 × 2^e1) = √(2^(2k)/m1) × 2^(−k − e1/2)
  let k := Nat.log2 m1 + 96
  let n := 2 ^ (2 * k) / m1
  let q := isqrt n
  sticky false q (-(k : Int) - e1 / 2) (2 ^ (2 * k) % m1 ≠ 0 || q * q ≠ n)

/-- Σ t_n of the exponential series of y, fixed point: the term so far, its index, the sum. -/
def expLoop (y : Nat) : Nat → Nat → Nat → Nat → Nat
  | 0, _, _, acc => acc
  | k + 1, n, t, acc =>
    let t' := t * y / fxOne / n
    expLoop y k (n + 1) t' (acc + t')

/-- Squares a fixed-point value k times. -/
def squareLoop : Nat → Nat → Nat
  | 0, x => x
  | k + 1, x => squareLoop k (x * x / fxOne)

/-- 2^f for a fixed-point f from 0 to 1: the series of e^(f ln 2 / 2^16), squared sixteen times. -/
def exp2Fx (f : Nat) : Nat :=
  squareLoop 16 (expLoop (f * fxLn2 / fxOne / 2 ^ 16) 44 1 fxOne fxOne)

/-- A dyadic number as fixed point, truncated. -/
def toFx (m : Nat) (e : Int) : Nat :=
  let x := e + fxBits
  if 0 ≤ x then m * 2 ^ x.toNat else m / 2 ^ (-x).toNat

/-- 2^a for a finite a with |a| < 256. -/
def exp2Fl (s : Bool) (m : Nat) (e : Int) : Fl :=
  let x : Int := (toFx m e : Int)
  let x := if s then -x else x
  let one : Int := (fxOne : Int)
  let n := x / one
  let f := (x % one).toNat
  if f = 0 then .fin false 1 n
  else sticky false (exp2Fx f) (n - fxBits) true

/-- Σ z^(2n+1)/(2n+1), fixed point. -/
def atanhLoop (z2 : Nat) : Nat → Nat → Nat → Nat → Nat
  | 0, _, _, acc => acc
  | k + 1, n, t, acc =>
    let t' := t * z2 / fxOne
    atanhLoop z2 k (n + 2) t' (acc + t' / n)

/-- log2 of x/2^704 for x/2^704 from 1 to 2. -/
def log2Fx (x : Nat) : Nat :=
  let z := (x - fxOne) * fxOne / (x + fxOne)
  2 * atanhLoop (z * z / fxOne) 224 3 z z * fxOne / fxLn2

/-- log2 a for a positive finite a. Above √2 the fraction is taken from the next power of two, so that no digits cancel near 1. -/
def log2Fl (m : Nat) (e : Int) : Fl :=
  let l := Nat.log2 m
  let k : Int := (l : Int) + e
  if m = 2 ^ l then Fl.ofInt false k 0
  else
    let x := m * fxOne / 2 ^ l
    if 2 * fxOne * fxOne < x * x then
      -- a = 2^(k+1) × (x/2): log2 = k + 1 − log2(2/x)
      let y : Int := (k + 1) * (fxOne : Int) - (log2Fx (2 * fxOne * fxOne / x) : Int)
      sticky (decide (y < 0)) y.natAbs (-(fxBits : Int)) true
    else
      let y : Int := k * (fxOne : Int) + (log2Fx x : Int)
      sticky (decide (y < 0)) y.natAbs (-(fxBits : Int)) true

/-- The alternating series of sine and cosine: the term so far, the next index, the sum; y2 is y². -/
def trigLoop (y2 : Nat) : Nat → Nat → Nat → Int → Int
  | 0, _, _, acc => acc
  | k + 1, n, t, acc =>
    let t' := t * y2 / fxOne / (n * (n + 1))
    trigLoop y2 k (n + 2) t' (if k % 2 = 0 then acc + (t' : Int) else acc - (t' : Int))

/-- sin y for a fixed-point y from 0 to π/2. -/
def sinFx (y : Nat) : Nat := (trigLoop (y * y / fxOne) 80 2 y (y : Int)).toNat

/-- cos y for a fixed-point y from 0 to π/2. -/
def cosFx (y : Nat) : Nat := (trigLoop (y * y / fxOne) 80 1 fxOne (fxOne : Int)).toNat

/-- sin or cos of a finite a other than zero, with exact argument reduction. -/
def trigFl (cos : Bool) (s : Bool) (m : Nat) (e : Int) : Fl :=
  let x := toFx m e
  let q := x / fxHalfPi
  let r := x % fxHalfPi
  let k := (q + b2n cos) % 4
  let v := if k % 2 = 1 then cosFx r else sinFx r
  let neg := (decide (2 ≤ k)) ^^ (s && !cos)
  sticky neg v (-(fxBits : Int)) true

/-- The special functions, in the order of 05 R80. -/
inductive SpecialFn where
  | rcp | rsq | sqrt | exp2 | log2 | sin | cos
  deriving DecidableEq, Repr

/-- The rounding of a special function: RM acts on FRCP and FSQRT alone (R113). -/
def specialCtl (fn : SpecialFn) (c : RndCtl) : RndCtl :=
  match fn with
  | .rcp | .sqrt => c
  | _ => { c with mode := 0 }

/-- 2^a far outside the range of FP32, where the series is not needed: a finite value that rounds as 2^a does (R115). -/
def exp2Out (s : Bool) : Fl := if s then sticky false 1 (-400) true else sticky false 1 400 true

/-- The exact result of a special function, and the flags of its special operands (R113, R115). -/
def specialExact (fn : SpecialFn) : Fl → Fl × BitVec 8
  | .nan s => (.nan false, flagIf s fNV)
  | .inf s =>
    match fn with
    | .rcp => (.fin s 0 0, 0)
    | .rsq => if s then (.nan false, fNV) else (.fin false 0 0, 0)
    | .sqrt => if s then (.nan false, fNV) else (.inf false, 0)
    | .exp2 => if s then (.fin false 0 0, 0) else (.inf false, 0)
    | .log2 => if s then (.nan false, fNV) else (.inf false, 0)
    | .sin => (.nan false, fNV)
    | .cos => (.nan false, fNV)
  | .fin s m e =>
    if m = 0 then
      match fn with
      | .rcp => (.inf s, fDZ)
      | .rsq => (.inf s, fDZ)
      | .sqrt => (.fin s 0 0, 0)
      | .exp2 => (.fin false 1 0, 0)
      | .log2 => (.inf true, fDZ)
      | .sin => (.fin s 0 0, 0)
      | .cos => (.fin false 1 0, 0)
    else
      match fn with
      | .rcp => (recipFl s m e, 0)
      | .rsq => if s then (.nan false, fNV) else (rsqrtFl m e, 0)
      | .sqrt => if s then (.nan false, fNV) else (sqrtFl m e, 0)
      | .exp2 => if 8 ≤ magExp m e then (exp2Out s, 0) else (exp2Fl s m e, 0)
      | .log2 => if s then (.nan false, fNV) else (log2Fl m e, 0)
      | .sin => (trigFl false s m e, 0)
      | .cos => (trigFl true s m e, 0)

/-- A special function on an FP32 pattern. -/
def fpSpecial (fn : SpecialFn) (c0 : RndCtl) (x : Nat) : FRes :=
  let c := specialCtl fn c0
  let (r, fl) := specialExact fn (operand .f32 c x)
  let d := deliver .f32 c (r, false)
  FRes.of .f32 (Fl.ofBits .f32 d.bits) (d.flags ||| fl)

end Sys2Proof.Machine
end

