-- ==== Sys2Proof/Machine/Regs.lean ====
section
/-! DEFINITION. Reading and writing the state by name: agents, groups, splits, registers, teams, grids, contexts. -/

namespace Sys2Proof.Machine

/-! ### Places of agents -/

/-- The key of an agent: core × 64 + slot, glint slots after the 32 group slots (07 R131, 12 R261). -/
def agentKey : AgentRef → Nat
  | .group core slot => core * 64 + slot % 32
  | .glint core slot => core * 64 + 32 + slot % 8

/-- The core of a key. -/
def keyCore (k : Nat) : Nat := k / 64
/-- A glint's key. -/
def keyIsGlint (k : Nat) : Bool := 32 ≤ k % 64
/-- The quadrant of a key: group slots 8q to 8q + 7, glint slots 2q and 2q + 1. -/
def keyQuad (k : Nat) : Nat := if keyIsGlint k then (k % 64 - 32) / 2 else k % 64 / 8

/-- Die of a core: 144 cores a die (01 R13). -/
def coreDie (c : Nat) : Nat := c / 144
/-- Cluster by device index 6d + c of a core. -/
def coreCluster (c : Nat) : Nat := c / 24
/-- Number j of a core in its cluster. -/
def coreJ (c : Nat) : Nat := c % 24
/-- Core j of the cluster of core c. -/
def clusterCore (c j : Nat) : Nat := coreCluster c * 24 + j
/-- The even core of the pair of a core. -/
def evenCore (c : Nat) : Nat := c - c % 2

/-! ### Groups -/

/-- The agent of a key. -/
def State.group? (s : State) (k : Nat) : Option Group := alGet s.groups k

/-- Replaces the agent of a key by `f` of it. -/
def State.mapGroup (s : State) (k : Nat) (f : Group → Group) : State :=
  { s with groups := alMap s.groups k f }

/-- Puts an agent in a free place, or replaces the one there. -/
def State.putGroup (s : State) (k : Nat) (g : Group) : State := { s with groups := smIns s.groups k g }

/-- Frees a place. -/
def State.delGroup (s : State) (k : Nat) : State := { s with groups := smDel s.groups k }

/-- Vector element: register r, lane l (04 R54). -/
def Group.vreg (g : Group) (r l : Nat) : Word := smGet 0 g.v (r * 64 + l)
/-- Writes a vector element. -/
def Group.setV (g : Group) (r l : Nat) (x : Word) : Group := { g with v := smPut 0 g.v (r * 64 + l) x }
/-- A 64-bit lane value from a pair (02 R22). -/
def Group.vpair (g : Group) (r l : Nat) : DWord := pairOf (g.vreg r l) (g.vreg (r + 1) l)
/-- Writes a pair in a lane. -/
def Group.setVPair (g : Group) (r l : Nat) (x : DWord) : Group := (g.setV r l (lo32 x)).setV (r + 1) l (hi32 x)
/-- Scalar register. -/
def Group.sreg (g : Group) (r : Nat) : Word := smGet 0 g.s r
/-- Writes a scalar register. -/
def Group.setS (g : Group) (r : Nat) (x : Word) : Group := { g with s := smPut 0 g.s r x }
/-- A scalar pair. -/
def Group.spair (g : Group) (r : Nat) : DWord := pairOf (g.sreg r) (g.sreg (r + 1))
/-- Writes a scalar pair. -/
def Group.setSPair (g : Group) (r : Nat) (x : DWord) : Group := (g.setS r (lo32 x)).setS (r + 1) (hi32 x)
/-- A predicate, one bit for each lane. -/
def Group.preg (g : Group) (k : Nat) : Mask := smGet 0 g.p k
/-- Writes a predicate. -/
def Group.setP (g : Group) (k : Nat) (x : Mask) : Group := { g with p := smPut 0 g.p k x }
/-- The sidecar of a register's slice: TAG [9:8], SCALE [7:0] (03 R45). -/
def Group.sidecar (g : Group) (r sl : Nat) : BitVec 10 := smGet 0 g.side (r * 2 + sl)
/-- Writes a sidecar. -/
def Group.setSide (g : Group) (r sl : Nat) (x : BitVec 10) : Group := { g with side := smPut 0 g.side (r * 2 + sl) x }
/-- Sets flags in %flags (02 R27). -/
def Group.raise (g : Group) (f : BitVec 8) : Group := { g with xflags := g.xflags ||| f }
/-- All lanes of the group. -/
def Group.allLanes (g : Group) : Mask := laneMask g.width

/-- The outstanding count of completion flag k (04 R54, R64): the operations that count on it. -/
def Group.flagCount (g : Group) (k : Nat) : Nat := (g.pend.filter fun o => o.flag = some k).length
/-- Flag k is clear when its count is 0. -/
def Group.flagClear (g : Group) (k : Nat) : Bool := g.flagCount k = 0
/-- All twelve flags are clear. -/
def Group.flagsClear (g : Group) : Bool := g.pend.all fun o => o.flag.isNone

/-! ### Splits -/

/-- No pending hint. -/
def Hints.none : Hints := ⟨.none, .none, .none, .none⟩

/-- The split in a slot. -/
def Group.split? (g : Group) (slot : Nat) : Option Split := g.splits.find? fun p => p.slot = slot

/-- Replaces the split in a slot by `f` of it. -/
def Group.mapSplit (g : Group) (slot : Nat) (f : Split → Split) : Group :=
  { g with splits := g.splits.map fun p => if p.slot = slot then f p else p }

/-- Releases the split in a slot. -/
def Group.dropSplit (g : Group) (slot : Nat) : Group :=
  { g with splits := g.splits.filter fun p => p.slot ≠ slot }

/-- Inserts a split, slots rising. -/
def insSplit (p : Split) : List Split → List Split
  | [] => [p]
  | q :: r => if p.slot < q.slot then p :: q :: r else q :: insSplit p r

/-- The lowest free split slot. -/
def Group.freeSlot (g : Group) : Option Nat := [0, 1, 2, 3].find? fun k => (g.split? k).isNone

/-- A new split with no pending hint and no clause wait. -/
def newSplit (slot : Nat) (pc : Pc) (live : Mask) (entry : Option Nat) : Split :=
  { slot, pc, live, exec := live, entry, hints := Hints.none, wait := 0, fa := 15, fb := 15,
    noYield := false, cold := false, starts := false, stallUntil := 0, park := .running }

/-- Starts a split in the lowest free slot (07 R136, R137); its clause attributes are those of the header it starts at. -/
def Group.startSplit (g : Group) (pc : Pc) (live : Mask) (entry : Option Nat) : Group :=
  match g.freeSlot with
  | some k => { g with splits := insSplit (newSplit k pc live entry) g.splits }
  | none => g

/-! ### Teams, grids, contexts -/

/-- The team of the model's number. -/
def State.team? (s : State) (id : Nat) : Option Team := s.teams.find? fun t => t.id = id

/-- Replaces a team by `f` of it. -/
def State.mapTeam (s : State) (id : Nat) (f : Team → Team) : State :=
  { s with teams := s.teams.map fun t => if t.id = id then f t else t }

/-- The grid of a context and a grid identifier. -/
def State.grid? (s : State) (ctx id : Nat) : Option Grid := s.grids.find? fun g => g.ctx = ctx && g.id = id

/-- Replaces a grid by `f` of it. -/
def State.mapGrid (s : State) (ctx id : Nat) (f : Grid → Grid) : State :=
  { s with grids := s.grids.map fun g => if g.ctx = ctx && g.id = id then f g else g }

/-- The context of a number. -/
def State.ctx? (s : State) (n : Nat) : Option Context := alGet s.ctxs n

/-- A context whose record is zero. -/
def Context.blank : Context :=
  { record := [], reported := none, preempting := none, preempted := false, saved := none, resuming := none,
    stepping := false, nextGrid := 1, detUnits := [], freeing := false }

/-- The context of a group. -/
def State.ctxOf (s : State) (g : Group) : Context := (s.ctx? g.ctx).getD Context.blank

/-- Replaces a context by `f` of it. -/
def State.mapCtx (s : State) (n : Nat) (f : Context → Context) : State := { s with ctxs := alMap s.ctxs n f }

/-- A field of a context record: `n` bytes from byte `off` (22 R388). -/
def Context.field (c : Context) (off n : Nat) : Nat := leNat (memGets c.record off n)

/-- SEEDW. -/
def Context.seedw (c : Context) : Bool := bit (c.field 4 1) 0
/-- RRETRY. -/
def Context.rretry (c : Context) : Nat := c.field 5 1 % 16
/-- ENGWAIT in nanoseconds, 0 selecting 1,000 ms (16 R319). -/
def Context.engwait (c : Context) : Nat := (if c.field 6 2 = 0 then 1000 else c.field 6 2) * 1000000
/-- SEED. -/
def Context.seed (c : Context) : DWord := BitVec.ofNat 64 (c.field 8 8)
/-- HANDLER. -/
def Context.handler (c : Context) : Nat := c.field 16 8
/-- TFBASE. -/
def Context.tfbase (c : Context) : Nat := c.field 24 8
/-- PRIVBASE. -/
def Context.privbase (c : Context) : Nat := c.field 32 8
/-- PRIVSZ. -/
def Context.privsz (c : Context) : Nat := c.field 40 4
/-- NPS, 0 standing for 18,432 (09 R182). -/
def Context.nps (c : Context) : Nat := if c.field 44 4 = 0 then 18432 else c.field 44 4
/-- DETBASE. -/
def Context.detbase (c : Context) : Nat := c.field 48 8
/-- DETSIZE. -/
def Context.detsize (c : Context) : Nat := c.field 56 4
/-- Word w of WINn (09 R179). -/
def Context.win (c : Context) (n w : Nat) : Nat := c.field (64 + 16 * n + 8 * w) 8
/-- Doubleword w of PSHAREn (19 R350). -/
def Context.pshare (c : Context) (n w : Nat) : Nat := c.field (192 + 16 * n + 8 * w) 8
/-- The routing entry of a class from 3 to 63 (19 R349). -/
def Context.route (c : Context) (cls : Nat) : Nat := c.field (320 + 8 * (cls - 3)) 8
/-- SAVEBASE and SAVESIZE. -/
def Context.savebase (c : Context) : Nat := c.field 808 8
def Context.savesize (c : Context) : Nat := c.field 816 8

/-! ### Fields of a launch record, as its sixteen doublewords (07 R151) -/

/-- `n` bytes from byte `off` of a record of doublewords. -/
def dwField (r : List DWord) (off n : Nat) : Nat :=
  bits ((r.getD (off / 8) 0).toNat) (8 * (off % 8)) (8 * n)

/-- The doublewords of a list of bytes. -/
def dwords (l : List Byte) (n : Nat) : List DWord := (List.range n).map fun i => BitVec.ofNat 64 (leAt l (8 * i) 8)

/-! ### Numbers the model gives out -/

/-- The next number, and the state after giving it. -/
def State.takeId (s : State) : Nat × State := (s.fresh, { s with fresh := s.fresh + 1 })

/-- The next free value's index, and the state after using it. -/
def State.takeTick (s : State) : Nat × State := (s.tick, { s with tick := s.tick + 1 })

/-! ### Wait orders (19 R361) -/

/-- The waiter is a step of an engine operation. -/
def Waiter.ofOp (op : Nat) : Waiter → Bool
  | .group _ => false
  | .push o _ => o = op
  | .coll o _ => o = op

/-- Agents that meet a condition leave every wait order. -/
def State.leaveAll (s : State) (p : Waiter → Bool) : State :=
  { s with waiters := s.waiters.filterMap fun e =>
      let l := e.2.filter fun x => !p x
      if l.isEmpty then none else some (e.1, l) }

/-- An agent leaves every wait order. -/
def State.leaveWaits (s : State) (w : Waiter) : State := s.leaveAll fun x => x = w

/-- The steps of an engine operation leave every wait order. -/
def State.leaveOp (s : State) (op : Nat) : State := s.leaveAll (Waiter.ofOp op)

/-! ### Barriers -/

/-- A barrier when its team is bound (12 R257): n arrivals and no bytes. -/
def newBarrier (n : Nat) : Barrier :=
  { init := false, lax := false, flt := false, ovr := false, phase := 0,
    expect := BitVec.ofNat 7 n, remain := BitVec.ofNat 7 n, lstat := 0, pend := 0 }

/-- Barrier k of a team. -/
def Team.barrier (t : Team) (k : Nat) : Barrier := t.barriers.getD k (newBarrier t.groups)

/-- Replaces barrier k. -/
def Team.setBarrier (t : Team) (k : Nat) (b : Barrier) : Team := { t with barriers := t.barriers.set k b }

/-! ### Counters (22 R393) -/

/-- Counters of a die: HBMCE 0, HBMUE 1, SRAMCE 2, SRAMUE 3, REGERR 4, RETRAIN0 to 3 5 to 8, RREPLAY 9, SIGFAIL 10, THERMTRIP 11, PWRTRIP 12. A counter saturates. -/
def State.countUp (s : State) (die c : Nat) : State :=
  let x := smGet 0 s.counters (die * 16 + c)
  { s with counters := smPut 0 s.counters (die * 16 + c) (if x = 0xFFFFFFFF then x else x + 1) }

end Sys2Proof.Machine
end

