-- ==== Sys2Proof/Machine/Flags.lean ====
section
/-! DEFINITION. %flags and the loss scale (02 R27, 04 R59 to R62, 17 R338, R342). -/

namespace Sys2Proof.Machine

/-- An exponent byte as a loss-scale register stores it: 0x00 as 0x01, 0xFF as 0xFE (R60). -/
def lsClean (e : BitVec 8) : BitVec 8 := if e = 0 then 1 else if e = 0xFF then 0xFE else e

/-- The exponent byte of a written value (R60). -/
def lsByte (x : Word) : BitVec 8 := lsClean (BitVec.ofNat 8 (x.toNat / 2 ^ 23))

/-- The value that a loss-scale register reads (R60). -/
def lsWord (e : BitVec 8) : Word := BitVec.ofNat 32 (e.toNat * 2 ^ 23)

/-- The smaller and the larger of two exponent bytes. -/
def lsMin2 (a b : BitVec 8) : BitVec 8 := if a.toNat ≤ b.toNat then a else b
def lsMax2 (a b : BitVec 8) : BitVec 8 := if a.toNat ≤ b.toNat then b else a

/-- %lscale is clamped into the range from %lsmin to %lsmax (R60). -/
def Group.clampScale (g : Group) : Group := { g with lscale := lsMin2 (lsMax2 g.lscale g.lsmin) g.lsmax }

/-- A write of %lscale. -/
def Group.setLscale (g : Group) (x : Word) : Group := { g with lscale := lsByte x }.clampScale
/-- A write of %lsmin: %lsmax follows it upward. -/
def Group.setLsmin (g : Group) (x : Word) : Group :=
  { g with lsmin := lsByte x, lsmax := lsMax2 g.lsmax (lsByte x) }.clampScale
/-- A write of %lsmax: %lsmin follows it downward. -/
def Group.setLsmax (g : Group) (x : Word) : Group :=
  { g with lsmax := lsByte x, lsmin := lsMin2 g.lsmin (lsByte x) }.clampScale
/-- A write of %lsclean: RUN alone. -/
def Group.setLsclean (g : Group) (x : Word) : Group := { g with run := BitVec.ofNat 16 x.toNat }
/-- What %lsclean reads. -/
def Group.lscleanWord (g : Group) : Word := BitVec.ofNat 32 (g.count.toNat * 2 ^ 16 + g.run.toNat)
/-- A write of %flags: each 1 bit clears (R59). -/
def Group.clearFlags (g : Group) (x : Word) : Group := { g with xflags := g.xflags &&& ~~~(BitVec.ofNat 8 x.toNat) }

/-- LSUPD (R62): the group after it and the step word. -/
def Group.lossStep (g : Group) : Group × Word :=
  let ovf := g.xflags &&& fSTEPOVF ≠ 0
  let clear (g : Group) : Group := { g with xflags := g.xflags &&& ~~~fSTEPOVF }
  if ovf then
    if g.lsmin.toNat < g.lscale.toNat then (clear { g with lscale := g.lscale - 1, count := 0 }, 0x9)
    else (clear { g with count := 0, xflags := g.xflags ||| fFLOOR }, 0x3)
  else if g.run = 0 then (clear { g with count := if g.count = 0xFFFF then g.count else g.count + 1 }, 0)
  else if g.count.toNat + 1 < g.run.toNat then (clear { g with count := g.count + 1 }, 0)
  else if g.lscale.toNat < g.lsmax.toNat then (clear { g with lscale := g.lscale + 1, count := 0 }, 0x4)
  else (clear { g with count := g.run }, 0)

end Sys2Proof.Machine
end

