-- ==== Sys2Proof/Machine/Atomic.lean ====
section
/-! DEFINITION. The operations of atomics and reductions on one lane (11 R233, R234). -/

namespace Sys2Proof.Machine

/-- Size in bytes of an atomic op (R233). -/
def atomSize (op : BitVec 4) : Nat := if op = 1 || op = 15 then 8 else 4

/-- Operand words of an atomic op: one, a pair for add.n64 and cas.b32, a quad for cas.b64. -/
def atomWords (op : BitVec 4) : Nat := if op = 15 then 4 else if op = 1 || op = 10 then 2 else 1

/-- A natural operand of one word, or of a pair. -/
def word1 (x : List Word) (i : Nat) : Nat := (x.getD i 0).toNat
def word2 (x : List Word) (i : Nat) : Nat := word1 x i + 2 ^ 32 * word1 x (i + 1)

/-- The smaller and the larger of two 32-bit patterns by an order. -/
def pickBy (lt : Bool) (x y : Nat) : Nat := if lt then x else y

/-- The new value of R233 for an old value and the lane's operand words, and the flags it raises. -/
def atomicNew (op : BitVec 4) (c : RndCtl) (old : Nat) (x : List Word) : Nat × BitVec 8 :=
  let a := word1 x 0
  if op = 0 then ((old + a) % 2 ^ 32, 0)
  else if op = 1 then ((old + word2 x 0) % 2 ^ 64, 0)
  else if op = 2 then (pickBy (decide (sext a 32 < sext old 32)) a old, 0)
  else if op = 3 then (pickBy (decide (a < old)) a old, 0)
  else if op = 4 then (pickBy (decide (sext old 32 < sext a 32)) a old, 0)
  else if op = 5 then (pickBy (decide (old < a)) a old, 0)
  else if op = 6 then (old &&& a, 0)
  else if op = 7 then (old ||| a, 0)
  else if op = 8 then (old ^^^ a, 0)
  else if op = 9 then (a, 0)
  else if op = 10 then (if old = a then word1 x 1 else old, 0)
  else if op = 11 then let r := fpAdd .f32 c old a; (r.bits, r.flags)
  else if op = 12 then let r := fpMin .f32 { c with flush := false } old a; (r.bits, r.flags)
  else if op = 13 then let r := fpMax .f32 { c with flush := false } old a; (r.bits, r.flags)
  else if op = 14 then
    let r := fpAdd .bf16 c (old % 2 ^ 16) (a % 2 ^ 16)
    let q := fpAdd .bf16 c (old / 2 ^ 16) (a / 2 ^ 16)
    (r.bits + 2 ^ 16 * q.bits, r.flags ||| q.flags)
  else (if old = word2 x 0 then word2 x 2 else old, 0)

/-- The value is infinite or a NaN in the floating-point type of the op. -/
def atomSpecial (op : BitVec 4) (v : Nat) : Bool :=
  if op = 11 || op = 12 || op = 13 then (Fl.ofBits .f32 v).isSpecial
  else if op = 14 then (Fl.ofBits .bf16 (v % 2 ^ 16)).isSpecial || (Fl.ofBits .bf16 (v / 2 ^ 16)).isSpecial
  else false

/-- The flags of one lane of an atomic or a reduction: STEPOVF when its operation raises OF or NV, or when it delivers an infinite or NaN value to the lane, which only an atomic does (04 R61, 11 R234; log entry 107). -/
def atomFlags (op : BitVec 4) (delivered : Option Nat) (fl : BitVec 8) : BitVec 8 :=
  (fl &&& ~~~fSTEPOVF) ||| flagIf (fl &&& (fOF ||| fNV) ≠ 0 || (delivered.map (atomSpecial op)).getD false) fSTEPOVF

/-- The words of a value of an atomic's size. -/
def valueWords (op : BitVec 4) (x : Nat) : List Word :=
  if atomSize op = 8 then [BitVec.ofNat 32 x, BitVec.ofNat 32 (x / 2 ^ 32)] else [BitVec.ofNat 32 x]

end Sys2Proof.Machine
end

