-- ==== Sys2Proof/Machine/Mem.lean ====
section
/-! DEFINITION. Memory: lines, windows, translation, the L1, scratchpad lines, and what an access meets (09 R177 to R201, 10 R213 to R216, 11 R225, R226, 19 R350, R351). -/

namespace Sys2Proof.Machine

/-! ### Places of lines -/

/-- Line of a die's HBM4E by physical byte address. -/
def hbmKey (die pa : Nat) : Nat := die * 2 ^ 30 + pa / 128
/-- Scratchpad line n of a core. -/
def sramKey (core n : Nat) : Nat := 2 ^ 33 + core * 4096 + n
/-- Line of the Prism slices by system address. -/
def prismKey (sys : Nat) : Nat := 2 ^ 34 + sys / 128

def keyIsSram (k : Nat) : Bool := 2 ^ 33 ≤ k && k < 2 ^ 34
def keyIsPrism (k : Nat) : Bool := 2 ^ 34 ≤ k

/-- The name under which an engine owns a line (10 R216): its intermediate line number, or its place in the Prism. -/
def LineRef.own (l : LineRef) : Nat := if keyIsPrism l.key then 2 ^ 60 + l.key else l.ia

/-- The 138 bytes of a line: payload, penumbra, tags. -/
def State.line (s : State) (key : Nat) : List Byte := memLine s.mem (key * 256) 138

/-- `n` bytes of a line from byte `off`. -/
def State.bytes (s : State) (key off n : Nat) : List Byte := memGets s.mem (key * 256 + off) n

/-- Writes bytes of a line from byte `off`. -/
def State.putBytes (s : State) (key off : Nat) (bs : List Byte) : State :=
  { s with mem := memPuts s.mem (key * 256 + off) bs }

/-- Writes a whole line, 138 bytes, with a fresh check code: it is no longer poisoned (12 R255). -/
def State.putLine (s : State) (key : Nat) (bs : List Byte) : State :=
  { s with mem := memPuts (memClear s.mem (key * 256) (key * 256 + 138)) (key * 256) (slice bs 0 138),
           poison := s.poison.filter fun k => k ≠ key }

/-- The line's check code cannot correct it (03 R44). -/
def State.isPoisoned (s : State) (key : Nat) : Bool := s.poison.contains key

/-! ### Scratchpad lines (09 R190 to R196) -/

/-- Scratchpad lines S of a CARVE code. -/
def carveLines (c : BitVec 3) : Nat :=
  if c = 0 then 4096 else if c = 1 then 3584 else if c = 2 then 3072 else if c = 3 then 2048 else 1024

/-- CARVE of a core. -/
def State.carveOf (s : State) (core : Nat) : BitVec 3 := smGet 3 s.carve core

/-- A line that is present and no engine has written. -/
def LineState.fresh : LineState := ⟨true, false, 0⟩

/-- The state of scratchpad line n of a core. -/
def State.lineSt (s : State) (core n : Nat) : LineState := smGet LineState.fresh s.lineState (core * 4096 + n)

/-- Writes the state of a scratchpad line. -/
def State.setLineSt (s : State) (core n : Nat) (x : LineState) : State :=
  { s with lineState := smPut LineState.fresh s.lineState (core * 4096 + n) x }

/-- An engine write is issued on a line: P and X are cleared and it is the latest writer (R196). -/
def State.issueLine (s : State) (core n op : Nat) : State := s.setLineSt core n ⟨false, false, op⟩

/-- An engine write lands or fails on a line; only the latest writer changes the line's state (R196). -/
def State.finishLine (s : State) (core n op : Nat) (ok : Bool) : State :=
  if (s.lineSt core n).writer = op then s.setLineSt core n ⟨ok, !ok, if ok then 0 else op⟩ else s

/-- Lines that the allocation of a team takes on a core: SCR rounded up to 16 (R192). -/
def scrLines (scr : Nat) : Nat := (scr + 15) / 16 * 16

/-- The core and physical line of team-relative line n; none outside the allocation (R192). -/
def Team.line (t : Team) (n : Nat) : Option (Nat × Nat) :=
  if t.pair then
    if n < t.scr then some (evenCore t.core, t.base0 + n)
    else if n < 2 * t.scr then some (evenCore t.core + 1, t.base1 + (n - t.scr)) else none
  else if n < t.scr then some (t.core, t.base0 + n) else none

/-- The team whose allocation holds a physical line of a core (09 R198, 12 R256). -/
def State.lineTeam (s : State) (core n : Nat) : Option Team :=
  s.teams.find? fun t =>
    decide (t.scr ≠ 0) &&
    (if t.pair then
      (decide (evenCore t.core = core) && decide (t.base0 ≤ n) && decide (n < t.base0 + scrLines t.scr)) ||
      (decide (evenCore t.core + 1 = core) && decide (t.base1 ≤ n) && decide (n < t.base1 + scrLines t.scr))
     else decide (t.core = core) && decide (t.base0 ≤ n) && decide (n < t.base0 + scrLines t.scr))

/-! ### Faults of an access -/

/-- A fault of an access: its place in the order of 11 R226 (1 alignment, 2 range, 3 mapping, 4 rights, 5 poison), its cause, and what clears it when the region replays. -/
structure AccFault where
  rank : Nat
  cause : Byte
  replay : Option ReplayCause
  deriving DecidableEq, Repr

/-- The number of a kind of access (16 R331). -/
def Kind.num : Kind → Nat
  | .load => 0
  | .store => 1
  | .engineRead => 2
  | .engineWrite => 3

/-- The access writes. -/
def Kind.writes : Kind → Bool
  | .load | .engineRead => false
  | .store | .engineWrite => true

/-- An engine's access. -/
def Kind.engine : Kind → Bool
  | .load | .store => false
  | .engineRead | .engineWrite => true

/-- A cause code with its kind qualifier. -/
def kindCause (base : Nat) (k : Kind) : Byte := BitVec.ofNat 8 (base + k.num)

/-- A fault of a rank with a kind qualifier and no replay. -/
def kindFault (rank base : Nat) (k : Kind) : AccFault := ⟨rank, kindCause base k, none⟩

/-! ### Windows (09 R179, R180) -/

/-- A window's match: the intermediate address and its permissions. -/
structure WinHit where
  ia : Nat
  r : Bool
  w : Bool
  x : Bool
  deriving DecidableEq, Repr

/-- WINn of a context on a virtual address below 2^56. -/
def Context.winHit (c : Context) (va n : Nat) : Option WinHit :=
  let w0 := c.win n 0
  let w1 := c.win n 1
  let sz := bits w1 58 6
  if bit w0 63 && decide (16 ≤ sz) && decide (sz ≤ 52) && decide (va / 2 ^ 48 ≠ 0xFF) &&
      decide (va / 2 ^ sz = bits w0 16 40 * 2 ^ 16 / 2 ^ sz) then
    some ⟨bits w1 16 36 * 2 ^ 16 / 2 ^ sz * 2 ^ sz + va % 2 ^ sz, bit w0 62, bit w0 61, bit w0 60⟩
  else none

/-- The lowest-numbered window that matches. -/
def Context.window (c : Context) (va : Nat) : Option WinHit :=
  [0, 1, 2, 3, 4, 5, 6, 7].findSome? fun n => c.winHit va n

/-- The system address of a pod-shared intermediate address (19 R350). -/
def Context.podShared (c : Context) (ia : Nat) : Option Nat :=
  [0, 1, 2, 3, 4, 5, 6, 7].findSome? fun n =>
    let d0 := c.pshare n 0
    let d1 := c.pshare n 1
    let sz := bits d0 52 6
    if bit d0 63 && decide (16 ≤ sz) && decide (sz ≤ 48) && decide (ia / 2 ^ sz = bits d0 16 36 * 2 ^ 16 / 2 ^ sz) then
      some (bits d1 16 44 * 2 ^ 16 / 2 ^ sz * 2 ^ sz + ia % 2 ^ sz)
    else none

/-- The address lies in a fixed window, or could (09 R180). -/
def inFixed (va : Nat) : Bool :=
  (decide (0xFF000000000000 ≤ va) && decide (va < 0xFF000100000000)) ||
  (decide (0xFFFFFFFFFFE000 ≤ va) && decide (va < 0x100000000000000))

/-! ### Home slices and translation (09 R183 to R188) -/

/-- The home slice of an intermediate address (R183). -/
def homeSlice (ia : Nat) : Nat :=
  let d := bits ia 50 2
  let l := bits ia 7 43
  32 * d + (List.range 9).foldl (fun a i => a ^^^ bits l (5 * i) 5) 0

/-- How a walk fails. -/
inductive WalkFault where
  | page | format | readError | offline
  deriving DecidableEq, Repr

/-- Lowest index bit and index width of a level. -/
def levelBits (lev : Nat) : Nat × Nat :=
  if lev = 0 then (39, 11) else if lev = 1 then (30, 9) else if lev = 2 then (21, 9) else (16, 5)
/-- Size of a level's table. -/
def tableSize (lev : Nat) : Nat := if lev = 0 then 2 ^ 14 else if lev = 3 then 2 ^ 8 else 2 ^ 12
/-- Size of a page that a leaf of the level maps. -/
def pageSize (lev : Nat) : Nat := if lev = 1 then 2 ^ 30 else if lev = 2 then 2 ^ 21 else 2 ^ 16

/-- Place of an entry of a table: line and byte. -/
def pteKey (die t i : Nat) : Nat × Nat := (hbmKey die (t + 8 * i), (t + 8 * i) % 128)

/-- A page-table entry in a die's memory. -/
def State.pte (s : State) (die t i : Nat) : Nat :=
  let (k, o) := pteKey die t i
  leNat (s.bytes k o 8)

/-- A reserved bit of an entry is set (R186). -/
def pteReserved (e : Nat) : Bool :=
  bits e 37 23 ≠ 0 || bits e 0 8 ≠ 0 || (!bit e 62 && (bit e 61 || bit e 60))

/-- The physical address in an entry. -/
def pteAddr (e : Nat) : Nat := bits e 8 29 * 2 ^ 8

/-- A walk through the levels left, from table t (R187). -/
def State.walkFrom (s : State) (die ia : Nat) : List Nat → Nat → Except WalkFault TlbEntry
  | [], _ => .error .format
  | lev :: rest, t =>
    let (lo, n) := levelBits lev
    let i := bits ia lo n
    let (k, _) := pteKey die t i
    if s.offlineStacks.contains (die * 2 + bits (t + 8 * i) 7 1) then .error .offline
    else if s.isPoisoned k then .error .readError
    else
      let e := s.pte die t i
      if !bit e 63 then .error .page
      else if pteReserved e then .error .format
      else if bit e 62 then
        if lev = 0 || pteAddr e % pageSize lev ≠ 0 then .error .format
        else .ok ⟨lev, pteAddr e, bit e 61, bit e 60⟩
      else if lev = 3 || pteAddr e % tableSize (lev + 1) ≠ 0 then .error .format
      else s.walkFrom die ia rest (pteAddr e)

/-- A walk of a die's table for an intermediate address (R185, R187). -/
def State.walk (s : State) (ia : Nat) : Except WalkFault TlbEntry :=
  let die := bits ia 50 2
  let root := (smGet 0 s.ptroot die).toNat
  if !bit root 63 then .error .page
  else s.walkFrom die ia [0, 1, 2, 3] (bits root 14 23 * 2 ^ 14)

/-- The key of a cached translation: the level of its leaf, the die and the first 64 KiB page of the page that the leaf maps. -/
def tlbKey (lev ia : Nat) : Nat := lev * 2 ^ 36 + ia / pageSize lev * (pageSize lev / 2 ^ 16)

/-- An entry that no cached translation is. -/
def TlbEntry.none : TlbEntry := ⟨0, 0, false, false⟩

/-- The cached translation of the page that holds an address. -/
def State.cached (s : State) (ia : Nat) : Option TlbEntry :=
  [1, 2, 3].findSome? fun lev =>
    let e := smGet TlbEntry.none s.tlb (tlbKey lev ia)
    if e.level = 0 then none else some e

/-- The translation that an access uses: a cached one, else a walk's (R188). -/
def State.translate (s : State) (ia : Nat) : Except WalkFault TlbEntry :=
  match s.cached ia with
  | some e => .ok e
  | none => s.walk ia

/-- The cached translations of a die that share room with those of a level (R188: 1 GiB pages have their own). -/
def State.tlbUsed (s : State) (die lev : Nat) : Nat :=
  (s.tlb.filter fun x => decide (bits x.1 34 2 = die) && (decide (x.2.level = 1) == decide (lev = 1))).length

/-- Caches the translation of an address that has one, one entry for the page, while its die has room (R188). -/
def State.cacheTlb (s : State) (ia : Nat) : State :=
  match s.translate ia with
  | .error _ => s
  | .ok e =>
    if s.tlbUsed (bits ia 50 2) e.level < (if e.level = 1 then 1024 else 8192) then
      { s with tlb := smPut TlbEntry.none s.tlb (tlbKey e.level ia) e } else s

/-- The physical byte address under a translation. -/
def TlbEntry.phys (e : TlbEntry) (ia : Nat) : Nat := e.pa + ia % pageSize e.level

/-- The cause of a walk's fault for a kind of access. -/
def walkCause (f : WalkFault) (k : Kind) : Byte :=
  match f with
  | .page => kindCause 0x4C k
  | .format => kindCause 0x50 k
  | .readError => 0x69
  | .offline => 0x6A

/-- A port is up (19 R348). -/
def State.isUp (s : State) (n : Nat) : Bool := (smGet ⟨true⟩ s.ports n).up

/-- The Prism slices can be reached: they answer, and a port is up to reach them by (19 R351; log entry 110). -/
def State.prismReachable (s : State) : Bool := !s.prismUnreachable && (List.range 16).any s.isUp

/-- The line of an intermediate address for a kind of access, by translation or in the Prism; the fault of 11 R226 otherwise. `c` gives the pod-shared ranges. -/
def State.resolveIa (s : State) (c : Context) (ia : Nat) (k : Kind) : Except AccFault LineRef :=
  match c.podShared ia with
  | some sys =>
    if !s.prismReachable then .error ⟨3, 0xAF, some .prism⟩
    else if s.prismFull && k.writes then .error ⟨3, 0xAD, some .prism⟩
    else .ok ⟨prismKey sys, ia / 128⟩
  | none =>
    if s.offlineSlices.contains (homeSlice ia) then .error ⟨3, 0x6A, none⟩
    else
      match s.translate ia with
      | .error f => .error ⟨3, walkCause f k, if f = .page then some (.page ia k.writes) else none⟩
      | .ok e =>
        let pa := e.phys ia
        let die := bits ia 50 2
        if s.offlineStacks.contains (die * 2 + bits pa 7 1) then .error ⟨3, 0x6A, none⟩
        else if k.writes && !e.writable then
          if e.mirrored then .error ⟨4, if k.engine then 0x65 else 0x64, some (.page ia true)⟩
          else .error (kindFault 4 0x54 k)
        else .ok ⟨hbmKey die pa, ia / 128⟩

/-- A line that is poisoned faults an access that reads it. -/
def State.poisonFault (s : State) (l : LineRef) (k : Kind) : Except AccFault LineRef :=
  if s.isPoisoned l.key then
    .error (if keyIsPrism l.key then ⟨5, 0xAE, none⟩ else kindFault 5 0x60 k)
  else .ok l

/-- The line of a virtual address below 2^56 through the context's windows: mapping before rights (11 R226). An access that reads and writes asks for both permissions. -/
def State.resolveVa (s : State) (c : Context) (va : Nat) (k : Kind) (both : Bool) : Except AccFault LineRef :=
  match c.window va with
  | none => .error (kindFault 3 0x48 k)
  | some h =>
    let allowed := (if k.writes then h.w else h.r) && (!both || h.r)
    match s.resolveIa c h.ia k with
    | .error f => if f.rank ≤ 3 || allowed then .error f else .error (kindFault 4 0x54 k)
    | .ok l => if allowed then .ok l else .error (kindFault 4 0x54 k)

/-- Caches the translation that an access at a virtual address has used. -/
def State.cacheVa (s : State) (c : Context) (va : Nat) : State :=
  match c.window va with
  | none => s
  | some h => if (c.podShared h.ia).isSome then s else s.cacheTlb h.ia

/-- An intermediate address of a context maps to a mirrored leaf that may not be written: the firmware is asked to collapse its 64 KiB block (19 R369, R370, 20 R382). -/
def State.mirrorIa (s : State) (ctx ia : Nat) : State :=
  match s.translate ia with
  | .ok e =>
    if e.mirrored && !e.writable && !s.mirrorReqs.any fun r => r.ia / 2 ^ 16 = ia / 2 ^ 16 then
      let (id, s) := s.takeId
      { s with mirrorReqs := s.mirrorReqs ++ [⟨id, ctx, ia / 2 ^ 16 * 2 ^ 16, false⟩], wire := s.wire ++ [.mirrorClaim (ia / 2 ^ 16 * 2 ^ 16)] }
    else s
  | .error _ => s

/-- The same by virtual address; an address that does not map asks for nothing. -/
def State.mirrorHint (s : State) (ctx va : Nat) : State :=
  match s.ctx? ctx with
  | none => s
  | some c =>
    if 2 ^ 56 ≤ va then s
    else
      match c.window va with
      | none => s
      | some h => if (c.podShared h.ia).isSome then s else s.mirrorIa ctx h.ia

/-! ### What a lane's address reaches -/

/-- A line and a byte of it, or the bytes that a read-only fixed window shows. -/
inductive Target where
  | line (l : LineRef) (off : Nat)
  | fixed (bytes : List Byte)
  deriving DecidableEq, Repr

/-- Byte i of the team page for a group (09 R181). -/
def State.teamPage (s : State) (g : Group) (i : Nat) : Byte :=
  match s.team? g.team, s.ctx? g.ctx with
  | some t, some c =>
    let none32 : Nat := 0xFFFFFFFF
    let fields := natLe t.base0 4 ++ natLe (if t.pair then t.base1 else none32) 4
      ++ natLe (if t.pair then evenCore t.core else t.core) 4
      ++ natLe (if t.pair then evenCore t.core + 1 else none32) 4
      ++ natLe g.pslot 4 ++ natLe c.privsz 4 ++ natLe c.privbase 8
      ++ natLe (carveLines t.carve) 4 ++ natLe t.scr 4
    byteAt fields i
  | _, _ => 0

/-- Byte i of the argument window for a group (07 R154). -/
def State.argByte (s : State) (g : Group) (i : Nat) : Byte :=
  match s.team? g.team with
  | some t =>
    match s.grid? t.ctx t.grid with
    | some gr => byteAt gr.args i
    | none => 0
  | none => 0

/-- What lane `l` of a group or glint reaches at a virtual address, with `n` bytes and a kind of access (09 R178 to R182, 11 R225, R226). `both` asks for both permissions. -/
def State.resolveLane (s : State) (c : Context) (g : Group) (l va n : Nat) (k : Kind) (both : Bool) : Except AccFault Target :=
  if 2 ^ 56 ≤ va then .error (kindFault 2 0x44 k)
  else if 0xFF000000000000 ≤ va then
    if va < 0xFF000100000000 then
      let o := va % 2 ^ 32
      if g.glint.isSome then .error (kindFault 2 0x44 k)
      else if c.privsz < o + n then .error (kindFault 2 0x44 k)
      else
        let back := c.privbase + (64 * g.pslot + l) * c.privsz + o
        match s.resolveVa c back k both with
        | .error f => .error f
        | .ok ln => (s.poisonFault ln k).map fun ln => .line ln (back % 128)
    else if 0xFFFFFFFFFFF000 ≤ va then
      if k.writes then .error (kindFault 4 0x54 k)
      else .ok (.fixed ((List.range n).map fun i => s.argByte g (va % 4096 + i)))
    else if 0xFFFFFFFFFFE000 ≤ va then
      if k.writes then .error (kindFault 4 0x54 k)
      else .ok (.fixed ((List.range n).map fun i => s.teamPage g (va % 4096 + i)))
    else .error (kindFault 3 0x48 k)
  else
    match s.resolveVa c va k both with
    | .error f => .error f
    | .ok ln => (s.poisonFault ln k).map fun ln => .line ln (va % 128)

/-- What a form that takes its address from scalar registers reaches: no fixed window (09 R180). -/
def State.resolveScalar (s : State) (c : Context) (va : Nat) (k : Kind) (both : Bool) : Except AccFault LineRef :=
  if 2 ^ 56 ≤ va then .error (kindFault 2 0x44 k)
  else
    match s.resolveVa c va k both with
    | .error f => .error f
    | .ok ln => s.poisonFault ln k

/-- The scratchpad line of a byte offset of a team (09 R192), with the state of the line: its core, its number. -/
def scratchLine (t : Team) (off : Nat) (k : Kind) : Except AccFault (Nat × Nat) :=
  match t.line (off / 128) with
  | some x => .ok x
  | none => .error (kindFault 2 0x58 k)

/-- The line of a cluster window offset (09 R198). -/
def State.windowLine (s : State) (ctx core off : Nat) (k : Kind) : Except AccFault (Nat × Nat) :=
  let j := bits off 19 5
  let n := bits off 7 12
  let target := clusterCore core j
  if off / 2 ^ 24 % 256 ≠ 0 || decide (24 ≤ j) || decide (carveLines (s.carveOf target) ≤ n) then .error (kindFault 2 0x5C k)
  else
    match s.lineTeam target n with
    | some t => if t.ctx = ctx then .ok (target, n) else .error (kindFault 2 0x5C k)
    | none => .error (kindFault 2 0x5C k)

/-! ### Waits on words of memory (09 R202, 08 R176) -/

/-- What a load of the region reads: its bytes overlaid by the region's buffered stores (10 R221). -/
def overlayBuf (key off : Nat) (bs : List Byte) : List BufEntry → List Byte
  | [] => bs
  | e :: r =>
    match e.kind with
    | .store o new _ =>
      if e.line.key = key then
        overlayBuf key off ((List.range bs.length).map fun i =>
          if o ≤ off + i && off + i < o + new.length then byteAt new (off + i - o) else byteAt bs i) r
      else overlayBuf key off bs r
    | _ => overlayBuf key off bs r

/-- The value of the word that a split of an agent waits on: at its home, with the bytes that its region buffers. -/
def State.wordAt (s : State) (k : Nat) (w : WordWait) : Nat :=
  leNat (overlayBuf w.line.key w.off (s.bytes w.line.key w.off 8) (((s.group? k).map Group.buf).getD []))

/-- The waits that the home slices hold, agent by agent. -/
def State.wordWaits (s : State) : List (Nat × Nat × WordWait) :=
  s.groups.flatMap fun e => e.2.splits.filterMap fun p =>
    match p.park with
    | .word w => some (e.1, p.slot, w)
    | _ => none

/-- A home slice re-evaluates the waits that it holds on words of a line after a write to it (R202): those that are satisfied now are noted, whatever a later write of the same action leaves. -/
def State.noteMet (s : State) (key : Nat) : State :=
  let met := s.wordWaits.filter fun w => w.2.2.registered && w.2.2.line.key = key && decide (w.2.2.least.toNat ≤ s.wordAt w.1 w.2.2)
  { s with metWaits := s.metWaits ++ met.map fun w => (w.1, w.2.1) }

/-! ### The L1 (09 R199 to R201, 10 R213) -/

/-- Key of an L1 line: core and intermediate line number. -/
def l1Key (core ia : Nat) : Nat := core * 2 ^ 45 + ia

/-- All 138 bytes of a line. -/
def allBytes : BitVec 138 := BitVec.ofNat 138 (2 ^ 138 - 1)

/-- Marks of `n` bytes from byte `off`. -/
def byteMarks (off n : Nat) : BitVec 138 := BitVec.ofNat 138 ((2 ^ n - 1) * 2 ^ off)

/-- The bytes marked in `m`, with their places. -/
def markedBytes (m : BitVec 138) : List Byte → Nat → List (Nat × Byte)
  | [], _ => []
  | b :: r, i => if m.getLsbD i then (i, b) :: markedBytes m r (i + 1) else markedBytes m r (i + 1)

/-- Writes single bytes of a line. -/
def State.putEach (s : State) (key : Nat) : List (Nat × Byte) → State
  | [] => s
  | (i, b) :: r => (s.putBytes key i [b]).putEach key r

/-- A core's copy of a line. -/
def State.l1Get (s : State) (core ia : Nat) : Option L1Line := alGet s.l1 (l1Key core ia)

/-- Writes back the dirty bytes of an L1 line and leaves it clean: a write at the home slice, after which the waits it holds on the line are re-evaluated (09 R201, R202). -/
def State.writeBack (s : State) (k : Nat) (l : L1Line) : State :=
  if l.dirty = 0 then s
  else { s.putEach l.home (markedBytes l.dirty l.bytes 0) with l1 := smIns s.l1 k { l with dirty := 0 } }.noteMet l.home

/-- Writes back a core's dirty bytes of one line. -/
def State.flushLine (s : State) (core ia : Nat) : State :=
  match s.l1Get core ia with
  | some l => s.writeBack (l1Key core ia) l
  | none => s

/-- Writes back a list of L1 lines. -/
def State.writeBackAll (s : State) : List (Nat × L1Line) → State
  | [] => s
  | (k, l) :: r => (s.writeBack k l).writeBackAll r

/-- Writes back every dirty line of a core: its releases at .team scope have reached the whole device. -/
def State.flushCore (s : State) (core : Nat) : State :=
  let s := s.writeBackAll (s.l1.filter fun x => x.1 / 2 ^ 45 = core)
  { s with teamRels := s.teamRels.filter fun r => r.1 ≠ core }

/-- Writes back every dirty line of the device. -/
def State.flushAll (s : State) : State := { s.writeBackAll s.l1 with teamRels := [] }

/-- Discards a core's clean lines and the clean bytes of its other lines. -/
def State.dropClean (s : State) (core : Nat) : State :=
  { s with l1 := s.l1.filterMap fun x =>
      if x.1 / 2 ^ 45 = core then (if x.2.dirty = 0 then none else some (x.1, { x.2 with valid := x.2.dirty }))
      else some x }

/-- Discards a core's copy of a line, its dirty bytes written back first. -/
def State.dropLine (s : State) (core ia : Nat) : State :=
  let s := s.flushLine core ia
  { s with l1 := smDel s.l1 (l1Key core ia) }

/-- The cores whose L1 holds a dirty byte of a line: those registered for it (10 R213). -/
def State.registered (s : State) (ia : Nat) : List Nat :=
  (s.l1.filter fun x => x.1 % 2 ^ 45 = ia && x.2.dirty ≠ 0).map fun x => x.1 / 2 ^ 45

/-- Every core's dirty bytes of a line are written back (recall, 10 R216). -/
def State.recall (s : State) (ia : Nat) : State :=
  (s.registered ia).foldl (fun s c => s.flushLine c ia) s

/-- The core's L1 has room for another line. -/
def State.l1Room (s : State) (core : Nat) : Bool :=
  (s.l1.filter fun x => x.1 / 2 ^ 45 = core).length < 4096 - carveLines (s.carveOf core)

/-- A copy of a line as it stands at home, over which the bytes the core holds dirty stay. -/
def mergeDirty (home old : List Byte) (dirty : BitVec 138) : List Byte :=
  (List.range 138).map fun i => if dirty.getLsbD i then byteAt old i else byteAt home i

/-- Fills an L1 line: every byte that is not dirty is read from home. -/
def State.fillL1 (s : State) (core : Nat) (l : LineRef) : State :=
  let home := s.line l.key
  match s.l1Get core l.ia with
  | some x => { s with l1 := smIns s.l1 (l1Key core l.ia) ⟨l.key, mergeDirty home x.bytes x.dirty, allBytes, x.dirty⟩ }
  | none =>
    if s.l1Room core then { s with l1 := smIns s.l1 (l1Key core l.ia) ⟨l.key, home, allBytes, 0⟩ } else s

/-- The scope is .die or wider. -/
def Scope.wide : Scope → Bool
  | .grp | .team => false
  | _ => true

/-- The access passes by the L1: a line that no L1 holds, or a core without one. -/
def State.noL1 (s : State) (core : Nat) (l : LineRef) : Bool :=
  keyIsSram l.key || keyIsPrism l.key || s.carveOf core = 0

/-- A read of a core at the home slice: its dirty bytes of the line are written back, and its copy, if it has one, is refreshed (09 R201, 10 R213). -/
def State.refresh (s : State) (core : Nat) (l : LineRef) : State :=
  if s.noL1 core l then s
  else
    let s := s.flushLine core l.ia
    if (s.l1Get core l.ia).isSome then s.fillL1 core l else s

/-- A load of `n` bytes of a line by an agent of a core: its bytes and the L1 after it. One that its L1 does not serve reads the line at home, after the core's dirty bytes of it have been written back (09 R201, 10 R213). -/
def State.load (s : State) (core : Nat) (l : LineRef) (off n : Nat) (scope : Scope) (cp : BitVec 2) : List Byte × State :=
  if s.noL1 core l then (s.bytes l.key off n, s)
  else if scope.wide || cp = 3 then
    let s := s.refresh core l
    (s.bytes l.key off n, s)
  else
    match s.l1Get core l.ia with
    | some x =>
      if byteMarks off n &&& x.valid = byteMarks off n then (slice x.bytes off n, s)
      else
        let s := (s.flushLine core l.ia).fillL1 core l
        match s.l1Get core l.ia with
        | some y => (slice y.bytes off n, s)
        | none => (s.bytes l.key off n, s)
    | none =>
      let bs := s.bytes l.key off n
      (bs, s.fillL1 core l)

/-- Bytes written into a core's copy of a line, if it has one: valid, and not dirty unless `dirty`. -/
def L1Line.write (x : L1Line) (off : Nat) (bs : List Byte) (dirty : Bool) : L1Line :=
  let m := byteMarks off bs.length
  ⟨x.home, overlay x.bytes off bs, x.valid ||| m, if dirty then x.dirty ||| m else x.dirty &&& ~~~m⟩

/-- A store of bytes of a line by an agent of a core (09 R200). `pair` says that its team spans a core pair. -/
def State.store (s : State) (core : Nat) (pair : Bool) (l : LineRef) (off : Nat) (bs : List Byte) (scope : Scope)
    (cp : BitVec 2) : State :=
  if s.noL1 core l then s.putBytes l.key off bs
  else
    let held := !pair && !scope.wide && cp ≠ 3
    match s.l1Get core l.ia with
    | some x =>
      if held then { s with l1 := smIns s.l1 (l1Key core l.ia) (x.write off bs true) }
      else
        let s := (s.flushLine core l.ia).putBytes l.key off bs
        match s.l1Get core l.ia with
        | some x => { s with l1 := smIns s.l1 (l1Key core l.ia) (x.write off bs false) }
        | none => s
    | none =>
      if held && s.l1Room core then
        let x : L1Line := ⟨l.key, List.replicate 138 0, 0, 0⟩
        { s with l1 := smIns s.l1 (l1Key core l.ia) (x.write off bs true) }
      else s.putBytes l.key off bs

/-- The release half of an access or a fence (09 R201, 10 R213). A release at .team by a team that spans a pair writes the core's dirty lines back too: what other teams' groups of the core hold dirty is made visible on the pair's other core, if the releasing group may have read it (10 R207). -/
def State.release (s : State) (core : Nat) (pair : Bool) (scope : Scope) : State :=
  if scope.wide || (pair && scope = .team) then s.flushCore core else s

/-- The acquire half (09 R201, 10 R213): clean lines are discarded at .die and wider, and at .team by a team that spans a pair. -/
def State.acquire (s : State) (core : Nat) (pair : Bool) (scope : Scope) : State :=
  if scope.wide || (pair && scope = .team) then s.dropClean core else s

/-- The name under which a FENCE that releases at .team scope is remembered. -/
def fenceLine : Nat := 2 ^ 61

/-- A core has released at .team scope by a write to a line, or by a FENCE (10 R214). -/
def State.noteRelease (s : State) (core line : Nat) : State :=
  if s.teamRels.contains (core, line) then s else { s with teamRels := s.teamRels ++ [(core, line)] }

/-- A write of a core to a line that carries a release at .team scope: its own (`rel`), or that of a FENCE before it. -/
def State.noteWrite (s : State) (core : Nat) (l : LineRef) (rel : Bool) : State :=
  if !keyIsSram l.key && (rel || s.teamRels.contains (core, fenceLine)) then s.noteRelease core l.own else s

/-- The promotion of an acquire at .dev.prom of a line (10 R214): every core registered for it, and every core that has released at .team scope by a write to it, writes back every dirty line. -/
def State.promote (s : State) (l : LineRef) : State :=
  let held := if keyIsPrism l.key then [] else s.registered l.ia
  let rels := (s.teamRels.filter fun r => r.2 = l.own).map (·.1)
  (held ++ rels).foldl (fun s c => s.flushCore c) s

/-- An order with a release half. -/
def MemOrder.rels : MemOrder → Bool
  | .rel | .ar => true
  | _ => false

/-- An order with an acquire half. -/
def MemOrder.acqs : MemOrder → Bool
  | .acq | .ar => true
  | _ => false

/-- The order of a code (05 R83). -/
def memOrder (x : BitVec 2) : MemOrder :=
  if x = 0 then .rlx else if x = 1 then .acq else if x = 2 then .rel else .ar

/-- The scope of a code (05 R83). -/
def memScope (x : BitVec 3) : Scope :=
  if x = 0 then .grp else if x = 1 then .team else if x = 2 then .die else if x = 3 then .dev else if x = 4 then .sys else .prom

/-- A load with an order: promotion first, the load, then the acquire half. -/
def State.loadOrd (s : State) (core : Nat) (pair : Bool) (l : LineRef) (off n : Nat) (o : MemOrder) (scope : Scope)
    (cp : BitVec 2) : List Byte × State :=
  let s := if o.rels then s.release core pair scope else s
  let s := if o.acqs && scope = .prom && !keyIsSram l.key then s.promote l else s
  let (bs, s) := s.load core l off n scope cp
  (bs, if o.acqs then s.acquire core pair scope else s)

/-- A store with an order. -/
def State.storeOrd (s : State) (core : Nat) (pair : Bool) (l : LineRef) (off : Nat) (bs : List Byte) (o : MemOrder)
    (scope : Scope) (cp : BitVec 2) : State :=
  let s := if o.rels then s.release core pair scope else s
  let s := (s.store core pair l off bs scope cp).noteWrite core l (o.rels && scope = .team)
  if o.acqs then s.acquire core pair scope else s

/-! ### Engines' accesses to whole lines (10 R216, 12 R252) -/

/-- Takes ownership of a line for an operation: dirty bytes recalled, clean copies of the issuing core or pair discarded. -/
def State.own (s : State) (l : LineRef) (op core : Nat) (pair : Bool) : State :=
  let s := if keyIsPrism l.key then s else s.recall l.ia
  let s := if keyIsPrism l.key then s
    else if pair then (s.dropLine (evenCore core) l.ia).dropLine (evenCore core + 1) l.ia else s.dropLine core l.ia
  { s with owned := s.owned ++ [(l.own, op)] }

/-- Ends one ownership of a line by an operation, which may hold several of one line. -/
def State.disown (s : State) (l : Nat) (op : Nat) : State := { s with owned := s.owned.erase (l, op) }

/-- The operation that owns a line now: the first that took it. -/
def State.ownerOf (s : State) (l : Nat) : Option Nat := (s.owned.find? fun x => x.1 = l).map (·.2)

/-- The home slice of a line, by its name, serves a request that has waited 256 cycles before it serves any other (09 R184). -/
def State.sliceKept (s : State) (own : Nat) : Bool :=
  decide (own < 2 ^ 60) && s.sliceReqs.any fun q => q.promoted && decide (q.slice = homeSlice (own * 128))

/-- An engine operation's read of a line at home waits: another operation owns the line (10 R216), or the slice serves an overdue request first (09 R184). The reads of an operation that itself owns lines of global memory go on, for the overdue request may wait for one of those (log entry 131). -/
def State.readWaits (s : State) (own op : Nat) : Bool :=
  ((s.ownerOf own).isSome && s.ownerOf own ≠ some op) || (s.sliceKept own && !(s.owned.any fun x => x.2 = op && decide (x.1 < 2 ^ 60)))

/-- An access to the line waits at its home slice: some engine owns the line (10 R216), or the slice serves an overdue request first (09 R184). -/
def State.isOwned (s : State) (l : LineRef) : Bool := !keyIsSram l.key && ((s.ownerOf l.own).isSome || s.sliceKept l.own)

/-- How an engine's access to a line stands (12 R255): it can be performed, it waits for a page, it fails. -/
inductive EngineTry where
  | ready (l : LineRef)
  | wait (ia : Nat) (cause : Byte)
  | fail (cause : Byte)
  deriving DecidableEq, Repr

/-- An outcome of a line's mapping as an engine meets it; `reads` says that the access reads the line. -/
def State.engineOutcome (s : State) (x : Except AccFault LineRef) (k : Kind) (reads : Bool) : EngineTry :=
  match x with
  | .ok l =>
    if reads && s.isPoisoned l.key then .fail (if keyIsPrism l.key then 0xAE else kindCause 0x60 k) else .ready l
  | .error f =>
    match f.replay with
    | some (.page ia _) => .wait ia f.cause
    | _ => .fail f.cause

/-- An engine's access to the line of a virtual address. -/
def State.engineLine (s : State) (c : Context) (va : Nat) (k : Kind) (reads : Bool) : EngineTry :=
  if 2 ^ 56 ≤ va then .fail (kindCause 0x44 k) else s.engineOutcome (s.resolveVa c va k false) k reads

/-- An engine's access to the line of an intermediate address. -/
def State.engineIa (s : State) (c : Context) (ia : Nat) (k : Kind) (reads : Bool) : EngineTry :=
  s.engineOutcome (s.resolveIa c ia k) k reads

/-- An engine replaces a line whole: its 128 payload bytes, with penumbra and tags zero (03 R42). -/
def State.engineFill (s : State) (l : LineRef) (bs : List Byte) : State :=
  (if keyIsPrism l.key then s else s.recall l.ia).putLine l.key (slice bs 0 128)

/-! ### Instruction fetch (04 R68) -/

/-- `n` bytes of a line as a core's access at the home slice reads them: the core's own dirty bytes of the line are written back first (09 R201). -/
def State.homeBytes (s : State) (core : Nat) (l : LineRef) (off n : Nat) : List Byte :=
  match (if s.noL1 core l then none else s.l1Get core l.ia) with
  | some x =>
    let home := s.bytes l.key off n
    (List.range n).map fun i => if x.dirty.getLsbD (off + i) then byteAt x.bytes (off + i) else byteAt home i
  | none => s.bytes l.key off n

/-- Writes back a core's dirty bytes of the line of a virtual address, before a fetch of the core reads it at home (09 R201). -/
def State.flushVa (s : State) (core : Nat) (c : Context) (va : Nat) : State :=
  match c.window va with
  | none => s
  | some h => if (c.podShared h.ia).isSome then s else s.flushLine core (h.ia / 128)

/-- The word at a virtual address below 2^56 as a core fetches it, or the fetch fault. -/
def State.fetchWord (s : State) (core : Nat) (c : Context) (va : Nat) : Except AccFault Word :=
  match c.window va with
  | none => .error ⟨3, 0x6B, none⟩
  | some h =>
    if !h.x then .error ⟨4, 0x6C, none⟩
    else
      match s.resolveIa c h.ia .load with
      | .error f =>
        .error (if f.cause = 0x4C then { f with cause := 0x6D } else if f.cause = 0x50 then { f with cause := 0x6E } else f)
      | .ok l =>
        if s.isPoisoned l.key then .error ⟨5, 0x6F, none⟩
        else .ok (BitVec.ofNat 32 (leNat (s.homeBytes core l (va % 128) 4)))

/-- The state once a core has fetched the word of a virtual address: where the fetch reads the line at home, the core's dirty bytes of it have been written back (09 R201). -/
def State.fetched (s : State) (core : Nat) (c : Context) (va : Nat) : State :=
  match s.fetchWord core c va with
  | .ok _ => s.flushVa core c va
  | .error _ => s

/-- The line that a fetch reads at its home slice while an engine owns it: instruction fetch is a thread load, which waits (04 R68, 10 R216). -/
def State.fetchOwned (s : State) (c : Context) (va : Nat) : Option Nat :=
  match c.window va with
  | none => none
  | some h =>
    if !h.x then none
    else
      match s.resolveIa c h.ia .load with
      | .ok l => if s.isOwned l then some l.own else none
      | .error _ => none

/-- A word is a clause header: MAJ 0x3F (05 R87). -/
def isHeaderWord (w : Word) : Bool := bits w.toNat 23 6 = 0x3F

end Sys2Proof.Machine
end

