-- ==== Sys2Proof/Machine/Perform.lean ====
section
/-! DEFINITION. How a store, a reduction and an entry of ATOM.DET reach memory, at issue or out of a store buffer (11 R230 to R236, 16 R315, R316). -/

namespace Sys2Proof.Machine

/-- For whom an effect is performed: the issuing group's key, the core, whether its team spans a pair, the team, the context and the grid. -/
structure Doer where
  key : Nat
  core : Nat
  pair : Bool
  team : Nat
  ctx : Nat
  grid : Nat
  deriving DecidableEq, Repr

/-- The group that issued the operation a glint belongs to, or the group itself. -/
def State.ownerKey (s : State) (k : Nat) (g : Group) : Nat :=
  match g.glint with
  | none => k
  | some x =>
    match s.copies.find? fun o => o.id = x.op with
    | some o => o.key
    | none => k

/-- The doer of an agent's effects. -/
def State.doer (s : State) (k : Nat) (g : Group) : Doer :=
  match s.team? g.team with
  | some t => ⟨s.ownerKey k g, keyCore k, t.pair, t.id, t.ctx, t.grid⟩
  | none => ⟨s.ownerKey k g, keyCore k, false, g.team, g.ctx, 0⟩

/-- A read-modify-write of one location with an order and a scope (11 R234): the old value, the flags, the state. The core's L1 copy is discarded first. -/
def State.rmw (s : State) (d : Doer) (l : LineRef) (off : Nat) (op : BitVec 4) (c : RndCtl) (x : List Word)
    (o : MemOrder) (scope : Scope) : Nat × BitVec 8 × State :=
  let s := if o.rels then s.release d.core d.pair scope else s
  let s := if o.acqs && scope = .prom && !keyIsSram l.key then s.promote l else s
  let s := if keyIsSram l.key || keyIsPrism l.key then s else s.dropLine d.core l.ia
  let old := leNat (s.bytes l.key off (atomSize op))
  let r := atomicNew op c old x
  let s := ((s.putBytes l.key off (natLe r.1 (atomSize op))).noteMet l.key).noteWrite d.core l (o.rels && scope = .team)
  (old, r.2, if o.acqs then s.acquire d.core d.pair scope else s)

/-- Writes the two tag bits of slot j of a line as part of a store: the line's sixteen tag bits carry one dirty mark (09 R199). -/
def State.storeTag (s : State) (d : Doer) (l : LineRef) (j : Nat) (tag : BitVec 2) (o : MemOrder) (scope : Scope)
    (cp : BitVec 2) : State :=
  let old := leNat (s.load d.core l 136 2 scope cp).1
  let new := old - bits old (2 * j) 2 * 4 ^ j + tag.toNat * 4 ^ j
  s.storeOrd d.core d.pair l 136 (natLe new 2) o scope cp

/-- The grid-linear lane index (11 R235). -/
def State.issuer (s : State) (d : Doer) (lane : Nat) : Nat :=
  match s.group? d.key, s.team? d.team with
  | some g, some t => (t.num * t.groups + g.num) * g.width + lane
  | _, _ => lane

/-- One entry more to reach a holding buffer counts in the operation of its ATOM.DET; `flag` and `committed` are those of an operation that it begins. -/
def Group.countDet (g : Group) (op : Nat) (pc : Pc) (flag : Option Nat) (committed : Bool) : Group :=
  if g.pend.any fun o => o.id = op then
    { g with pend := g.pend.map fun o =>
        match o.kind with
        | .det n f c => if o.id = op then { o with kind := .det (n + 1) f c } else o
        | _ => o }
  else
    { g with pend := g.pend ++ [{ id := op, pc, flag, kind := .det 1 none committed, vals := [], sides := [], xflags := 0 }] }

/-- Sends one entry of ATOM.DET to the word's home slice (11 R235), after the core's dirty bytes of the line have been written back (09 R201). Entries of glints count with the lane of the group that issued the BREAD. `op` is the operation that counts the entry. -/
def State.detSend (s : State) (d : Doer) (l : LineRef) (off lane : Nat) (bf : Bool) (value : Word) (op : Nat)
    (pc : Pc) (va : DWord) (flag : Option Nat) (committed : Bool) : State :=
  let (id, s) := (s.flushLine d.core l.ia).takeId
  let s := s.mapGroup d.key fun g => g.countDet op pc flag committed
  { s with sliceReqs := s.sliceReqs ++ [{
      id, slice := homeSlice (l.ia * 128), since := s.cycles, promoted := false, line := l, off, bf,
      issuer := s.issuer d lane, lane, value, ctx := d.ctx, grid := d.grid, key := d.key, pend := op, team := d.team, pc, va,
      waitSince := none }] }

/-- Performs a buffered effect; the flags it raises. A staged store is performed at its peer. -/
def State.perform (s : State) (d : Doer) (e : BufEntry) : State × BitVec 8 :=
  match e.kind with
  | .store off bs tag =>
    let s := (s.storeOrd d.core d.pair e.line off bs e.order e.scope e.cp).noteMet e.line.key
    match tag with
    | none => (s, 0)
    | some (j, t) => (s.storeTag d e.line j t e.order e.scope e.cp, 0)
  | .red off op x mode sat flush =>
    let r := s.rmw d e.line off op ⟨mode, 0, 32, sat, flush⟩ x e.order e.scope
    (r.2.2, atomFlags op none r.2.1)
  | .det off lane bf value op => (s.detSend d e.line off lane bf value op e.pc e.va none true, 0)
  | .staged _ _ _ => (s, 0)

/-- Performs lanes of an atomic or a reduction one at a time, in increasing order (11 R227, R234): the state, what each lane returns where the form `delivers`, the flags. -/
def State.atomEach (s : State) (d : Doer) (delivers : Bool) :
    List (Nat × BufEntry) → List (Nat × List Word) → BitVec 8 → State × List (Nat × List Word) × BitVec 8
  | [], vals, fl => (s, vals, fl)
  | (l, e) :: r, vals, fl =>
    match e.kind with
    | .red off op x mode sat flush =>
      let q := s.rmw d e.line off op ⟨mode, 0, 32, sat, flush⟩ x e.order e.scope
      q.2.2.atomEach d delivers r (vals ++ [(l, if delivers then valueWords op q.1 else [])])
        (fl ||| atomFlags op (if delivers then some q.1 else none) q.2.1)
    | _ => s.atomEach d delivers r vals fl

/-- Performs effects in order, gathering their flags. -/
def State.performAll (s : State) (d : Doer) : List BufEntry → BitVec 8 → State × BitVec 8
  | [], f => (s, f)
  | e :: r, f =>
    let (s, f') := s.perform d e
    s.performAll d r (f ||| f')

/-- An effect that accesses its line when it is performed. -/
def BufEntry.touches (e : BufEntry) : Bool :=
  match e.kind with
  | .store _ _ _ | .red _ _ _ _ _ _ => true
  | .det _ _ _ _ _ | .staged _ _ _ => false

/-- The state of a scratchpad line by its place. -/
def State.sramSt (s : State) (key : Nat) : LineState := smGet LineState.fresh s.lineState (key - 2 ^ 33)

/-- The effect's line is poisoned (03 R44, 09 R195). -/
def State.entryPoisoned (s : State) (e : BufEntry) : Bool :=
  e.touches && (if keyIsSram e.line.key then (s.sramSt e.line.key).poisoned else s.isPoisoned e.line.key)

/-- The effect's scratchpad line is absent. -/
def State.entryAbsent (s : State) (e : BufEntry) : Bool :=
  e.touches && keyIsSram e.line.key && !(s.sramSt e.line.key).present && !(s.sramSt e.line.key).poisoned

/-- An engine owns the effect's line. -/
def State.entryOwned (s : State) (e : BufEntry) : Bool := e.touches && s.isOwned e.line

/-- The name of the line that an effect occupies in a store buffer: a scratchpad line, a line by its intermediate address, or a class and a line of a peer (16 R316, 19 R356). -/
def BufEntry.name (e : BufEntry) : Nat × Nat :=
  match e.kind with
  | .staged cls pl _ => (cls + 2, pl)
  | _ => if keyIsSram e.line.key then (0, e.line.key) else (1, e.line.ia)

/-- The distinct lines of a store buffer. -/
def bufLines (b : List BufEntry) : List (Nat × Nat) := (b.map BufEntry.name).eraseDups

/-- Effects fit a store buffer of `n` lines beside those it holds. -/
def bufFits (n : Nat) (b new : List BufEntry) : Bool := decide ((bufLines (b ++ new)).length ≤ n)

/-- The two tag bits of slot j of a line as a load of the region reads them, from what memory holds. -/
def overlayTag (key j : Nat) (t : BitVec 2) : List BufEntry → BitVec 2
  | [] => t
  | e :: r =>
    match e.kind with
    | .store _ _ (some (j', t')) => overlayTag key j (if e.line.key = key && j' = j then t' else t) r
    | _ => overlayTag key j t r

end Sys2Proof.Machine
end

