-- ==== Sys2Proof/Machine/Ops.lean ====
section
/-! DEFINITION. The shared operations on groups: completion of long-latency operations, regions, the report of a grid, taking a trap and returning from one (16 R314 to R327). -/

namespace Sys2Proof.Machine

/-! ### Long-latency operations (04 R64, R65) -/

/-- The group with everything that an operation delivers. -/
def Group.delivered (g : Group) (o : PendOp) : Group :=
  { g with v := o.vals.foldl (fun m e => smPut 0 m e.1 e.2) g.v,
           side := o.sides.foldl (fun m e => smPut 0 m e.1 e.2) g.side,
           xflags := g.xflags ||| o.xflags }

/-- Delivers the group's own accesses in the order of issue and ends them. -/
def Group.finishThreads (g : Group) : Group :=
  let h := (g.pend.filter fun o => o.kind = .thread).foldl Group.delivered g
  { h with pend := h.pend.filter fun o => o.kind ≠ .thread }

/-- An operation that outlives an abort or a trap of its group: one of an engine or a collective, entries of ATOM.DET that have been sent, effects that a commit has handed over. -/
def PendOp.outlives (o : PendOp) : Bool :=
  match o.kind with
  | .engine _ | .coll _ | .det _ _ _ | .handed _ _ _ _ _ => true
  | .thread | .remote _ => false

/-- An operation that a trap outside a region waits for (16 R322). -/
def PendOp.sent (o : PendOp) : Bool :=
  match o.kind with
  | .remote _ | .det _ _ _ | .handed _ _ _ _ _ => true
  | .thread | .engine _ | .coll _ => false

/-! ### Regions (16 R314 to R320) -/

/-- A register is named by a live mask: vector blocks in bits 0 to 15, scalar blocks in bits 16 to 31 (17 R334). -/
def inMaskV (m : BitVec 32) (r : Nat) : Bool := m.getLsbD (r / 8)
def inMaskS (m : BitVec 32) (r : Nat) : Bool := m.getLsbD (16 + r / 8)

/-- The state that a region keeps of its group (16 R314, 17 R339), the split that opens it standing at `pc`. Splits that wait re-issue their word. -/
def Group.takeShadow (g : Group) (m : BitVec 32) (slot : Nat) (pc : Pc) : Shadow :=
  { v := g.v.filter fun e => inMaskV m (e.1 / 64), side := g.side.filter fun e => inMaskV m (e.1 / 2),
    s := g.s.filter fun e => inMaskS m e.1, p := g.p, xflags := g.xflags, lscale := g.lscale, lsmin := g.lsmin,
    lsmax := g.lsmax, run := g.run, count := g.count, seed := g.seed,
    splits := g.splits.map fun p =>
      { p with pc := if p.slot = slot then pc else p.pc, hints := Hints.none, park := .running, stallUntil := 0 },
    meet := g.meet, lastSplit := g.lastSplit }

/-- Entries of a sparse map outside a mask, with the saved entries. -/
def smRestore {α : Type} (keep : Nat → Bool) (m saved : SMap α) : SMap α :=
  saved.foldl (fun a e => smIns a e.1 e.2) (m.filter fun e => keep e.1)

/-- The group with its shadow set restored. -/
def Group.restoreShadow (g : Group) (m : BitVec 32) (h : Shadow) : Group :=
  { g with v := smRestore (fun k => !inMaskV m (k / 64)) g.v h.v,
           side := smRestore (fun k => !inMaskV m (k / 2)) g.side h.side,
           s := smRestore (fun k => !inMaskS m k) g.s h.s,
           p := h.p, xflags := h.xflags, lscale := h.lscale, lsmin := h.lsmin, lsmax := h.lsmax, run := h.run,
           count := h.count, seed := h.seed, splits := h.splits, meet := h.meet, lastSplit := h.lastSplit }

/-- Opens a region at a word. -/
def State.openRegion (s : State) (k slot : Nat) (pc : Pc) (m : BitVec 32) : State :=
  let (id, s) := s.takeId
  s.mapGroup k fun g =>
    { g with region := some ⟨id, pc, slot, m, g.takeShadow m slot pc, 0, false⟩, buf := [], log := [], replayPos := 0 }

/-- Some fabric operation of the group has no response: a remote pass, or a commit (19 R352). -/
def State.fabricPending (s : State) (k : Nat) (g : Group) : Bool :=
  (g.pend.any fun o => match o.kind with | .remote _ => true | _ => false)
  || s.passes.any (fun p => p.key = k)
  || s.commits.any fun c => !c.discard && c.core = keyCore k && c.num = g.num && c.team = g.team

/-- What a commit waits for beyond the flags (16 R315, 10 R216, R221, 19 R352, R356, 20 R376). A commit is a release at the widest scope of its stores, so that of a store at .sys waits for every earlier fabric operation (10 R222). -/
def State.commitWait (s : State) (k : Nat) (g : Group) : Option Hold :=
  if (s.passes.any fun p => p.key = k) || g.remote.isSome then some .region
  else if g.buf.any (fun e => e.scope = .sys) && s.fabricPending k g then some .region
  else
    let owned := (g.buf.filter s.entryOwned).map fun e => e.line.own
    if owned ≠ [] then some (.owned owned)
    else
      let absent := (g.buf.filter s.entryAbsent).map fun e => e.line.key - 2 ^ 33
      if absent ≠ [] then some (.lines absent) else none

/-- The first buffered effect whose line is poisoned (16 R315). -/
def State.poisonedEntry (s : State) (g : Group) : Option BufEntry := g.buf.find? s.entryPoisoned

/-- The first address of an effect's line. -/
def BufEntry.lineVa (e : BufEntry) : Nat := e.va.toNat / 128 * 128

/-- Some effect that the group handed over has not been performed. -/
def Group.handing (g : Group) : Bool := g.pend.any fun o => match o.kind with | .handed _ _ _ _ _ => true | _ => false

/-- The classes to whose peers the region has staged stores. -/
def stagedClasses (b : List BufEntry) : List Nat :=
  (b.filterMap fun e => match e.kind with | .staged cls _ _ => some cls | _ => none).eraseDups

/-- Sends a commit or a discard for each class (19 R356). -/
def State.sendCommits (s : State) (k : Nat) (g : Group) (region : Nat) (rbeg : Pc) (discard : Bool) : List Nat → State
  | [] => s
  | cls :: rest =>
    let src : StageKey := ⟨s.devno.toNat, g.ctx, region⟩
    let (id, s) := s.takeId
    let c : Commit := { id, ctx := g.ctx, cls, src, discard, since := s.nanos, core := keyCore k, num := g.num, team := g.team, pc := rbeg }
    let s := { s with commits := s.commits ++ [c], wire := s.wire ++ [if discard then FabricMsg.discard cls src else FabricMsg.commit cls src] }
    s.sendCommits k g region rbeg discard rest

/-- The effect is a staged store. -/
def BufEntry.isStaged (e : BufEntry) : Bool :=
  match e.kind with
  | .staged _ _ _ => true
  | _ => false

/-- An effect as a commit performs it: the commit is a release (10 R222), so each effect carries a release half at its own scope. -/
def BufEntry.released (e : BufEntry) : BufEntry := { e with order := if e.order.acqs then .ar else .rel }

/-- The commit of a buffer is a release at .die or wider, or at .team by a pair team: the widest scope of its effects (10 R222). -/
def widelyReleased (pair : Bool) (b : List BufEntry) : Bool := b.any fun e => e.isStaged || e.scope.wide || (pair && e.scope = .team)

/-- Commits the open region: its effects are performed in program order, as a release at the widest of their scopes, and the log is discarded (16 R315, 10 R221, R222). -/
def State.commitRegion (s : State) (k : Nat) : State :=
  match s.group? k with
  | none => s
  | some g =>
    match g.region with
    | none => s
    | some r =>
      let d := s.doer k g
      let (s, f) := s.performAll d (g.buf.map BufEntry.released) 0
      let s := if widelyReleased d.pair g.buf then s.flushCore d.core else s
      let s := s.sendCommits k g r.id r.rbeg false (stagedClasses g.buf)
      s.mapGroup k fun g =>
        { g.raise f with region := none, buf := [], log := [], replayPos := 0, aborts := 0, remoteFails := 0, replay := none }

/-- Performs effects that a commit handed over, in program order, until one must wait for its line; the effects left and the flags raised. An effect whose line has become poisoned is not performed, and the group receives an imprecise trap (16 R315). -/
def State.drain (s : State) (d : Doer) (k : Nat) : List BufEntry → BitVec 8 → State × List BufEntry × BitVec 8
  | [], f => (s, [], f)
  | e :: r, f =>
    if s.entryPoisoned e then
      State.drain (s.mapGroup k fun g =>
        { g with imprecise := g.imprecise ++ [{ cause := 0x61, faddr := BitVec.ofNat 64 e.lineVa, origin := BitVec.ofNat 64 e.pc.toNat,
                                                detail := BitVec.ofNat 64 (0x61 * 2 ^ 48), committed := true }] }) d k r f
    else if s.entryOwned e || s.entryAbsent e then (s, e :: r, f)
    else
      let (s, f') := s.perform d e
      s.drain d k r (f ||| f')

/-- Performs what can be of one operation that hands effects over; when none is left the staged stores are released and committed. -/
def State.drainOp (s : State) (k : Nat) (o : PendOp) : State :=
  match s.group? k, o.kind with
  | some g, .handed region rbeg classes rels effects =>
    let (s, left, f) := s.drain (s.doer k g) k effects 0
    if left ≠ [] then
      s.mapGroup k fun g =>
        { g.raise f with pend := g.pend.map fun p => if p.id = o.id then { p with kind := .handed region rbeg classes rels left } else p }
    else
      let s := if rels then s.flushCore (keyCore k) else s
      let s := s.sendCommits k g region rbeg false classes
      s.mapGroup k fun g => { g.raise f with pend := g.pend.filter fun p => p.id ≠ o.id }
  | _, _ => s

/-- The effects handed over by the groups of a list are performed as far as they can be. -/
def State.sweepHanded (s : State) : List (Nat × Group) → State
  | [] => s
  | (k, g) :: r => (g.pend.foldl (fun s o => s.drainOp k o) s).sweepHanded r

/-- Commits the open region where a line keeps some effect waiting: the buffer is handed over to the memory system and the group issues on (16 R315). -/
def State.handOver (s : State) (k : Nat) : State :=
  match s.group? k with
  | none => s
  | some g =>
    match g.region with
    | none => s
    | some r =>
      let (id, s) := s.takeId
      let o : PendOp := { id, pc := r.rbeg, flag := none, vals := [], sides := [], xflags := 0,
                          kind := .handed r.id r.rbeg (stagedClasses g.buf) (widelyReleased (s.doer k g).pair g.buf)
                            ((g.buf.filter fun e => !e.isStaged).map BufEntry.released) }
      State.drainOp (s.mapGroup k fun g =>
        { g with region := none, buf := [], log := [], replayPos := 0, aborts := 0, remoteFails := 0, replay := none,
                 pend := g.pend ++ [o] }) k o

/-- Aborts the open region (16 R318): the shadow set restored, the buffer, the outstanding results, the flag counts and the hints discarded. The group is to re-issue at the RBEG address; `cause` is what it waits for first. -/
def State.abortRegion (s : State) (k : Nat) (cause : Option ReplayCause) : State :=
  match s.group? k with
  | none => s
  | some g =>
    match g.region with
    | none => s
    | some r =>
      let s := (s.sendCommits k g r.id r.rbeg true (stagedClasses g.buf)).leaveWaits (.group k)
      s.mapGroup k fun g =>
        let h := g.restoreShadow r.mask r.shadow
        { h with region := some { r with issued := 0, replaying := true }, buf := [], replayPos := 0, edge := .none, remote := none,
                 pend := (h.pend.filter PendOp.outlives).map fun o => { o with flag := none },
                 aborts := if h.abortsAt = r.rbeg then h.aborts + 1 else 1, abortsAt := r.rbeg, replay := cause,
                 stepDue := none }

/-- A remote atomic pass of the group has no response. -/
def State.atomicsOut (s : State) (k : Nat) : Bool := s.passes.any fun p => p.key = k && p.req.kind = .ratom && p.answer.isNone

/-! ### The atomic log (16 R317) -/

/-- What a logged form does: it delivers logged values, it is performed and logged between the entries that stay before it and those that stay behind it, or the log overflows. -/
inductive LogStep where
  | deliver (vals : List (Nat × List Word))
  | perform (keep later : List LogEntry)
  | overflow
  deriving DecidableEq, Repr

/-- Compares a logged form with the log. -/
def Group.logStep (g : Group) (lanes : Mask) (locs : List (Nat × Nat)) : LogStep :=
  match g.log[g.replayPos]? with
  | some en =>
    if en.lanes = lanes && en.locs = locs then
      if en.failed then .perform (g.log.take g.replayPos) (g.log.drop (g.replayPos + 1)) else .deliver en.vals
    else .perform (g.log.take g.replayPos) []
  | none => if 16 ≤ g.log.length then .overflow else .perform g.log []

/-- The group with a logged form recorded. -/
def Group.logged (g : Group) (keep later : List LogEntry) (en : LogEntry) : Group :=
  { g with log := keep ++ en :: later, replayPos := keep.length + 1 }

/-! ### Causes (16 R331) -/

/-- What an open region does on a cause. -/
inductive RegionDo where
  | replay | abort | commit
  deriving DecidableEq, Repr

/-- The Region column of R331 for a precise cause. The engine-write codes 0x4F and 0x65 reach a group only by a merge of DSYNC that has failed, which traps (11 R237). -/
def causeRegion (c : Byte) : RegionDo :=
  let n := c.toNat
  if n = 0x12 || n = 0x13 || n = 0x16 || (0x18 ≤ n && n ≤ 0x1F) || (0x7F ≤ n && n ≤ 0x87) || n = 0xB2 then .commit
  else if (0x4C ≤ n && n ≤ 0x4E) || n = 0x64 || n = 0x6D || (0x90 ≤ n && n ≤ 0x9F) || n = 0xAD || n = 0xAF then
    .replay
  else .abort

/-- The grid is always reported: column G of R331. -/
def causeGrid (c : Byte) : Bool :=
  let n := c.toNat
  n = 0x16 || (0x30 ≤ n && n ≤ 0x3F) || n = 0x6A || (0xB4 ≤ n && n ≤ 0xB8) || (0xBB ≤ n && n ≤ 0xBF)

/-- The causes after which RESUME is the next word (16 R325). -/
def causeNext (c : Byte) : Bool :=
  let n := c.toNat
  (0x18 ≤ n && n ≤ 0x1F) || n = 0xB2 || n = 0x12 || n = 0x13

/-! ### Reporting the grid (16 R324, 22 R386) -/

/-- The trap frame (16 R325). -/
structure Frame where
  cause : Byte
  attr : Nat
  split : Nat
  seq : Nat
  fpc : Nat
  faddr : Nat
  lanes : Nat
  resume : Nat
  rpc : Nat
  origin : Nat
  detail : Nat
  deriving DecidableEq, Repr

/-- The 64 bytes of a frame. -/
def Frame.bytes (f : Frame) : List Byte :=
  [f.cause] ++ natLe f.attr 1 ++ natLe f.split 1 ++ [0] ++ natLe f.seq 4 ++ natLe f.fpc 8 ++ natLe f.faddr 8
    ++ natLe f.lanes 8 ++ natLe f.resume 8 ++ natLe f.rpc 8 ++ natLe f.origin 8 ++ natLe f.detail 8

/-- A frame that holds CAUSE alone (22 R386). -/
def Frame.only (c : Byte) : Frame := ⟨c, 0, 0, 0, 0, 0, 0, 0, 0, 0, 0⟩

/-- A frame that holds CAUSE and FADDR. -/
def Frame.at (c : Byte) (faddr : Nat) : Frame := { Frame.only c with faddr }

/-- Sends a message to the host. -/
def State.send (s : State) (m : HostOut) : State := { s with outbox := s.outbox ++ [m] }

/-- The fault message of a report (22 R386). -/
def faultMessage (ctx : Nat) (f : Frame) (core num team : Nat) : HostOut :=
  { opc := 0xFF, status := 0, seq := 0, ctx := BitVec.ofNat 32 ctx, cause := 0,
    payload := f.bytes ++ natLe core 4 ++ natLe num 4 ++ natLe team 4 }

/-- A response with STATUS 3 and a cause (22 R386). -/
def rejected (opc : Byte) (seq : BitVec 16) (ctx : Nat) (cause : Byte) : HostOut :=
  { opc := opc ||| 0x80, status := 3, seq, ctx := BitVec.ofNat 32 ctx, cause, payload := [] }

/-- The groups of a context leave the wait orders of the allowances: they issue no more (19 R361). -/
def State.leaveGroups (s : State) (ctx : Nat) : State :=
  s.leaveAll fun
    | .group k => s.groups.any fun e => e.1 = k && decide (e.2.ctx = ctx)
    | .push _ _ | .coll _ _ => false

/-- Reports the grid of a context (16 R324): one fault message for the first report; its groups stop. -/
def State.report (s : State) (ctx : Nat) (f : Frame) (core num team : Nat) : State :=
  match s.ctx? ctx with
  | none => s
  | some c =>
    if c.reported.isSome then s
    else
      let s := s.send (faultMessage ctx f core num team)
      let s := match c.preempting with
        | some q => s.send (rejected 0x06 q ctx f.cause)
        | none => s
      let s := (s.mapCtx ctx fun c => { c with reported := some f.cause, preempting := none }).leaveGroups ctx
      { s with groups := s.groups.map fun e =>
          if e.2.ctx = ctx && e.2.glint.isNone then (e.1, { e.2 with stopped := true }) else e }

/-- A report that concerns no single group. -/
def State.reportOnly (s : State) (ctx : Nat) (c : Byte) : State :=
  s.report ctx (Frame.only c) 0xFFFFFFFF 0xFFFFFFFF 0xFFFFFFFF

/-- Reports the grid with the frame of a group. -/
def State.reportGroup (s : State) (k : Nat) (g : Group) (f : Frame) : State :=
  let num := match s.team? g.team with
    | some t => t.num
    | none => 0xFFFFFFFF
  s.report g.ctx f (keyCore k) g.num num

/-! ### Taking a trap (16 R322 to R325) -/

/-- A trap that a word raises: the cause, FADDR, the lanes for which it held (none: the active lanes), DETAIL, and what clears it when the region replays. -/
structure TrapInfo where
  cause : Byte
  faddr : DWord
  lanes : Option Mask
  detail : DWord
  replay : Option ReplayCause
  deriving DecidableEq, Repr

/-- A trap with no address. -/
def trapOf (c : Nat) : TrapInfo := ⟨BitVec.ofNat 8 c, 0, none, 0, none⟩

/-- A trap with an address. -/
def trapAt (c : Nat) (faddr : Nat) : TrapInfo := ⟨BitVec.ofNat 8 c, BitVec.ofNat 64 faddr, none, 0, none⟩

/-- The trap of an access's fault. -/
def AccFault.trap (f : AccFault) (faddr : Nat) (lanes : Option Mask) : TrapInfo :=
  ⟨f.cause, BitVec.ofNat 64 faddr, lanes, 0, f.replay⟩

/-- The address of a group's trap frame. -/
def frameAddr (c : Context) (g : Group) : Nat := c.tfbase + 64 * g.pslot

/-- The word at HANDLER is a clause header. -/
def State.handlerOk (s : State) (core : Nat) (c : Context) : Bool :=
  if c.handler % 4 ≠ 0 || decide (2 ^ 56 ≤ c.handler) then false
  else
    match s.fetchWord core c c.handler with
    | .ok w => isHeaderWord w
    | .error _ => false

/-- HANDLER names a word that trap entry reads. -/
def Context.readsHandler (c : Context) : Bool := c.handler ≠ 0 && c.handler % 4 = 0 && decide (c.handler < 2 ^ 56)

/-- What trap entry waits for: the line of the frame or that of the handler's first word, while an engine owns it (10 R216). -/
def State.entryWait (s : State) (g : Group) : Option Hold :=
  match s.ctx? g.ctx with
  | none => none
  | some c =>
    match s.resolveScalar c (frameAddr c g) .store false with
    | .ok l => if s.isOwned l then some (.owned [l.own]) else if c.readsHandler then (s.fetchOwned c c.handler).map fun o => .owned [o] else none
    | .error _ => none

/-- Trap entry (16 R323) with a frame, or the report of the grid. `slot` is the split that ERET continues. -/
def State.enterTrap (s : State) (k slot : Nat) (f : Frame) : State :=
  match s.group? k with
  | none => s
  | some g =>
    match s.ctx? g.ctx with
    | none => s
    | some c =>
      if c.reported.isSome then s.mapGroup k fun g => { g with stopped := true }
      else if g.handler.isSome then s.reportGroup k g { f with attr := f.attr + 8 }
      else if causeGrid f.cause || c.handler = 0 || !s.handlerOk (keyCore k) c then s.reportGroup k g f
      else
        let va := frameAddr c g
        match s.resolveScalar c va .store false with
        | .error _ => s.reportGroup k g f
        | .ok l =>
          let d := s.doer k g
          let s := ((s.fetched (keyCore k) c c.handler).storeOrd d.core d.pair l (va % 128) f.bytes .rel .grp 0).leaveWaits (.group k)
          s.mapGroup k fun g =>
            { g with
              seq := g.seq + 1,
              handler := some {
                splits := g.splits, meet := g.meet, lastSplit := g.lastSplit, split := slot,
                frame := BitVec.ofNat 64 va, region := g.region, log := g.log, replayPos := g.replayPos,
                flags := g.pend.filterMap fun o => o.flag.map fun n => (o.id, n) },
              splits := [newSplit 0 (BitVec.ofNat 56 c.handler) g.allLanes none], meet := [], lastSplit := 3,
              region := none, buf := [], log := [], replayPos := 0, stepDue := none,
              pend := g.pend.map fun o => { o with flag := none } }

/-- The count that a trap entry of the group would give SEQ. -/
def Group.nextSeq (g : Group) : Nat := (g.seq + 1).toNat

/-- The register tiles of group k that issued operations have yet to read: the operation, the first of the 32 registers (13 R271). -/
def State.readsLeft (s : State) (k : Nat) : List (Nat × Nat) :=
  s.matOps.flatMap fun o =>
    if o.stepsDone then [] else (o.regReads.filter fun r => decide (r.key = k) && decide (o.step ≤ r.step)).map fun r => (o.id, r.first)

/-- Two states of a group differ in a register tile or in its sidecars. -/
def Group.tileDiffers (g h : Group) (first : Nat) : Bool :=
  let here (n : Nat) : Bool := decide (first ≤ n / 64) && decide (n / 64 < first + 32)
  decide (g.v.filter (fun e => here e.1) ≠ h.v.filter fun e => here e.1)
  || decide (g.side.filter (fun e => here e.1) ≠ h.side.filter fun e => here e.1)

/-- The issued operations that have yet to read a register which group k holds differently in `t`: the write is held until that read (13 R271). -/
def State.writeWaits (s t : State) (k : Nat) : List Nat :=
  match s.group? k, t.group? k with
  | some g, some h => ((s.readsLeft k).filter fun r => g.tileDiffers h r.2).map (·.1)
  | _, _ => []

/-- The delivery of the group's own accesses would write a register that the array has yet to read: it waits for that read (13 R271). -/
def State.finishWait (s : State) (k : Nat) (g : Group) : Option Hold :=
  match ((s.readsLeft k).filter fun r => g.tileDiffers g.finishThreads r.2).map (·.1) with
  | [] => none
  | ops => some (.regWrite ops)

/-- What a precise trap waits for before it is taken: earlier words that have not completed (16 R322), the atomics of a region that aborts (16 R318), what a commit waits for, and the frame's line. A glint waits for nothing. -/
def State.trapWait (s : State) (k : Nat) (cause : Byte) : Option Hold :=
  match s.group? k with
  | none => none
  | some g =>
    let frameWait : Option Hold := s.entryWait g
    if g.glint.isSome then none
    else
    match g.region with
    | none => if g.pend.any PendOp.sent then some .earlier else (s.finishWait k g).or frameWait
    | some r =>
      match causeRegion cause with
      | .commit =>
        if r.replaying then (s.finishWait k g).or frameWait
        else if !g.flagsClear then some .flagsClear
        else
          match s.commitWait k g with
          | some h => some h
          | none => (s.finishWait k g).or frameWait
      | .replay | .abort => if s.atomicsOut k then some .earlier else frameWait

/-- A cause that commits the region traps POISONED instead when a line that the commit would write is poisoned (16 R315). -/
def State.commitTrap (s : State) (g : Group) (t : TrapInfo) : TrapInfo :=
  match g.region with
  | none => t
  | some r =>
    if causeRegion t.cause = .commit && !r.replaying then
      match s.poisonedEntry g with
      | some b => trapAt 0x61 b.lineVa
      | none => t
    else t

/-- A precise trap at the word at `pc` of split `slot`, with the active lanes of its form: the region aborts, replays or commits, and the handler is entered or the grid reported. -/
def State.takeTrap (s : State) (k slot : Nat) (pc : Pc) (act : Mask) (t0 : TrapInfo) : State :=
  match s.group? k with
  | none => s
  | some g0 =>
    let t := s.commitTrap g0 t0
    let s := if t.cause = 0x64 then s.mirrorHint g0.ctx t.faddr.toNat else s
    let lanes := (t.lanes.getD act).toNat
    let base : Frame :=
      { cause := t.cause, attr := 1, split := slot, seq := g0.nextSeq, fpc := pc.toNat, faddr := t.faddr.toNat, lanes,
        resume := pc.toNat, rpc := 0, origin := 0, detail := t.detail.toNat }
    match g0.region with
    | none =>
      let s := s.mapGroup k Group.finishThreads
      let resume := if causeNext t.cause then (pc + 4).toNat else pc.toNat
      s.enterTrap k slot { base with resume }
    | some r =>
      match causeRegion t.cause with
      | .commit =>
        let s := s.mapGroup k Group.finishThreads
        let s := if r.replaying && r.rbeg = pc then
            s.mapGroup k fun g => { g with region := some { r with issued := 0, replaying := false } }
          else (s.commitRegion k).openRegion k slot pc r.mask
        let resume := if causeNext t.cause then (pc + 4).toNat else pc.toNat
        s.enterTrap k slot { base with attr := 7, rpc := pc.toNat, resume }
      | d =>
        let retry := match s.ctx? g0.ctx with
          | some c => c.rretry
          | none => 0
        let isRemote := 0x90 ≤ t.cause.toNat && t.cause.toNat ≤ 0x9F
        let replays := d = .replay && (!isRemote || (g0.remoteFails < retry && t.cause ≠ 0x9A))
        if replays then
          let s := s.abortRegion k (some (t.replay.getD .noCause))
          if isRemote then
            (s.mapGroup k fun g => { g with remoteFails := g.remoteFails + 1 }).countUp (coreDie (keyCore k)) 9
          else s
        else
          let s := s.abortRegion k none
          s.enterTrap k r.slot { base with attr := 3, rpc := r.rbeg.toNat, resume := r.rbeg.toNat }

/-- The slot of the split that issues next in slot order (07 R143). -/
def Group.nextSlot (g : Group) : Option Nat :=
  ([1, 2, 3, 4].map fun i => (g.lastSplit + i) % 4).find? fun j => (g.split? j).isSome

/-- Hands an imprecise trap to a group, to be taken at its next safe point (16 R322). -/
def State.raiseImprecise (s : State) (k : Nat) (t : Imprecise) : State :=
  s.mapGroup k fun g => { g with imprecise := g.imprecise ++ [t] }

/-- The word at the split's PC has begun and waits: the split is at no instruction boundary. -/
def Split.midWord (p : Split) : Bool :=
  match p.park with
  | .barrier _ | .convene | .word _ | .retry (.lanes _ _ _) => true
  | .running | .retry _ | .trapDue _ => false

/-- Some lanes of the ATOM or RED at the split's PC have acted and others have not (11 R227). -/
def Split.midLanes (p : Split) : Bool :=
  match p.park with
  | .retry (.lanes _ _ _) => true
  | _ => false

/-- The group stands at a safe point (16 R322): just after an RCOM or a SAFE, or outside a region with nothing outstanding; or it has ended. -/
def Group.atSafePoint (g : Group) : Bool :=
  g.splits.isEmpty ||
  (g.handler.isNone && !g.splits.any Split.midWord &&
    match g.region with
    | none => g.edge = .rcom || (g.pend.isEmpty && g.remote.isNone)
    | some r => g.edge = .safe && !r.replaying)

/-- The split's next issue is a trap, or its word's trap waits (16 R327). -/
def Split.trapping (p : Split) : Bool :=
  match p.park with
  | .trapDue _ | .retry (.trap _) => true
  | _ => false

/-- A precise trap of the group is due: it comes before an imprecise one and before pre-emption (16 R327). -/
def Group.preciseDue (g : Group) : Bool := g.stepDue.isSome || g.splits.any Split.trapping

/-- The group takes its oldest imprecise trap before it issues again (16 R322, R327, 17 R337). -/
def Group.impreciseDue (g : Group) : Bool :=
  g.imprecise ≠ [] && g.glint.isNone && !g.stopped && g.replay.isNone && !g.preciseDue && g.atSafePoint

/-- Delivers the group's oldest imprecise trap (16 R322, R323, R327). -/
def State.takeImprecise (s : State) (k : Nat) : State :=
  match s.group? k with
  | none => s
  | some g =>
    match g.imprecise with
    | [] => s
    | t :: rest =>
      let s := s.mapGroup k fun g => { g with imprecise := rest }
      let slot := g.nextSlot.getD 0
      let fpc := match g.split? slot with
        | some p => p.pc.toNat
        | none => t.origin.toNat
      let rpc := match g.region with
        | some r => r.rbeg.toNat
        | none => 0
      let f : Frame :=
        { cause := t.cause, attr := 2 * b2n g.region.isSome + 4 * b2n t.committed, split := 0xFF, seq := g.nextSeq,
          fpc, faddr := t.faddr.toNat, lanes := 0, resume := fpc, rpc, origin := t.origin.toNat, detail := t.detail.toNat }
      if g.splits.isEmpty then s.reportGroup k g f else s.enterTrap k slot f

/-- The handler's split is discarded, what the trap set aside is restored, and the split that trapped continues at RESUME (16 R326). A region that the handler has opened and left open is dropped with what it has buffered and logged, which the spec does not say (log entry 141). -/
def Group.returnTrap (g : Group) (a : SetAside) (resume : Pc) : Group :=
  let cut (p : Split) : Split :=
    if p.slot = a.split then
      { p with pc := resume, park := .running, stallUntil := 0 }
    else p
  { g with splits := a.splits.map cut, meet := a.meet, lastSplit := a.lastSplit, region := a.region, buf := [], log := a.log,
           replayPos := a.replayPos, handler := none,
           pend := g.pend.map fun o => if o.flag.isNone then { o with flag := alGet a.flags o.id } else o }

/-! ### Glints (12 R264) -/

/-- Records a failure of the operation that a glint belongs to and ends the burst. -/
def CopyOp.burstFailed (o : CopyOp) (burst : Nat) (cause : Byte) (va : DWord) (core : Nat) : CopyOp :=
  { o with failed := o.failed ++ [burst], fails := o.fails ++ [⟨cause, va, core⟩], glintFailed := true }

/-- Replaces an engine copy by `f` of it. -/
def State.mapCopy (s : State) (id : Nat) (f : CopyOp → CopyOp) : State :=
  { s with copies := s.copies.map fun o => if o.id = id then f o else o }

/-- A fatal trap of a glint: its effects are discarded, its BREAD learns the cause, it retires (12 R264). -/
def State.glintFatal (s : State) (k : Nat) (cause : Byte) : State :=
  match s.group? k with
  | none => s
  | some g =>
    match g.glint with
    | none => s
    | some x => (s.mapCopy x.op fun o => o.burstFailed x.burst cause x.va (keyCore k)).delGroup k

/-- A glint aborts: its burst returns to the return buffer with its log, until `hold` or `cause` has ended (12 R264). R261 gives the buffer 64 lines and R264 does not say what happens when it is full: here it then holds more, and takes no new line (log entry 136). -/
def State.glintAbort (s : State) (k : Nat) (hold : Option Hold) (cause : Option ReplayCause) : State :=
  match s.group? k with
  | none => s
  | some g =>
    match g.glint with
    | none => s
    | some x =>
      let b : Burst := { op := x.op, burst := x.burst, va := x.va, coords := x.coords, bytes := x.bytes, log := g.log, hold, cause }
      { s with bursts := s.bursts ++ [(keyCore k, b)] }.delGroup k

/-- A trap of an agent: a group's, or a glint's, which aborts on a memory-side page fault and is ended by every other (12 R264). -/
def State.agentTrap (s : State) (k slot : Nat) (pc : Pc) (act : Mask) (t : TrapInfo) : State :=
  match s.group? k with
  | none => s
  | some g =>
    if g.glint.isSome then
      if 0x4C ≤ t.cause.toNat && t.cause.toNat ≤ 0x4F then s.glintAbort k none (some (t.replay.getD .noCause))
      else s.glintFatal k t.cause
    else s.takeTrap k slot pc act t

end Sys2Proof.Machine
end

