-- ==== Sys2Proof/Machine/Operands.lean ====
section
/-! DEFINITION. How a word issues: its decode checks (05 R74), its hints and guard (05 R88 to R90, 04 R57), its completion flag (04 R64), the commit that a committing form makes first (10 R222), and what follows its effect. -/

namespace Sys2Proof.Machine

/-! ### Decode checks -/

/-- Forms that a glint may not execute, by the word alone (12 R263). -/
def Instr.glintBarred (i : Instr) : Bool :=
  match i with
  | .ldg _ _ _ | .ld _ _ _ _ _ | .ldw _ _ _ | .bld _ _ _ _ => true
  | .vectorMovs _ n => 9 ≤ n.toNat && n.toNat ≤ 12
  | .scalarMovs _ _ n => 9 ≤ n.toNat && n.toNat ≤ 12
  | .st _ _ r _ _ => r ≠ 0
  | .atom _ _ _ _ r => r ≠ 0
  | .red _ _ _ _ r => r ≠ 0
  | .fence _ _ _ _ | .waitge _ _ _ | .vpub _ _ | .dsync _ | .dsyncAll | .privaddr _ _ => true
  | .tbar _ | .conv _ | .disb | .barinit _ _ _ | .bararr _ _ | .barexp _ _ | .barwait _ _ | .bartest _ _ => true
  | .exit | .launch _ _ | .launchi _ _ | .spawn _ _ | .evpub _ _ | .evwait _ _ => true
  | .cpy _ _ _ _ | .cpym _ _ _ | .bread _ _ _ => true
  | .mzero _ | .mlda _ _ | .msta _ _ | .mloop _ _ _ | .mdist _ _ _ | .mtopk _ _ | .mepi _ _ | .mroute _ | .mfence _ | .mwait _ =>
    true
  | .rld _ _ _ _ | .rst _ _ _ _ | .ratom _ _ _ _ | .alwr _ _ | .balw _ _ _ | .coll _ _ | .cwait _ _ | .chunkinc _ _
  | .mighint _ => true
  | .rbeg _ | .rcom | .safe _ | .trap _ | .svc _ | .eret | .lsupd _ | .seedset _ | .clkrd _ _ | .halt _ | .bkpt _ | .flrd _
  | .flrdCnt _ _ | .wrs _ _ => true
  | _ => false

/-- The group is 16 lanes wide. -/
def Group.narrow (g : Group) : Bool := g.width = 16

/-- Step 2 of R74 beyond the word's own fields: a form that the agent may not issue, or a type pair that CVT has not (06 R117, 08 R171, 14 R288). -/
def unassignedFor (i : Instr) (g : Group) : Bool :=
  match i with
  | .gret => g.glint.isNone
  | .bpack _ _ _ | .bunpack _ _ _ => g.narrow
  | .cvt _ _ p q => !cvtPairOk p q
  | _ => false

/-- A type code of 0xE or 0xF of CVT, which is checked before step 2 of R74 (05 R80). -/
def typeReserved (i : Instr) : Bool :=
  match i with
  | .cvt _ _ p q => decide (14 ≤ p.toNat) || decide (14 ≤ q.toNat)
  | _ => false

/-- Reserved values of step 5 of R74 that depend on the group or on a hint: a lane number beyond the width (06 R123), a meet offset of 0 (08 R161), the upper bits of an IMM hint before RBEG and SAFE (17 R334), the rounding field of a MOD hint (02 R28, 06 R120). -/
def reservedFor (i : Instr) (g : Group) (h : Hints) : Option Nat :=
  let rounding : Option (BitVec 3) := h.mod.bind fun m => if m.rnden then some m.rm else none
  let immTop : Nat := match h.imm with
    | some x => x.toNat / 2 ^ 16
    | none => 0
  let mode : Option Nat :=
    match i with
    | .fsr _ _ _ _ => if rounding.isSome && rounding ≠ some 4 then some 0x05 else none
    | _ => if rounding = some 4 && !i.takesSrHint then some 0x05 else none
  let own : Option Nat :=
    match i with
    | .srd _ _ n | .swr _ _ n => if g.width ≤ n.toNat then some 0x04 else none
    | .brd _ _ _ m =>
      if m = 0 && (match h.imm with | some x => x.toNat / 2 ^ 11 = 0 | none => true) then some 0x04 else none
    | .rbeg _ | .safe _ => if immTop ≠ 0 then some 0x05 else none
    | _ => none
  match own with
  | some c => some c
  | none => mode

/-- A hint or a header that R89 refuses: a header while a SCHED, IMM or MOD hint is pending, a second hint of a kind. -/
def hintMisused (i : Instr) (h : Hints) : Bool :=
  match i with
  | .clh _ _ _ _ _ => h.sched.isSome || h.imm.isSome || h.mod.isSome
  | .hsched _ _ => h.sched.isSome
  | .himm _ => h.imm.isSome
  | .hmod _ _ _ _ _ _ _ => h.mod.isSome
  | _ => false

/-- A clause header. -/
def Instr.isHeader : Instr → Bool
  | .clh _ _ _ _ _ => true
  | _ => false

/-- A hint word, a clause header or NOP: a word that takes no hint. -/
def bindsNothing (i : Instr) : Bool :=
  i.isHint || (match i with | .nop | .clh _ _ _ _ _ => true | _ => false)

/-- The decode trap of a word in an agent with pending hints: the first that fails of CVT's type codes and steps 2 to 7 of R74. Within step 5 the word's own reserved code comes before what it cannot accept of a hint, an order the spec leaves open (log entry 140). -/
def decodeTrap (i : Instr) (g : Group) (h : Hints) : Option Nat :=
  if typeReserved i then some 0x04
  else if unassignedFor i g then some 0x01
  else if g.glint.isSome && Instr.glintBarred i then some 0x10
  else if !bindsNothing i && h.imm.isSome && !i.takesImm then some 0x03
  else
    match i.reservedCode with
    | some c => some c
    | none =>
      if hintMisused i h then some 0x03
      else
        match (if bindsNothing i then none else reservedFor i g h) with
        | some c => some c
        | none =>
          if i.operands.any (Opnd.misplaced g.narrow) then some 0x02
          else
            match i.operands.findSome? (if g.glint.isSome then Opnd.glintRange else Opnd.groupRange g.narrow g.regs) with
            | some c => some c
            | none => if i.beyondScalars then some 0x0B else none

/-! ### Issue -/

/-- Which lanes a form acts on and when it takes effect (08 R159): a lane form on its active lanes; a scalar-pipeline, split or group form once; BRD and BRK whatever the guard. -/
inductive FormKind where
  | lane | once | always
  deriving DecidableEq, Repr

/-- A form: its kind; for a long-latency operation, whether it writes a register; whether it commits an open region first. -/
structure Form where
  kind : FormKind
  long : Option Bool
  commits : Bool
  deriving DecidableEq, Repr

/-- A plain lane form and a plain scalar-pipeline form. -/
def Form.lanes : Form := ⟨.lane, none, false⟩
def Form.scalar : Form := ⟨.once, none, false⟩
/-- A lane form of long latency. -/
def Form.longLane (writes : Bool) : Form := ⟨.lane, some writes, false⟩
/-- A scalar-pipeline form that commits the region first. -/
def Form.committing : Form := ⟨.once, none, true⟩

/-- What a word sees as it issues: its agent, the group and the split, the active lanes, the hints bound to it, and whether the word is the re-issue of an aborted region's first (16 R318). -/
structure Env where
  k : Nat
  slot : Nat
  pc : Pc
  g : Group
  sp : Split
  act : Mask
  imm : Option (BitVec 21)
  mod : Option ModHint
  replay : Bool
  deriving DecidableEq, Repr

/-- What a word does: it completes and the PC advances; it transfers; it traps; it is not performed yet; it waits with its effect so far in place; it has placed its split itself. -/
inductive Res where
  | next (s : State)
  | goto (s : State) (target : Pc)
  | trap (t : TrapInfo)
  /-- It traps after effects that stand. -/
  | fail (s : State) (t : TrapInfo)
  | hold (h : Hold)
  | park (s : State) (p : Park)
  | placed (s : State)

/-- The lanes for which a predicate guard holds (04 R57). -/
def guardLanes (g : Group) (k : BitVec 5) (neg : Bool) : Mask :=
  if neg then ~~~(g.preg k.toNat) else g.preg k.toNat

/-- The lanes that satisfy the open window's guard. -/
def windowLanes (g : Group) (h : Hints) : Mask :=
  match h.window with
  | none => laneMask 64
  | some w => guardLanes g w.k w.g

/-- The hints after a word that takes them: SCHED, IMM and MOD are used up, an open window counts the word (05 R89, R90). -/
def Hints.used (h : Hints) : Hints :=
  { sched := .none, imm := .none, mod := .none,
    window := h.window.bind fun w => if w.left ≤ 1 then .none else some { w with left := w.left - 1 } }

/-- The split after a word: the PC advances (04 R68). -/
def Split.advance (p : Split) : Split :=
  { p with pc := p.pc + 4, hints := p.hints.used, wait := 0, starts := false, park := .running }

/-- The split after a taken transfer: its window closes (05 R90). -/
def Split.jump (p : Split) (target : Pc) : Split :=
  { p with pc := target, hints := Hints.none, wait := 0, starts := false, park := .running }

/-- The split after a word that stands before a hint's target: the hints stay. -/
def Split.stepHint (p : Split) (h : Hints) : Split :=
  { p with pc := p.pc + 4, hints := h, wait := 0, starts := false, park := .running }

/-- Replaces a split of an agent by `f` of it. -/
def State.mapSplit (s : State) (k slot : Nat) (f : Split → Split) : State := s.mapGroup k fun g => g.mapSplit slot f

/-- Makes a split wait with its word not performed; a glint never parks on a scratchpad line and aborts instead (12 R264). -/
def State.holdSplit (s : State) (k slot : Nat) (h : Hold) : State :=
  match s.group? k, h with
  | some g, .lines _ =>
    if g.glint.isSome then s.glintAbort k (some h) none else s.mapSplit k slot fun p => { p with park := .retry h }
  | _, _ => s.mapSplit k slot fun p => { p with park := .retry h }

/-- A word traps: at once, or once what the trap waits for has ended. A cause after which the next word continues has used its hints. -/
def State.wordTrap (s : State) (k slot : Nat) (pc : Pc) (act : Mask) (t : TrapInfo) : State :=
  match s.trapWait k t.cause with
  | some h => s.mapSplit k slot fun p => { p with park := .retry (.trap h) }
  | none =>
    let s := if causeNext t.cause then s.mapSplit k slot fun p => { p with hints := p.hints.used } else s
    s.agentTrap k slot pc act t

/-- What follows a word's effect. `s` is the state in which the word was performed. -/
def State.finish (s : State) (e : Env) : Res → State
  | .next s' => s'.mapSplit e.k e.slot Split.advance
  | .goto s' t => s'.mapSplit e.k e.slot fun p => p.jump t
  | .trap t => s.wordTrap e.k e.slot e.pc e.act t
  | .fail s' t => s'.wordTrap e.k e.slot e.pc e.act t
  | .hold h => s.holdSplit e.k e.slot h
  | .park s' p => s'.mapSplit e.k e.slot fun q => { q with park := p }
  | .placed s' => s'

/-- The completion flag that a long-latency operation counts on: flag A, or flag B by a MOD hint; none for 12 to 15 (04 R64, R66). -/
def Env.flag (e : Env) : Option Nat :=
  let n := if (e.mod.map ModHint.fb).getD false then e.sp.fb else e.sp.fa
  if n.toNat < 12 then some n.toNat else none

/-- The rounding of a form under its MOD hint (02 R28 to R30). -/
def Env.ctl (e : Env) : RndCtl :=
  match e.mod with
  | none => RndCtl.rne
  | some m => ⟨if m.rnden then m.rm else 0, 0, 32, m.sat, m.flush⟩

/-- SAT of the MOD hint. -/
def Env.sat (e : Env) : Bool := (e.mod.map ModHint.sat).getD false

/-- The cache policy of the MOD hint (05 R88). -/
def Env.cp (e : Env) : BitVec 2 := (e.mod.map ModHint.cp).getD 0

/-- The immediate field of n bits, widened by an IMM hint (05 R77). -/
def Env.imm? (e : Env) (n : Nat) (f : Nat) : Int :=
  match e.imm with
  | none => sext f n
  | some h => sext (h.toNat * 2 ^ n + f) (21 + n)

/-- The active lanes of the form in increasing order. -/
def Env.lanes (e : Env) : List Nat := lanesFrom e.act 0 e.g.width

/-- The commit that a committing form makes first in an open region (10 R222): the state after it, or what it waits for, or the trap of a poisoned line (16 R315). A word that is issued again in the region that it opened itself commits no more. -/
def State.commitFirst (s : State) (k slot : Nat) (pc : Pc) : Except (Hold ⊕ TrapInfo) State :=
  match s.group? k with
  | none => .ok s
  | some g =>
    match g.region with
    | none => .ok s
    | some r =>
      if g.glint.isSome then .ok s
      else if r.rbeg = pc && (r.replaying || (r.slot = slot && r.issued = 0)) then .ok s
      else if !g.flagsClear then .error (.inl .flagsClear)
      else
        match s.commitWait k g with
        | some h => .error (.inl h)
        | none =>
          match s.poisonedEntry g with
          | some b => .error (.inr (trapAt 0x61 b.lineVa))
          | none => .ok ((s.commitRegion k).openRegion k slot pc r.mask)

/-- The split at whose PC an aborted region is to be issued again. -/
def Group.replaysAt (g : Group) (slot : Nat) (pc : Pc) : Bool :=
  match g.region with
  | some r => r.replaying && r.rbeg = pc && r.slot = slot
  | none => false

/-- The group once the region's first word has been issued again: its count starts at 0 as it did then (16 R320). -/
def Group.replayed (g : Group) : Group :=
  { g with region := g.region.map fun r => { r with issued := 0, replaying := false } }

/-- The word takes effect (04 R57, 08 R159). -/
def takesEffect (fm : Form) (h : Hints) (act : Mask) : Bool :=
  match fm.kind with
  | .lane => act ≠ 0
  | .once => h.window.isNone || act ≠ 0
  | .always => true

/-- The environment of a word. -/
def envOf (k slot : Nat) (g : Group) (sp : Split) (replay : Bool) : Env :=
  { k, slot, pc := sp.pc, g, sp, act := sp.exec &&& windowLanes g sp.hints, imm := sp.hints.imm, mod := sp.hints.mod, replay }

/-- A group whose context is being pre-empted stops just after it has committed its open region (16 R328). -/
def State.stopsAfterCommit (s : State) (k : Nat) (g : Group) : Bool :=
  (s.group? k).isSome && g.region.isSome && g.glint.isNone && g.handler.isNone && ((s.ctx? g.ctx).bind Context.preempting).isSome

/-- The state that a word's effect leaves, where it has one. -/
def Res.state? : Res → Option State
  | .next s | .goto s _ | .fail s _ | .park s _ | .placed s => some s
  | .trap _ | .hold _ => none

/-- The word traps with none of its effect. -/
def Res.traps : Res → Bool
  | .trap _ => true
  | .next _ | .goto _ _ | .fail _ _ | .hold _ | .park _ _ | .placed _ => false

/-- What follows a word's effect, unless it would write a register that the array has yet to read. -/
def State.settleWord (s : State) (e : Env) (r : Res) : State :=
  match (r.state?.map fun t => s.writeWaits t e.k).getD [] with
  | [] => s.finish e r
  | ops => s.holdSplit e.k e.slot (.regWrite ops)

/-- Performs a word that has passed its decode: the flag, the commit, the body, and what follows. A trap of an aborted region's first word finds the region as it is to be replayed (16 R317, R318). -/
def performWord (fm : Form) (body : Env → State → Res) (s : State) (k slot : Nat) (g : Group) (sp : Split) : State :=
  let e := envOf k slot g sp (g.replaysAt slot sp.pc)
  if fm.long = some true && e.flag.isNone then s.wordTrap k slot sp.pc e.act (trapOf 0x03)
  else if e.replay && 65536 ≤ g.aborts then s.wordTrap k slot sp.pc e.act (trapOf 0xB4)
  else if !takesEffect fm sp.hints e.act then (if e.replay then s.mapGroup k Group.replayed else s).mapSplit k slot Split.advance
  else if fm.long.isSome && (e.flag.map fun n => decide (63 ≤ g.flagCount n)).getD false then
    s.holdSplit k slot (.flagFull (e.flag.getD 0))
  else
    match (if fm.commits then s.commitFirst k slot sp.pc else .ok s) with
    | .error (.inl h) => s.holdSplit k slot h
    | .error (.inr t) => s.wordTrap k slot sp.pc e.act t
    | .ok s1 =>
      let s2 := if e.replay then s1.mapGroup k Group.replayed else s1
      let e2 := match s2.group? k with
        | some g2 => { e with g := g2 }
        | none => e
      if fm.commits && s.stopsAfterCommit k g && !e.replay && !sp.midLanes then s2.holdSplit k slot .preempted
      else
        let r := body e2 s2
        (if r.traps then s1 else s2).settleWord e2 r

/-- Long-latency forms that use no field of a MOD hint (11 R235, R240). -/
def Instr.ignoresMod (i : Instr) : Bool :=
  match i with
  | .vpub _ _ | .atomDetFadd _ _ | .atomDetBfadd2 _ _ => true
  | _ => false

/-- The split without its MOD hint. -/
def Split.dropMod (p : Split) : Split := { p with hints := { p.hints with mod := none } }

/-- Forms that access memory, order accesses or stand for them: they wait until the effects handed over by the group's last commit have been performed (16 R315; 04 R63). -/
def Instr.waitsHanded (i : Instr) : Bool :=
  match i with
  | .ldg _ _ _ | .stg _ _ _ | .ld _ _ _ _ _ | .st _ _ _ _ _ | .lds _ _ _ | .sts _ _ _ | .ldw _ _ _ | .bld _ _ _ _ | .bst _ _ _ _ => true
  | .atom _ _ _ _ _ | .red _ _ _ _ _ | .atomDetFadd _ _ | .atomDetBfadd2 _ _ | .vpub _ _ | .dsync _ | .dsyncAll => true
  | .fence _ _ _ _ | .waitge _ _ _ | .pref _ _ | .evpub _ _ | .evwait _ _ | .launch _ _ | .launchi _ _ | .spawn _ _ | .exit => true
  | .tbar _ | .conv _ | .disb | .barinit _ _ _ | .bararr _ _ | .barexp _ _ | .barwait _ _ | .bartest _ _ => true
  | .cpy _ _ _ _ | .cpym _ _ _ | .bread _ _ _ => true
  | .mzero _ | .mlda _ _ | .msta _ _ | .mloop _ _ _ | .mdist _ _ _ | .mtopk _ _ | .mepi _ _ | .mroute _ | .mfence _ | .mwait _ => true
  | .rld _ _ _ _ | .rst _ _ _ _ | .ratom _ _ _ _ | .coll _ _ | .cwait _ _ | .chunkinc _ _ | .mighint _ => true
  | .rbeg _ | .rcom | .safe _ | .eret => true
  | _ => false

/-- Issues a word for the agent and split in focus (05 R74): its decode trap, or its effect. -/
def issueWord (i : Instr) (fm : Form) (body : Env → State → Res) (s : State) : Host.Outcome State Fault Refusal :=
  match s.focus with
  | none => .fault .noIssuer
  | some (k, slot) =>
    match s.group? k with
    | none => .fault .noIssuer
    | some g =>
      match g.split? slot with
      | none => .fault .noIssuer
      | some sp =>
        match decodeTrap i g sp.hints with
        | some c => .next (s.wordTrap k slot sp.pc (sp.exec &&& windowLanes g sp.hints) (trapOf c))
        | none =>
          if g.handing && Instr.waitsHanded i then .next (s.holdSplit k slot .handed)
          else .next (performWord fm body s k slot g (if Instr.ignoresMod i then sp.dropMod else sp))

/-- A word whose effect is on its group alone. -/
def groupWord (i : Instr) (fm : Form) (f : Env → Group) (s : State) : Host.Outcome State Fault Refusal :=
  issueWord i fm (fun e s => .next (s.putGroup e.k (f e))) s

/-! ### Results in registers -/

/-- Writes one 32-bit element in every active lane (06 R99); every source is read from the group as it stood. -/
def Env.mapLanes (e : Env) (d : Nat) (f : Nat → Word) : Group := e.lanes.foldl (fun g l => g.setV d l (f l)) e.g

/-- Writes one pair in every active lane. -/
def Env.mapPairs (e : Env) (d : Nat) (f : Nat → DWord) : Group := e.lanes.foldl (fun g l => g.setVPair d l (f l)) e.g

/-- Writes one element in every active lane and raises the flags of all of them (02 R27). -/
def Env.mapFlagged (e : Env) (d : Nat) (f : Nat → Word × BitVec 8) : Group :=
  e.lanes.foldl (fun g l => (g.setV d l (f l).1).raise (f l).2) e.g

/-- As mapFlagged, for pairs. -/
def Env.mapPairsFlagged (e : Env) (d : Nat) (f : Nat → DWord × BitVec 8) : Group :=
  e.lanes.foldl (fun g l => (g.setVPair d l (f l).1).raise (f l).2) e.g

/-- Writes one predicate bit in every active lane. -/
def Env.mapPred (e : Env) (d : Nat) (f : Nat → Bool) : Group :=
  let set := maskOf (e.lanes.filter f)
  let clr := maskOf (e.lanes.filter fun l => !f l)
  e.g.setP d ((e.g.preg d ||| set) &&& ~~~clr)

/-! ### Long-latency results -/

/-- Issues a long-latency operation of the group: it counts on its flag and its results are delivered when it completes (04 R64, R65; log entry 5). -/
def State.pendThread (s : State) (e : Env) (vals : SMap Word) (sides : SMap (BitVec 10)) (xflags : BitVec 8) : State :=
  let (id, s) := s.takeId
  s.mapGroup e.k fun g =>
    { g with pend := g.pend ++ [{ id, pc := e.pc, flag := e.flag, kind := .thread, vals, sides, xflags }] }

/-- The elements of register d in the lanes of a list. -/
def valuesOf (d : Nat) (f : Nat → Word) (ls : List Nat) : SMap Word := ls.foldl (fun m l => smIns m (d * 64 + l) (f l)) []

/-- The elements of the pair d. -/
def pairValuesOf (d : Nat) (f : Nat → DWord) (ls : List Nat) : SMap Word :=
  ls.foldl (fun m l => smIns (smIns m (d * 64 + l) (lo32 (f l))) ((d + 1) * 64 + l) (hi32 (f l))) []

/-! ### Transfers (04 R66, R68, 06 R124) -/

/-- The trap of a transfer to an address, none when it may be taken. -/
def State.landing (s : State) (core ctx target : Nat) : Option TrapInfo :=
  if target % 4 ≠ 0 then some (trapAt 0x40 target)
  else
    match s.ctx? ctx with
    | none => none
    | some c =>
      match s.fetchWord core c target with
      | .error f => some (f.trap target none)
      | .ok w => if isHeaderWord w then none else some (trapAt 0x0C target)

/-- What the read of a transfer's target waits for: an engine owns its line (10 R216). -/
def State.landWait (s : State) (ctx target : Nat) : Option Hold :=
  if target % 4 ≠ 0 then none
  else
    match s.ctx? ctx with
    | none => none
    | some c => (s.fetchOwned c target).map fun o => .owned [o]

/-- The state once a transfer has read the word at its target (09 R201). -/
def State.landed (s : State) (core ctx target : Nat) : State :=
  if target % 4 ≠ 0 then s
  else
    match s.ctx? ctx with
    | none => s
    | some c => s.fetched core c target

/-- Reads the word at a transfer's target (04 R68): it waits, it traps, or the transfer goes on. -/
def State.atTarget (s : State) (e : Env) (target : Pc) (go : State → Res) : Res :=
  match s.landWait e.g.ctx target.toNat with
  | some h => .hold h
  | none =>
    match s.landing (keyCore e.k) e.g.ctx target.toNat with
    | some t => .fail (s.landed (keyCore e.k) e.g.ctx target.toNat) t
    | none => go (s.landed (keyCore e.k) e.g.ctx target.toNat)

/-- An address some words from the word at `pc`, modulo 2^56. -/
def wordsFrom (pc : Pc) (off : Int) : Pc := BitVec.ofNat 56 (wrap 56 ((pc.toNat : Int) + 4 * off))

/-- Transfers to a target, or traps. -/
def State.transfer (s : State) (e : Env) (target : Pc) : Res :=
  s.atTarget e target fun s => .goto s target

end Sys2Proof.Machine
end

