-- ==== Sys2Proof/Machine/Issue.lean ====
section
/-! DEFINITION. Which agent of a quadrant issues, and which of its splits (07 R143, R148, R149); when a word that waits may issue again; waits on words of memory (09 R202). -/

namespace Sys2Proof.Machine

/-- The agent of a key. -/
def agentOf (k : Nat) : AgentRef := if keyIsGlint k then .glint (keyCore k) (k % 64 - 32) else .group (keyCore k) (k % 64)

/-! ### The matrix context of a group (13 R275, R284) -/

/-- The convened set that a group belongs to. -/
def State.setOf (s : State) (g : Group) : Option ConvSet :=
  match s.team? g.team with
  | some t => t.sets.find? fun c => c.members.contains g.num
  | none => none

/-- The matrix context that a group issues into: its set's, or its own. -/
def State.matOf (s : State) (g : Group) : MatCtx :=
  match s.setOf g with
  | some c => c.mat
  | none => g.mat

/-! ### Holds -/

/-- The state of the allowance of a class on a core (19 R359). -/
def Allowance.initial : Allowance := ⟨256, 64, 256⟩
def State.allowance (s : State) (core cls : Nat) : Allowance := smGet Allowance.initial s.allow (core * 64 + cls)

/-- The agents that wait on a class of a core, first to last (19 R361). -/
def State.waitersOf (s : State) (core cls : Nat) : List Waiter := smGet [] s.waiters (core * 64 + cls)

/-- A waiter may issue: nothing waits before it and VALUE covers its cost. -/
def State.mayIssue (s : State) (core cls cost : Nat) (w : Waiter) : Bool :=
  let front := match s.waitersOf core cls with
    | [] => true
    | x :: _ => decide (x = w)
  front && decide (cost ≤ (s.allowance core cls).value.toNat)

/-- Replaces an allowance register. -/
def State.setAllowance (s : State) (core cls : Nat) (a : Allowance) : State :=
  { s with allow := smPut Allowance.initial s.allow (core * 64 + cls) a }

/-- Debits the cost of an operation at its issue (19 R360). -/
def State.debit (s : State) (core cls cost : Nat) : State :=
  let a := s.allowance core cls
  s.setAllowance core cls { a with value := BitVec.ofNat 16 (a.value.toNat - cost) }

/-- Credits a cost back, never above CAP (19 R359, R360). -/
def State.credit (s : State) (core cls cost : Nat) : State :=
  let a := s.allowance core cls
  s.setAllowance core cls { a with value := BitVec.ofNat 16 (max a.value.toNat (min a.cap.toNat (a.value.toNat + cost))) }

/-- An agent begins to wait on a class, if it does not wait yet. -/
def State.enterWait (s : State) (core cls : Nat) (w : Waiter) : State :=
  let l := s.waitersOf core cls
  if l.contains w then s else { s with waiters := smPut [] s.waiters (core * 64 + cls) (l ++ [w]) }

/-- An agent leaves the wait order of a class. -/
def State.leaveWait (s : State) (core cls : Nat) (w : Waiter) : State :=
  { s with waiters := smPut [] s.waiters (core * 64 + cls) ((s.waitersOf core cls).filter fun x => x ≠ w) }

/-- The lowest up port among those that a routing entry permits (19 R348, R349). -/
def State.portFor (s : State) (route : Nat) : Option Nat :=
  (List.range 16).find? fun n => bit (bits route 32 16) n && s.isUp n

/-- The matrix contexts in which the group or a set that it was a member of has issued: its own, and those of its sets (10 R219). -/
def State.matsOf (s : State) (g : Group) : List MatCtx :=
  g.mat :: (((s.team? g.team).map Team.sets).getD []).filterMap fun c => if c.formed.contains g.num then some c.mat else none

/-- Every batch of a matrix context has completed, and no operation of it is queued. -/
def State.matDone (s : State) (m : MatCtx) : Bool := decide (m.complete = m.closed) && s.matOps.all fun o => decide (o.q ≠ m.id)

/-- The domains of a FENCE whose operations of the group have all ended: fabric, matrix, copy (10 R219). The matrix operations are those that it issued and those of its convened sets, past ones among them. -/
def State.domainsDone (s : State) (k : Nat) (g : Group) (m : BitVec 4) : Bool :=
  (!m.getLsbD 0 || (!s.fabricPending k g && g.pend.all fun o => match o.kind with | .coll _ => false | _ => true))
  && (!m.getLsbD 1 || (s.matsOf g).all s.matDone)
  && (!m.getLsbD 2 || g.pend.all fun o => match o.kind with | .engine _ => false | _ => true)

/-- What a word waited for has ended, and it may be issued again. A word whose lanes met several absent lines wakes once none of them is absent, where 09 R197 speaks of one line (log entry 122). -/
def State.holdDone (s : State) (k : Nat) (g : Group) : Hold → Bool
  | .lines ls => ls.all fun n => let x := smGet LineState.fresh s.lineState n; x.present || x.poisoned
  | .owned ls => ls.all fun l => (s.ownerOf l).isNone && !s.sliceKept l
  | .flagFull n => decide (g.flagCount n < 63)
  | .flagsClear => g.flagsClear
  | .quiet => g.pend.all fun o => match o.kind with | .engine _ => true | _ => false
  | .allDone => g.pend.isEmpty && s.matOps.all fun o => o.key ≠ k
  | .region => decide (s.commitWait k g ≠ some .region)
  | .domains m => s.domainsDone k g m
  | .batchRoom => let m := s.matOf g; decide (m.closed < m.complete + 16)
  | .batch n => decide (n < (s.matOf g).complete)
  | .regReads => let m := s.matOf g; s.matOps.all fun o => o.q ≠ m.id || o.stepsDone || (o.regsA.isEmpty && o.regsB.isEmpty)
  | .regWrite ops => (s.readsLeft k).all fun r => !ops.contains r.1
  | .collRoom id => g.pend.all fun o => o.kind ≠ .coll id
  | .coll id => s.collsDone.any fun c => c.id = id
  | .allowance cls cost => !(s.waitersOf (keyCore k) cls).contains (.group k) || s.mayIssue (keyCore k) cls cost (.group k)
  | .fabric | .fence => !s.fabricPending k g
  | .merge l => (s.ownerOf l).isNone && !s.sliceKept l
  | .page ia since =>
    (match s.translate ia with | .ok e => e.writable || !e.mirrored | .error f => decide (f ≠ .page))
    || decide (since + (s.ctxOf g).engwait ≤ s.nanos)
  | .detInFlight => match s.team? g.team with
    | some t => s.sliceReqs.all fun q => !(q.ctx = t.ctx && q.grid = t.grid)
    | none => true
  | .earlier => !(g.pend.any PendOp.sent) && !s.atomicsOut k
  | .handed => !g.handing
  | .preempted => (((s.ctx? g.ctx).bind Context.preempting)).isNone
  | .lanes all vals _ => (all.drop vals.length).all fun x => !s.entryOwned x.2 && !s.entryAbsent x.2
  | .trap h => s.holdDone k g h

/-! ### Ready splits, eligible agents -/

/-- A split can issue: it does not wait, its clause's wait is met, no SCHED stall is left (07 R143, R148), and no engine owns the line of its word (10 R216). -/
def State.splitReady (s : State) (k : Nat) (g : Group) (p : Split) : Bool :=
  let free := match p.park with
    | .running => true
    | .retry h => s.holdDone k g h
    | .trapDue c => (s.trapWait k c).isNone
    | .barrier _ | .convene | .word _ => false
  free && (List.range 12).all (fun n => !p.wait.getLsbD n || g.flagClear n) && decide (p.stallUntil ≤ s.cycles)
    && (s.fetchOwned (s.ctxOf g) p.pc.toNat).isNone

/-- The split whose next word waits on an allowance (19 R361). -/
def Group.allowanceSlot (g : Group) : Option Nat :=
  (g.splits.find? fun p => match p.park with
    | .retry (.allowance _ _) => true
    | _ => false).map Split.slot

/-- A hold that keeps the whole group from issuing, not one split: an absent line (07 R148, 09 R197), an allowance (19 R361), the room for a collective and CWAIT (20 R379, R380), MWAIT (13 R276), a FENCE (11 R239), a DSYNC (11 R238), a stop after a commit (16 R328), the later lanes of an ATOM or RED. -/
def Hold.wholeGroup : Hold → Bool
  | .lines _ | .allowance _ _ | .collRoom _ | .coll _ | .batch _ | .preempted | .domains _ | .fence | .detInFlight | .merge _ | .page _ _
  | .lanes _ _ _ => true
  | _ => false

/-- The split's wait parks its group: at a barrier, a CONV rendezvous, EVWAIT or WAITGE, or a hold of the whole group (07 R148; log entry 114). -/
def Split.parksGroup (p : Split) : Bool :=
  match p.park with
  | .barrier _ | .convene | .word _ => true
  | .retry h => h.wholeGroup
  | .running | .trapDue _ => false

/-- The split that keeps its whole group: nothing else of the group issues. -/
def Group.heldSlot (g : Group) : Option Nat := (g.splits.find? Split.parksGroup).map Split.slot

/-- The ready split that issues next: the next in slot order after the one that issued last (07 R143). -/
def State.readySlot (s : State) (k : Nat) (g : Group) : Option Nat :=
  let order := match g.heldSlot with
    | some j => [j]
    | none => [1, 2, 3, 4].map fun i => (g.lastSplit + i) % 4
  order.find? fun j =>
    match g.split? j with
    | some p => s.splitReady k g p
    | none => false

/-- A pass of the group's remote form can be sent: no acquire pass before it is unanswered, a release pass has nothing of the fabric before it, and its class allows it (19 R352, R361, 20 R375). -/
def State.passReady (s : State) (k : Nat) (g : Group) : Bool :=
  match g.remote with
  | none => false
  | some r =>
    match r.todo with
    | [] => false
    | (cost, q) :: _ =>
      r.waiting.isEmpty && (decide (q.ord.toNat < 2) || !s.passes.any fun p => p.key = k && p.failed.isNone)
        && s.mayIssue (keyCore k) q.pass cost (.group k)

/-- The SINGLE_STEP that a group is to take can be taken: the word that was stepped waits for nothing, and what the trap waits for has ended (17 R336). -/
def State.stepReady (s : State) (k : Nat) (g : Group) : Bool :=
  match g.stepDue with
  | some (slot, _, _) => !((g.split? slot).map Split.midWord).getD false && (s.trapWait k 0x13).isNone
  | none => false

/-- An agent may issue (07 R148). A group that is to stop ends a word whose lanes have begun to act (16 R324). -/
def State.eligible (s : State) (k : Nat) (g : Group) : Bool :=
  (!g.stopped || g.splits.any Split.midLanes) && g.replay.isNone && !g.impreciseDue
  && (match g.yielded with | some c => decide (c + 2 ≤ s.cycles) | none => true)
  && (if g.remote.isSome then s.passReady k g else if g.stepDue.isSome then s.stepReady k g else (s.readySlot k g).isSome)

/-- The class an agent competes in (07 R149): a glint in class 0, a group in its own, moved by a NUDGE for the target's issue. -/
def State.issueClass (s : State) (k : Nat) (g : Group) : Nat :=
  if g.glint.isSome || g.promoted then 0
  else
    let nudge := match (s.readySlot k g).bind g.split? with
      | some p => match p.hints.sched with
        | some (_, n) => n.toNat
        | none => 0
      | none => 0
    if nudge = 1 then g.pcls - 1 else if nudge = 2 then min 3 (g.pcls + 1) else g.pcls

/-- The state of a quadrant. -/
def Quadrant.idle : Quadrant := ⟨0, 0⟩
def State.quad (s : State) (core q : Nat) : Quadrant := smGet Quadrant.idle s.quads (core * 4 + q)

/-- One agent goes before another: class, then age, then greed, then the lower slot (07 R149). -/
def beforeBy (last : Nat) (a b : Nat × Nat × Nat) : Bool :=
  if a.2.1 ≠ b.2.1 then decide (a.2.1 < b.2.1)
  else if a.2.2 ≠ b.2.2 then decide (a.2.2 < b.2.2)
  else if b.1 = last then false
  else if a.1 = last then true
  else decide (a.1 < b.1)

/-- The agent that a quadrant issues from: key, class and ready time of the eligible agents compared. -/
def State.pickAgent (s : State) (core q : Nat) : Option Nat :=
  let cands := (s.groups.filter fun e => keyCore e.1 = core && keyQuad e.1 = q && s.eligible e.1 e.2).map
    fun e => (e.1, s.issueClass e.1 e.2, e.2.readyAt)
  match cands with
  | [] => none
  | c :: r => some (r.foldl (fun a b => if beforeBy (s.quad core q).last b a then b else a) c).1

/-- Marks an issue of an agent: its quadrant is taken for one cycle, for two by a 64-lane group (07 R131); it is the last that issued. A glint's ready time stays the cycle of its spawn (R149; log entry 115). -/
def State.markIssue (s : State) (core q k : Nat) (g : Group) : State :=
  { s with
    quads := smPut Quadrant.idle s.quads (core * 4 + q) ⟨s.cycles + (if g.width = 64 then 2 else 1), k⟩
    groups := s.groups.map fun e =>
      if e.1 = k then
        (e.1, { e.2 with readyAt := if g.glint.isSome then e.2.readyAt else s.cycles, eligible := some (s.cycles + 1), promoted := false,
                         yielded := none })
      else e }

/-- An agent has been eligible for 128 consecutive cycles without issuing (07 R149). -/
def Group.aged (g : Group) (now : Nat) : Bool :=
  match g.eligible with
  | some c => decide (c + 128 ≤ now)
  | none => false

/-- Ageing (07 R149): how long each agent has been eligible without a gap, and those that have reached class 0, which they keep until they issue. -/
def State.sweepAges (s : State) : State :=
  { s with groups := s.groups.map fun e =>
      if s.eligible e.1 e.2 then
        (e.1, { e.2 with eligible := some (e.2.eligible.getD s.cycles), promoted := e.2.promoted || e.2.aged s.cycles })
      else (e.1, { e.2 with eligible := none }) }

/-- Two splits of a group with one PC and one ENTRY (07 R138). -/
def Group.mergePair (g : Group) : Option (Nat × Nat) :=
  (g.splits.flatMap fun a => g.splits.filterMap fun b =>
    if a.slot < b.slot && a.pc = b.pc && a.entry = b.entry then some (a.slot, b.slot) else none).head?

/-- An entry of the meet stack. -/
def MeetEntry.none : MeetEntry := ⟨0, 0, 0, 0, 0, 0, .none⟩
def Group.entry? (g : Group) (e : Nat) : Option MeetEntry := alGet g.meet e

/-- The split stands at the meet PC of its entry (07 R137). -/
def Group.atMeet (g : Group) (p : Split) : Bool :=
  match p.entry.bind g.entry? with
  | some m => m.mpc = p.pc
  | none => false

/-- Counts a word that the group issues inside its region (16 R320), or a glint issues (12 R264); the group leaves the boundary it stood at. -/
def Group.countWord (g : Group) : Group :=
  { g with region := g.region.map fun r => { r with issued := r.issued + 1 }, edge := .none }

/-- The word of the split has been issued before and is only issued again. -/
def Split.again (p : Split) : Bool :=
  match p.park with
  | .retry _ | .trapDue _ => true
  | _ => false

/-- The limit of words that the agent may issue in its region has been reached. -/
def Group.overLimit (g : Group) : Bool :=
  match g.region with
  | some r => if g.glint.isSome then decide (128 ≤ r.issued) else decide (2048 ≤ r.issued)
  | none => false

/-- The split in focus has issued last; a yield of VER 00 takes effect unless its clause ignores it (05 R73, R87). -/
def State.noteIssue (s : State) (k slot : Nat) (asksYield : Bool) : State :=
  s.mapGroup k fun g =>
    let yields := asksYield && !((g.split? slot).map Split.noYield).getD false
    { g with lastSplit := slot, yielded := if yields then some s.cycles else g.yielded }

/-- The word that was issued under single stepping is to be followed by SINGLE_STEP (17 R336): it was performed, and the agent has taken no trap by it. Words of a handler and of a glint are followed by it too: there it reports the grid (16 R324) or ends the glint (12 R264; log entry 28). -/
def State.noteStep (s : State) (k slot : Nat) (pc : Pc) (act : Mask) (handling : Bool) : State :=
  match s.group? k with
  | none => s
  | some g =>
    match s.ctx? g.ctx with
    | none => s
    | some c =>
      let held := match g.split? slot with
        | some p => p.again
        | none => false
      if c.stepping && (handling || g.handler.isNone) && g.replay.isNone && !g.stopped && !held then
        s.mapGroup k fun g => { g with stepDue := some (slot, pc, act) }
      else s

/-! ### Waits on words of memory (09 R202, 08 R176) -/

/-- Completes the wait of a split whose word satisfies it: an acquire at the wait's scope, and the word at the PC is done. -/
def State.wakeWord (s : State) (k slot : Nat) (w : WordWait) : State :=
  match s.group? k with
  | none => s
  | some g =>
    let d := s.doer k g
    let s := if w.scope = .prom then s.promote w.line else s
    ((s.refresh d.core w.line).acquire d.core d.pair w.scope).mapSplit k slot Split.advance

/-- Re-evaluates waits that home slices hold: one wakes when its word satisfies it, or did after some write of the action (R202). A stopped group's wait is left to its resumption. -/
def State.sweepWords (s : State) : List (Nat × Nat × WordWait) → State
  | [] => { s with metWaits := [] }
  | (k, slot, w) :: r =>
    let met := decide (w.least.toNat ≤ s.wordAt k w) || s.metWaits.contains (k, slot)
    let s := if w.registered && met && !((s.group? k).map Group.stopped).getD true then s.wakeWord k slot w else s
    s.sweepWords r

end Sys2Proof.Machine
end

