-- ==== Sys2Proof/Machine/VecInt.lean ====
section
/-! DEFINITION. The vector integer, compare, select, logic, shift, bit-field and move instructions (06 R101 to R111). -/

namespace Sys2Proof.Machine

/-! ### Integer arithmetic -/

/-- Bits of an integer type fn: 00 .i32, 01 .n32, 10 .i64, 11 .n64 (R101). -/
def intBits (t : BitVec 2) : Nat := if t.toNat < 2 then 32 else 64
/-- The type is signed. -/
def intSigned (t : BitVec 2) : Bool := t.toNat % 2 = 0
/-- value(e, T) of R102. -/
def intValue (t : BitVec 2) (x : Nat) : Int := if intSigned t then sext x (intBits t) else (x % 2 ^ intBits t : Nat)

/-- The element or pair of a lane, as a natural number. -/
def Group.elem (g : Group) (wide : Bool) (r l : Nat) : Nat := if wide then (g.vpair r l).toNat else (g.vreg r l).toNat
/-- Writes an element or a pair. -/
def Group.setElem (g : Group) (wide : Bool) (r l x : Nat) : Group :=
  if wide then g.setVPair r l (BitVec.ofNat 64 x) else g.setV r l (BitVec.ofNat 32 x)

/-- A result narrowed to N bits: wrapped, or under saturation clamped with SAT raised (R102). -/
def intResult (t : BitVec 2) (sat : Bool) (r : Int) : Nat × BitVec 8 :=
  if sat then
    let c := clampInt (intSigned t) (intBits t) r
    (wrap (intBits t) c.1, flagIf c.2 fSAT)
  else (wrap (intBits t) r, 0)

/-- R102 in every active lane: `f` of the sources and the destination's prior value. -/
def intLanes (d a b : BitVec 7) (t : BitVec 2) (sat : Bool) (f : Int → Int → Int → Int) (e : Env) : Group :=
  let wide := 2 ≤ t.toNat
  e.lanes.foldl (fun g l =>
    let x := intValue t (e.g.elem wide a.toNat l)
    let y := intValue t (e.g.elem wide b.toNat l)
    let z := intValue t (e.g.elem wide d.toNat l)
    let r := intResult t (sat && e.sat) (f x y z)
    (g.setElem wide d.toNat l r.1).raise r.2) e.g

/-- IADD (R101). -/
def execIadd (d a b : BitVec 7) (t : BitVec 2) (s : State) : Host.Outcome State Fault Refusal :=
  groupWord (.iadd d a b t) .lanes (intLanes d a b t true fun x y _ => x + y) s

/-- ISUB (R101). -/
def execIsub (d a b : BitVec 7) (t : BitVec 2) (s : State) : Host.Outcome State Fault Refusal :=
  groupWord (.isub d a b t) .lanes (intLanes d a b t true fun x y _ => x - y) s

/-- IMUL (R101). -/
def execImul (d a b : BitVec 7) (t : BitVec 2) (s : State) : Host.Outcome State Fault Refusal :=
  groupWord (.imul d a b t) .lanes (intLanes d a b t true fun x y _ => x * y) s

/-- IMULH (R101): the high half of the exact product. -/
def execImulh (d a b : BitVec 7) (t : BitVec 2) (s : State) : Host.Outcome State Fault Refusal :=
  groupWord (.imulh d a b t) .lanes (intLanes d a b t false fun x y _ => (x * y).fdiv ((2 ^ intBits t : Nat) : Int)) s

/-- IMAD (R101). -/
def execImad (d a b : BitVec 7) (t : BitVec 2) (s : State) : Host.Outcome State Fault Refusal :=
  groupWord (.imad d a b t) .lanes (intLanes d a b t true fun x y z => x * y + z) s

/-- IMIN (R101). -/
def execImin (d a b : BitVec 7) (t : BitVec 2) (s : State) : Host.Outcome State Fault Refusal :=
  groupWord (.imin d a b t) .lanes (intLanes d a b t false fun x y _ => if y < x then y else x) s

/-- IMAX (R101). -/
def execImax (d a b : BitVec 7) (t : BitVec 2) (s : State) : Host.Outcome State Fault Refusal :=
  groupWord (.imax d a b t) .lanes (intLanes d a b t false fun x y _ => if x < y then y else x) s

/-- IABS (R103). -/
def execIabs (d a : BitVec 7) (t : BitVec 1) (s : State) : Host.Outcome State Fault Refusal :=
  groupWord (.iabs d a t) .lanes (intLanes d a a (if t = 0 then 0 else 2) true fun x _ _ => if x < 0 then -x else x) s

/-- INEG (R103). -/
def execIneg (d a : BitVec 7) (t : BitVec 1) (s : State) : Host.Outcome State Fault Refusal :=
  groupWord (.ineg d a t) .lanes (intLanes d a a (if t = 0 then 0 else 2) true fun x _ _ => -x) s

/-! ### Comparison and selection -/

/-- EQ, NE, LT, LE on integers (R104). -/
def intRel (r : BitVec 2) (x y : Int) : Bool :=
  if r = 0 then x = y else if r = 1 then x ≠ y else if r = 2 then x < y else x ≤ y

/-- ICMP (R104). -/
def execIcmp (d : BitVec 5) (a b : BitVec 7) (r t : BitVec 2) (s : State) : Host.Outcome State Fault Refusal :=
  groupWord (.icmp d a b r t) .lanes (fun e =>
    let wide := 2 ≤ t.toNat
    e.mapPred d.toNat fun l => intRel r (intValue t (e.g.elem wide a.toNat l)) (intValue t (e.g.elem wide b.toNat l))) s

/-- R106: a to d in the active lanes that the predicate selects. -/
def selLanes (d a : BitVec 7) (k : BitVec 5) (g : BitVec 1) (e : Env) : Group :=
  let pick := guardLanes e.g k (g = 1)
  (e.lanes.filter fun l => hasLane pick l).foldl (fun h l => h.setV d.toNat l (e.g.vreg a.toNat l)) e.g

/-- ISEL (R106). -/
def execIsel (d a : BitVec 7) (k : BitVec 5) (g : BitVec 1) (s : State) : Host.Outcome State Fault Refusal :=
  groupWord (.isel d a k g) .lanes (selLanes d a k g) s

/-- FSEL (R106). -/
def execFsel (d a : BitVec 7) (k : BitVec 5) (g : BitVec 1) (s : State) : Host.Outcome State Fault Refusal :=
  groupWord (.fsel d a k g) .lanes (selLanes d a k g) s

/-! ### Logic, shifts, bit counts (R107) -/

/-- A function of the elements of two registers in every active lane. -/
def binLanes (d a b : BitVec 7) (f : Word → Word → Word) (e : Env) : Group :=
  e.mapLanes d.toNat fun l => f (e.g.vreg a.toNat l) (e.g.vreg b.toNat l)

/-- A function of the elements of one register in every active lane. -/
def unLanes (d a : BitVec 7) (f : Word → Word) (e : Env) : Group :=
  e.mapLanes d.toNat fun l => f (e.g.vreg a.toNat l)

/-- The shift count: bits [4:0]. -/
def shiftCount (y : Word) : Nat := y.toNat % 32

/-- The set bits among the low n bits of a number. -/
def popCount : Nat → Nat → Nat
  | _, 0 => 0
  | x, n + 1 => x % 2 + popCount (x / 2) n

/-- The zero bits above the highest set bit of an n-bit number. -/
def leadingZeros : Nat → Nat → Nat
  | _, 0 => 0
  | x, n + 1 => if x / 2 ^ n % 2 = 1 then 0 else 1 + leadingZeros x n

/-- The low n bits of a number in reverse order. -/
def revBits : Nat → Nat → Nat
  | _, 0 => 0
  | x, n + 1 => x % 2 * 2 ^ n + revBits (x / 2) n

/-- AND (R107). -/
def execAnd (d a b : BitVec 7) (s : State) : Host.Outcome State Fault Refusal :=
  groupWord (.and d a b) .lanes (binLanes d a b fun x y => x &&& y) s

/-- OR (R107). -/
def execOr (d a b : BitVec 7) (s : State) : Host.Outcome State Fault Refusal :=
  groupWord (.or d a b) .lanes (binLanes d a b fun x y => x ||| y) s

/-- XOR (R107). -/
def execXor (d a b : BitVec 7) (s : State) : Host.Outcome State Fault Refusal :=
  groupWord (.xor d a b) .lanes (binLanes d a b fun x y => x ^^^ y) s

/-- ANDN (R107). -/
def execAndn (d a b : BitVec 7) (s : State) : Host.Outcome State Fault Refusal :=
  groupWord (.andn d a b) .lanes (binLanes d a b fun x y => x &&& ~~~y) s

/-- SHL (R107). -/
def execShl (d a b : BitVec 7) (s : State) : Host.Outcome State Fault Refusal :=
  groupWord (.shl d a b) .lanes (binLanes d a b fun x y => x <<< shiftCount y) s

/-- SHR (R107). -/
def execShr (d a b : BitVec 7) (s : State) : Host.Outcome State Fault Refusal :=
  groupWord (.shr d a b) .lanes (binLanes d a b fun x y => x >>> shiftCount y) s

/-- SAR (R107). -/
def execSar (d a b : BitVec 7) (s : State) : Host.Outcome State Fault Refusal :=
  groupWord (.sar d a b) .lanes (binLanes d a b fun x y => x.sshiftRight (shiftCount y)) s

/-- ROL (R107). -/
def execRol (d a b : BitVec 7) (s : State) : Host.Outcome State Fault Refusal :=
  groupWord (.rol d a b) .lanes (binLanes d a b fun x y => rotl32 x (shiftCount y)) s

/-- NOT (R107). -/
def execNot (d a : BitVec 7) (s : State) : Host.Outcome State Fault Refusal :=
  groupWord (.not d a) .lanes (unLanes d a fun x => ~~~x) s

/-- POPC (R107). -/
def execPopc (d a : BitVec 7) (s : State) : Host.Outcome State Fault Refusal :=
  groupWord (.popc d a) .lanes (unLanes d a fun x => BitVec.ofNat 32 (popCount x.toNat 32)) s

/-- CLZ (R107). -/
def execClz (d a : BitVec 7) (s : State) : Host.Outcome State Fault Refusal :=
  groupWord (.clz d a) .lanes (unLanes d a fun x => BitVec.ofNat 32 (leadingZeros x.toNat 32)) s

/-- BREV (R107). -/
def execBrev (d a : BitVec 7) (s : State) : Host.Outcome State Fault Refusal :=
  groupWord (.brev d a) .lanes (unLanes d a fun x => BitVec.ofNat 32 (revBits x.toNat 32)) s

/-! ### Bit fields (R108) -/

/-- pos and the effective length of a bit-field control. -/
def fieldOf (y : Word) : Nat × Nat :=
  let pos := y.toNat % 32
  (pos, min (bits y.toNat 8 6) (32 - pos))

/-- BFX (R108). -/
def execBfx (d a b : BitVec 7) (t : BitVec 1) (s : State) : Host.Outcome State Fault Refusal :=
  groupWord (.bfx d a b t) .lanes (binLanes d a b fun x y =>
    let (pos, len) := fieldOf y
    if len = 0 then 0 else narrow (t = 1) len (bits x.toNat pos len)) s

/-- BFI (R108). -/
def execBfi (d a b : BitVec 7) (s : State) : Host.Outcome State Fault Refusal :=
  groupWord (.bfi d a b) .lanes (fun e => e.mapLanes d.toNat fun l =>
    let (pos, len) := fieldOf (e.g.vreg b.toNat l)
    let old := (e.g.vreg d.toNat l).toNat
    BitVec.ofNat 32 (old - bits old pos len * 2 ^ pos + bits (e.g.vreg a.toNat l).toNat 0 len * 2 ^ pos)) s

/-! ### Moves and addresses (R109 to R111) -/

/-- MOV.b32 (R109). -/
def execMovB32 (d a : BitVec 7) (s : State) : Host.Outcome State Fault Refusal :=
  groupWord (.movB32 d a) .lanes (unLanes d a fun x => x) s

/-- MOV.b64 (R109). -/
def execMovB64 (d a : BitVec 7) (s : State) : Host.Outcome State Fault Refusal :=
  groupWord (.movB64 d a) .lanes (fun e => e.mapPairs d.toNat fun l => e.g.vpair a.toNat l) s

/-- MOVI (R109). -/
def execMovi (d : BitVec 7) (i : BitVec 16) (s : State) : Host.Outcome State Fault Refusal :=
  groupWord (.movi d i) .lanes (fun e => e.mapLanes d.toNat fun _ => BitVec.ofNat 32 (wrap 32 (e.imm? 16 i.toNat))) s

/-- MOV from a scalar register (R109). -/
def execBroadcastMov (d a : BitVec 7) (s : State) : Host.Outcome State Fault Refusal :=
  groupWord (.broadcastMov d a) .lanes (fun e => e.mapLanes d.toNat fun _ => e.g.sreg a.toNat) s

/-- The value of special register n at issue, in a lane (04 R58, 05 R86). -/
def State.special (s : State) (e : Env) (n lane : Nat) : DWord :=
  let core := keyCore e.k
  let team := s.team? e.g.team
  if n = 0x00 then BitVec.ofNat 64 lane
  else if n = 0x01 then BitVec.ofNat 64 e.g.num
  else if n = 0x02 then BitVec.ofNat 64 ((team.map Team.num).getD 0)
  else if n = 0x03 then BitVec.ofNat 64 ((team.map Team.grid).getD 0)
  else if n = 0x04 then BitVec.ofNat 64 core
  else if n = 0x05 then BitVec.ofNat 64 (coreDie core)
  else if n = 0x06 then BitVec.ofNat 64 s.devno.toNat
  else if n = 0x07 then e.sp.exec
  else if n = 0x08 then e.g.seed
  else if n = 0x09 then BitVec.ofNat 64 (lsWord e.g.lscale).toNat
  else if n = 0x0A then BitVec.ofNat 64 (lsWord e.g.lsmin).toNat
  else if n = 0x0B then BitVec.ofNat 64 (lsWord e.g.lsmax).toNat
  else if n = 0x0C then BitVec.ofNat 64 e.g.lscleanWord.toNat
  else if n = 0x0D then BitVec.ofNat 64 e.g.xflags.toNat
  else if n = 0x0E then BitVec.ofNat 64 s.cycles
  else if n = 0x0F then BitVec.ofNat 64 s.nanos
  else BitVec.ofNat 64 e.g.ctx

/-- MOVS into a vector register (R110): every active lane receives the value. -/
def execVectorMovs (d : BitVec 7) (n : BitVec 5) (s : State) : Host.Outcome State Fault Refusal :=
  issueWord (.vectorMovs d n) .lanes (fun e s =>
    .next (s.putGroup e.k
      (if isWide n then e.mapPairs d.toNat fun l => s.special e n.toNat l
       else e.mapLanes d.toNat fun l => lo32 (s.special e n.toNat l)))) s

/-- MOVS into a scalar register or pair (R110). -/
def execScalarMovs (d a : BitVec 7) (n : BitVec 5) (s : State) : Host.Outcome State Fault Refusal :=
  issueWord (.scalarMovs d a n) .scalar (fun e s =>
    let x := s.special e n.toNat 0
    .next (s.putGroup e.k (if isWide n then e.g.setSPair d.toNat x else e.g.setS d.toNat (lo32 x)))) s

/-- LEA (R111). -/
def execLea (d a b : BitVec 7) (k : BitVec 2) (s : State) : Host.Outcome State Fault Refusal :=
  groupWord (.lea d a b k) .lanes (fun e => e.mapPairs d.toNat fun l =>
    BitVec.ofNat 64 (wrap 64 (((e.g.vpair a.toNat l).toNat : Int) + sext (e.g.vreg b.toNat l).toNat 32 * ((2 ^ k.toNat : Nat) : Int)))) s

/-- AADD (R111). -/
def execAadd (d a : BitVec 7) (i : BitVec 9) (s : State) : Host.Outcome State Fault Refusal :=
  groupWord (.aadd d a i) .lanes (fun e => e.mapPairs d.toNat fun l =>
    BitVec.ofNat 64 (wrap 64 (((e.g.vpair a.toNat l).toNat : Int) + e.imm? 9 i.toNat))) s

end Sys2Proof.Machine
end

