-- ==== Sys2Proof/Machine/VecFloat.lean ====
section
/-! DEFINITION. The vector floating-point, special-function, packed, conversion and random-word instructions (06 R105, R112 to R120). -/

namespace Sys2Proof.Machine

/-- A float result as a register element with its flags. -/
def FRes.word (r : FRes) : Word × BitVec 8 := (BitVec.ofNat 32 r.bits, r.flags)

/-- A float operation of the elements of two registers and the destination's prior element. -/
def floatLanes (d a b : BitVec 7) (f : RndCtl → Nat → Nat → Nat → FRes) (e : Env) : Group :=
  e.mapFlagged d.toNat fun l =>
    (f e.ctl (e.g.vreg a.toNat l).toNat (e.g.vreg b.toNat l).toNat (e.g.vreg d.toNat l).toNat).word

/-- FADD (R112). -/
def execFadd (d a b : BitVec 7) (s : State) : Host.Outcome State Fault Refusal :=
  groupWord (.fadd d a b) .lanes (floatLanes d a b fun c x y _ => fpAdd .f32 c x y) s

/-- FSUB (R112). -/
def execFsub (d a b : BitVec 7) (s : State) : Host.Outcome State Fault Refusal :=
  groupWord (.fsub d a b) .lanes (floatLanes d a b fun c x y _ => fpSub .f32 c x y) s

/-- FMUL (R112). -/
def execFmul (d a b : BitVec 7) (s : State) : Host.Outcome State Fault Refusal :=
  groupWord (.fmul d a b) .lanes (floatLanes d a b fun c x y _ => fpMul .f32 c x y) s

/-- FFMA (R112): a × b + d, rounded once. -/
def execFfma (d a b : BitVec 7) (s : State) : Host.Outcome State Fault Refusal :=
  groupWord (.ffma d a b) .lanes (floatLanes d a b fun c x y z => fpFma .f32 c x y z) s

/-- FMIN (R112): minimumNumber. -/
def execFmin (d a b : BitVec 7) (s : State) : Host.Outcome State Fault Refusal :=
  groupWord (.fmin d a b) .lanes (floatLanes d a b fun c x y _ => fpMin .f32 c x y) s

/-- FMAX (R112): maximumNumber. -/
def execFmax (d a b : BitVec 7) (s : State) : Host.Outcome State Fault Refusal :=
  groupWord (.fmax d a b) .lanes (floatLanes d a b fun c x y _ => fpMax .f32 c x y) s

/-- FCMP (R105): the predicate of each active lane, with NV by R26. -/
def execFcmp (d : BitVec 5) (a b : BitVec 7) (r : BitVec 3) (s : State) : Host.Outcome State Fault Refusal :=
  groupWord (.fcmp d a b r) .lanes (fun e =>
    let cmp l := flRel r.toNat (operand .f32 e.ctl (e.g.vreg a.toNat l).toNat) (operand .f32 e.ctl (e.g.vreg b.toNat l).toNat)
    (e.mapPred d.toNat fun l => (cmp l).1).raise (flagIf (e.lanes.any fun l => (cmp l).2) (fNV ||| fSTEPOVF))) s

/-- FABS (R112): the sign bit cleared. -/
def execFabs (d a : BitVec 7) (s : State) : Host.Outcome State Fault Refusal :=
  groupWord (.fabs d a) .lanes (unLanes d a fun x => x &&& 0x7FFFFFFF) s

/-- FNEG (R112): the sign bit inverted. -/
def execFneg (d a : BitVec 7) (s : State) : Host.Outcome State Fault Refusal :=
  groupWord (.fneg d a) .lanes (unLanes d a fun x => x ^^^ 0x80000000) s

/-! ### Special functions (R113 to R115) -/

/-- A special function of long latency: its results and flags are delivered when it completes. -/
def specialBody (fn : SpecialFn) (d a : BitVec 7) (e : Env) (s : State) : Res :=
  let r l := fpSpecial fn e.ctl (e.g.vreg a.toNat l).toNat
  .next (s.pendThread e (valuesOf d.toNat (fun l => BitVec.ofNat 32 (r l).bits) e.lanes) []
    (e.lanes.foldl (fun f l => f ||| (r l).flags) 0))

/-- FRCP. -/
def execFrcp (d a : BitVec 7) (s : State) : Host.Outcome State Fault Refusal :=
  issueWord (.frcp d a) (.longLane true) (specialBody .rcp d a) s

/-- FRSQ. -/
def execFrsq (d a : BitVec 7) (s : State) : Host.Outcome State Fault Refusal :=
  issueWord (.frsq d a) (.longLane true) (specialBody .rsq d a) s

/-- FSQRT. -/
def execFsqrt (d a : BitVec 7) (s : State) : Host.Outcome State Fault Refusal :=
  issueWord (.fsqrt d a) (.longLane true) (specialBody .sqrt d a) s

/-- FEXP2. -/
def execFexp2 (d a : BitVec 7) (s : State) : Host.Outcome State Fault Refusal :=
  issueWord (.fexp2 d a) (.longLane true) (specialBody .exp2 d a) s

/-- FLOG2. -/
def execFlog2 (d a : BitVec 7) (s : State) : Host.Outcome State Fault Refusal :=
  issueWord (.flog2 d a) (.longLane true) (specialBody .log2 d a) s

/-- FSIN. -/
def execFsin (d a : BitVec 7) (s : State) : Host.Outcome State Fault Refusal :=
  issueWord (.fsin d a) (.longLane true) (specialBody .sin d a) s

/-- FCOS. -/
def execFcos (d a : BitVec 7) (s : State) : Host.Outcome State Fault Refusal :=
  issueWord (.fcos d a) (.longLane true) (specialBody .cos d a) s

/-! ### Packed 16-bit arithmetic (R116) -/

/-- The format of a packed form: 0 FP16, 1 BF16. -/
def packedFmt (t : BitVec 1) : Fmt := if t = 0 then .f16 else .bf16

/-- An operation on both 16-bit elements of every active lane. -/
def packedLanes (d a b : BitVec 7) (f : Nat → Nat → Nat → FRes) (e : Env) : Group :=
  e.mapFlagged d.toNat fun l =>
    let x := (e.g.vreg a.toNat l).toNat
    let y := (e.g.vreg b.toNat l).toNat
    let z := (e.g.vreg d.toNat l).toNat
    let lo := f (x % 65536) (y % 65536) (z % 65536)
    let hi := f (x / 65536) (y / 65536) (z / 65536)
    (BitVec.ofNat 32 (lo.bits + 65536 * hi.bits), lo.flags ||| hi.flags)

/-- HADD2. -/
def execHadd2 (t : BitVec 1) (d a b : BitVec 7) (s : State) : Host.Outcome State Fault Refusal :=
  groupWord (.hadd2 t d a b) .lanes (fun e => packedLanes d a b (fun x y _ => fpAdd (packedFmt t) e.ctl x y) e) s

/-- HMUL2. -/
def execHmul2 (t : BitVec 1) (d a b : BitVec 7) (s : State) : Host.Outcome State Fault Refusal :=
  groupWord (.hmul2 t d a b) .lanes (fun e => packedLanes d a b (fun x y _ => fpMul (packedFmt t) e.ctl x y) e) s

/-- HFMA2. -/
def execHfma2 (t : BitVec 1) (d a b : BitVec 7) (s : State) : Host.Outcome State Fault Refusal :=
  groupWord (.hfma2 t d a b) .lanes (fun e => packedLanes d a b (fun x y z => fpFma (packedFmt t) e.ctl x y z) e) s

/-- HMIN2. -/
def execHmin2 (t : BitVec 1) (d a b : BitVec 7) (s : State) : Host.Outcome State Fault Refusal :=
  groupWord (.hmin2 t d a b) .lanes (fun e => packedLanes d a b (fun x y _ => fpMin (packedFmt t) e.ctl x y) e) s

/-- HMAX2. -/
def execHmax2 (d a b : BitVec 7) (t : BitVec 1) (s : State) : Host.Outcome State Fault Refusal :=
  groupWord (.hmax2 d a b t) .lanes (fun e => packedLanes d a b (fun x y _ => fpMax (packedFmt t) e.ctl x y) e) s

/-! ### Conversions (R117, R118) -/

/-- An integer type code: signedness and bits (02 R21). -/
def intType (t : Nat) : Option (Bool × Nat) :=
  if t < 4 then some (true, 8 * 2 ^ t) else if t < 8 then some (false, 8 * 2 ^ (t - 4)) else none

/-- The format of a float type code: 8 .bf16, 9 .f16, 10 .f32, 11 .f64 (02 R21). -/
def floatType (t : Nat) : Fmt := if t = 8 then .bf16 else if t = 9 then .f16 else if t = 10 then .f32 else .f64

/-- The bits of an integer result as they are written: a narrow one extended to 32 bits (02 R22). -/
def writtenInt (signed : Bool) (n : Nat) (x : Nat) : Nat := if n < 32 then (narrow signed n x).toNat else x % 2 ^ n

/-- A conversion to type p from type q (R118): the element or pair written, and the flags. -/
def convert (p q : Nat) (c : RndCtl) (x : Nat) : Nat × BitVec 8 :=
  match intType q, intType p with
  | some (sq, nq), some (sp, np) =>
    let v : Int := if sq then sext x nq else (x % 2 ^ nq : Nat)
    if c.sat then
      let r := clampInt sp np v
      (writtenInt sp np (wrap np r.1), flagIf r.2 fSAT)
    else (writtenInt sp np (wrap np v), 0)
  | some (sq, nq), none =>
    let r := intToFloat (floatType p) c (if sq then sext x nq else (x % 2 ^ nq : Nat))
    (r.bits, r.flags)
  | none, some (sp, np) =>
    let v := operand (floatType q) c (x % 2 ^ (floatType q).width)
    let r := floatToInt sp np c v
    let fl := r.2 ||| flagIf v.isSnan fNV
    (writtenInt sp np (wrap np r.1), fl ||| flagIf (fl &&& fNV ≠ 0) fSTEPOVF)
  | none, none =>
    let v := operand (floatType q) c (x % 2 ^ (floatType q).width)
    let r := deliver (floatType p) c (v, v.isSnan)
    (r.bits, r.flags)

/-- CVT (R117): the vector form, or the scalar form when one of the types is .f64. -/
def execCvt (d a : BitVec 7) (p q : BitVec 4) (s : State) : Host.Outcome State Fault Refusal :=
  if p = 11 || q = 11 then
    groupWord (.cvt d a p q) .scalar (fun e =>
      let x := if isType64 q then (e.g.spair a.toNat).toNat else (e.g.sreg a.toNat).toNat
      let r := convert p.toNat q.toNat e.ctl x
      (if isType64 p then e.g.setSPair d.toNat (BitVec.ofNat 64 r.1) else e.g.setS d.toNat (BitVec.ofNat 32 r.1)).raise r.2) s
  else
    groupWord (.cvt d a p q) .lanes (fun e => e.lanes.foldl (fun g l =>
      let r := convert p.toNat q.toNat e.ctl (e.g.elem (isType64 q) a.toNat l)
      (g.setElem (isType64 p) d.toNat l r.1).raise r.2) e.g) s

/-! ### Random words (R119, R120) -/

/-- FLICK (R119). -/
def execFlick (d a b : BitVec 7) (s : State) : Host.Outcome State Fault Refusal :=
  groupWord (.flick d a b) .lanes (fun e => e.mapLanes d.toNat fun l =>
    flicker e.g.seed (e.g.sreg b.toNat) (e.g.vpair a.toNat l)) s

/-- The type code that FSR's fn selects: .bf16, .f16, .i8, .i16. -/
def fsrType (t : BitVec 2) : Nat := if t = 0 then 8 else if t = 1 then 9 else if t = 2 then 0 else 1

/-- FSR (R120): conversion of FP32 by stochastic rounding. -/
def execFsr (d a b : BitVec 7) (t : BitVec 2) (s : State) : Host.Outcome State Fault Refusal :=
  groupWord (.fsr d a b t) .lanes (fun e =>
    let w := (e.g.sreg (b.toNat + 1)).toNat % 32 + 1
    e.mapFlagged d.toNat fun l =>
      let word := flicker e.g.seed (e.g.sreg b.toNat) (e.g.vpair a.toNat l)
      let r := convert (fsrType t) 10 { e.ctl with mode := 4, word, w } (e.g.vreg d.toNat l).toNat
      (BitVec.ofNat 32 r.1, r.2)) s

end Sys2Proof.Machine
end

