-- ==== Sys2Proof/Machine/Scalar.lean ====
section
/-! DEFINITION. The scalar arithmetic, compare, move and lane-move instructions, hints, clause headers and uniform transfers (06 R121 to R125, 05 R87 to R90). -/

namespace Sys2Proof.Machine

/-! ### Scalar arithmetic (06 R121, R122) -/

/-- A scalar operand, 64 bits wide for .i64 and .f64. -/
def Group.scalar (g : Group) (wide : Bool) (r : Nat) : Nat := if wide then (g.spair r).toNat else (g.sreg r).toNat
/-- Writes a scalar register or pair. -/
def Group.setScalar (g : Group) (wide : Bool) (r x : Nat) : Group :=
  if wide then g.setSPair r (BitVec.ofNat 64 x) else g.setS r (BitVec.ofNat 32 x)

/-- SADD, SSUB and SMUL by type: 00 .i32, 01 .i64, 10 .f32, 11 .f64. -/
def scalarArith (d a b : BitVec 7) (t : BitVec 2) (f : Int → Int → Int) (h : Fmt → RndCtl → Nat → Nat → FRes) (e : Env) : Group :=
  let wide := t.toNat % 2 = 1
  let x := e.g.scalar wide a.toNat
  let y := e.g.scalar wide b.toNat
  if t.toNat < 2 then
    let it : BitVec 2 := if wide then 2 else 0
    let r := intResult it e.sat (f (intValue it x) (intValue it y))
    (e.g.setScalar wide d.toNat r.1).raise r.2
  else
    let r := h (if wide then .f64 else .f32) e.ctl x y
    (e.g.setScalar wide d.toNat r.bits).raise r.flags

/-- SADD. -/
def execSadd (d a b : BitVec 7) (t : BitVec 2) (s : State) : Host.Outcome State Fault Refusal :=
  groupWord (.sadd d a b t) .scalar (scalarArith d a b t (fun x y => x + y) fpAdd) s

/-- SSUB. -/
def execSsub (d a b : BitVec 7) (t : BitVec 2) (s : State) : Host.Outcome State Fault Refusal :=
  groupWord (.ssub d a b t) .scalar (scalarArith d a b t (fun x y => x - y) fpSub) s

/-- SMUL. -/
def execSmul (d a b : BitVec 7) (t : BitVec 2) (s : State) : Host.Outcome State Fault Refusal :=
  groupWord (.smul d a b t) .scalar (scalarArith d a b t (fun x y => x * y) fpMul) s

/-- A function of two scalar registers. -/
def binScalar (d a b : BitVec 7) (f : Word → Word → Word) (e : Env) : Group :=
  e.g.setS d.toNat (f (e.g.sreg a.toNat) (e.g.sreg b.toNat))

/-- SAND. -/
def execSand (d a b : BitVec 7) (s : State) : Host.Outcome State Fault Refusal :=
  groupWord (.sand d a b) .scalar (binScalar d a b fun x y => x &&& y) s

/-- SOR. -/
def execSor (d a b : BitVec 7) (s : State) : Host.Outcome State Fault Refusal :=
  groupWord (.sor d a b) .scalar (binScalar d a b fun x y => x ||| y) s

/-- SXOR. -/
def execSxor (d a b : BitVec 7) (s : State) : Host.Outcome State Fault Refusal :=
  groupWord (.sxor d a b) .scalar (binScalar d a b fun x y => x ^^^ y) s

/-- SSHL. -/
def execSshl (d a b : BitVec 7) (s : State) : Host.Outcome State Fault Refusal :=
  groupWord (.sshl d a b) .scalar (binScalar d a b fun x y => x <<< shiftCount y) s

/-- SSHR. -/
def execSshr (d a b : BitVec 7) (s : State) : Host.Outcome State Fault Refusal :=
  groupWord (.sshr d a b) .scalar (binScalar d a b fun x y => x >>> shiftCount y) s

/-- SCMP (R122): .i32, .n32, .f32 or .f64. -/
def execScmp (d : BitVec 5) (a b : BitVec 7) (r t : BitVec 2) (s : State) : Host.Outcome State Fault Refusal :=
  groupWord (.scmp d a b r t) .scalar (fun e =>
    let wide := t = 3
    let x := e.g.scalar wide a.toNat
    let y := e.g.scalar wide b.toNat
    if t.toNat < 2 then e.g.setS d.toNat (BitVec.ofNat 32 (b2n (intRel r (intValue t x) (intValue t y))))
    else
      let f : Fmt := if wide then .f64 else .f32
      let c := flRel r.toNat (operand f e.ctl x) (operand f e.ctl y)
      (e.g.setS d.toNat (BitVec.ofNat 32 (b2n c.1))).raise (flagIf c.2 (fNV ||| fSTEPOVF))) s

/-- SMOV of an immediate (R121). -/
def execSmovImmediate (d : BitVec 7) (i : BitVec 16) (s : State) : Host.Outcome State Fault Refusal :=
  groupWord (.smovImmediate d i) .scalar (fun e => e.g.setS d.toNat (BitVec.ofNat 32 (wrap 32 (e.imm? 16 i.toNat)))) s

/-- SMOV of a register (R121). -/
def execSmov (d a : BitVec 7) (s : State) : Host.Outcome State Fault Refusal :=
  groupWord (.smov d a) .scalar (fun e => e.g.setS d.toNat (e.g.sreg a.toNat)) s

/-- SRD (R123): lane n whether or not it is active. -/
def execSrd (d a : BitVec 7) (n : BitVec 6) (s : State) : Host.Outcome State Fault Refusal :=
  groupWord (.srd d a n) .scalar (fun e => e.g.setS d.toNat (e.g.vreg a.toNat n.toNat)) s

/-- SWR (R123): lane n when it is in %exec. -/
def execSwr (d a : BitVec 7) (n : BitVec 6) (s : State) : Host.Outcome State Fault Refusal :=
  groupWord (.swr d a n) .scalar (fun e =>
    if hasLane e.sp.exec n.toNat then e.g.setV d.toNat n.toNat (e.g.sreg a.toNat) else e.g) s

/-! ### Uniform transfers (06 R124, R125) -/

/-- BRA. -/
def execBra (o : BitVec 23) (s : State) : Host.Outcome State Fault Refusal :=
  issueWord (.bra o) .scalar (fun e s => s.transfer e (wordsFrom e.pc (sext o.toNat 23))) s

/-- CALL: the return address goes to the pair first. -/
def execCall (l : BitVec 6) (o : BitVec 12) (s : State) : Host.Outcome State Fault Refusal :=
  issueWord (.call l o) .scalar (fun e s =>
    let target := wordsFrom e.pc (e.imm? 12 o.toNat)
    s.atTarget e target fun s =>
      .goto (s.putGroup e.k (e.g.setSPair (2 * l.toNat) (BitVec.ofNat 64 (e.pc + 4).toNat))) target) s

/-- BRC: taken when the register is zero (sense 0) or is not (sense 1). -/
def execBrc (r : BitVec 7) (n : BitVec 1) (o : BitVec 10) (s : State) : Host.Outcome State Fault Refusal :=
  issueWord (.brc r n o) .scalar (fun e s =>
    if (e.g.sreg r.toNat = 0) = (n = 0) then s.transfer e (wordsFrom e.pc (e.imm? 10 o.toNat)) else .next s) s

/-- The address in a scalar pair, bits [63:56] ignored. -/
def Group.pairPc (g : Group) (p : BitVec 6) : Pc := BitVec.ofNat 56 (g.spair (2 * p.toNat)).toNat

/-- RET. -/
def execRet (p : BitVec 6) (s : State) : Host.Outcome State Fault Refusal :=
  issueWord (.ret p) .scalar (fun e s => s.transfer e (e.g.pairPc p)) s

/-- JMPI. -/
def execJmpi (p : BitVec 6) (s : State) : Host.Outcome State Fault Refusal :=
  issueWord (.jmpi p) .scalar (fun e s => s.transfer e (e.g.pairPc p)) s

/-! ### Hints and clause headers (05 R87 to R90) -/

/-- A word that only changes the pending hints of its split. -/
def hintWord (i : Instr) (f : Split → Hints) (s : State) : Host.Outcome State Fault Refusal :=
  issueWord i ⟨.always, none, false⟩ (fun e s => .placed (s.mapSplit e.k e.slot fun p => p.stepHint (f p))) s

/-- NOP: a SCHED word with a zero payload, which counts as one word of a window (R89). -/
def execNop (s : State) : Host.Outcome State Fault Refusal :=
  hintWord .nop (fun p => { p.hints.used with sched := p.hints.sched, imm := p.hints.imm, mod := p.hints.mod }) s

/-- SCHED (R88): a stall of its target and a nudge. -/
def execHsched (t : BitVec 4) (n : BitVec 2) (s : State) : Host.Outcome State Fault Refusal :=
  issueWord (.hsched t n) ⟨.always, none, false⟩ (fun e s =>
    .placed (s.mapSplit e.k e.slot fun p =>
      { p.stepHint { p.hints with sched := some (t, n) } with stallUntil := if t = 0 then 0 else s.cycles + 1 + t.toNat })) s

/-- IMM (R77). -/
def execHimm (h : BitVec 21) (s : State) : Host.Outcome State Fault Refusal :=
  hintWord (.himm h) (fun p => { p.hints with imm := some h }) s

/-- PRED (R90): a window over the next n + 1 words, which replaces an open one. -/
def execHpred (k : BitVec 5) (g : BitVec 1) (n : BitVec 3) (s : State) : Host.Outcome State Fault Refusal :=
  hintWord (.hpred k g n) (fun p => { p.hints with window := some ⟨k, g = 1, n.toNat + 1⟩ }) s

/-- MOD (R88). -/
def execHmod (r : BitVec 1) (m : BitVec 3) (t f : BitVec 1) (c : BitVec 2) (b z : BitVec 1) (s : State) :
    Host.Outcome State Fault Refusal :=
  hintWord (.hmod r m t f c b z) (fun p => { p.hints with mod := some ⟨r = 1, m, t = 1, f = 1, c, b = 1, z = 1⟩ }) s

/-- A clause header (R66, R87): the clause's flags and attributes; it closes an open window (R90). -/
def execClh (w : BitVec 12) (a b : BitVec 4) (c n : BitVec 1) (s : State) : Host.Outcome State Fault Refusal :=
  issueWord (.clh w a b c n) ⟨.always, none, false⟩ (fun e s =>
    .placed (s.mapSplit e.k e.slot fun p =>
      { p.stepHint { p.hints with window := none } with wait := w, fa := a, fb := b, cold := c = 1, noYield := n = 1 })) s

end Sys2Proof.Machine
end

