-- ==== Sys2Proof/Machine/Split.lean ====
section
/-! DEFINITION. Divergence: the meet stack, branches that split lanes, the execute mask, EXIT (07 R133 to R142, 08 R161 to R164). -/

namespace Sys2Proof.Machine

/-! ### The meet stack (07 R135, R137) -/

/-- Replaces an entry by `f` of it. -/
def Group.mapEntry (g : Group) (e : Nat) (f : MeetEntry → MeetEntry) : Group := { g with meet := alMap g.meet e f }

/-- The lowest free entry. -/
def Group.freeEntry (g : Group) : Option Nat := (List.range 16).find? fun e => (g.entry? e).isNone

/-- Entry x is entry e, or nested within it, looking up at most `n` links. -/
def Group.withinEntry (g : Group) (e : Nat) : Nat → Option Nat → Bool
  | 0, _ => false
  | _, none => false
  | n + 1, some x => x = e || g.withinEntry e n ((g.entry? x).bind MeetEntry.parent)

/-- settle(e) of R137. -/
def Group.settle (g : Group) (e : Nat) : Group :=
  match g.entry? e with
  | none => g
  | some m =>
    if m.full &&& ~~~m.arrived = 0 then
      let lanes := m.arrived ||| m.exitm
      let g := { g with meet := smDel g.meet e }
      if lanes ≠ 0 then g.startSplit m.mpc lanes m.parent else g
    else if m.pmask ≠ 0 && !(g.splits.any fun p => g.withinEntry e 16 p.entry) then
      (g.startSplit m.ppc m.pmask (some e)).mapEntry e fun m => { m with pmask := 0 }
    else g

/-- arrive(s) of R137: the split in a slot arrives at its entry. -/
def Group.arrive (g : Group) (slot : Nat) : Group :=
  match g.split? slot with
  | none => g
  | some p =>
    match p.entry with
    | none => g
    | some e => ((g.mapEntry e fun m => { m with arrived := m.arrived ||| p.live }).dropSplit slot).settle e

/-- The first n entries from an entry outward; none when fewer are open. -/
def Group.outward (g : Group) : Nat → Option Nat → Option (List Nat)
  | 0, _ => some []
  | _, none => none
  | n + 1, some e =>
    match g.entry? e with
    | none => none
    | some m => (g.outward n m.parent).map fun r => e :: r

/-- Every entry from an entry outward. -/
def Group.enclosing (g : Group) : Nat → Option Nat → List Nat
  | 0, _ => []
  | _, none => []
  | n + 1, some e =>
    match g.entry? e with
    | none => []
    | some m => e :: g.enclosing n m.parent

/-- Removes lanes from FULL of entries. -/
def Group.leave (g : Group) (lanes : Mask) (es : List Nat) : Group :=
  es.foldl (fun g e => g.mapEntry e fun m => { m with full := m.full &&& ~~~lanes }) g

/-- Settles entries in order. -/
def Group.settleAll (g : Group) (es : List Nat) : Group := es.foldl Group.settle g

/-! ### Divergent branches -/

/-- The split's PC advances and its open window closes (05 R90). -/
def Split.advanceClosed (p : Split) : Split := { p.advance with hints := Hints.none }

/-- Target and meet offsets of BRD, widened by an IMM hint (05 R81). -/
def brdOffsets (t : BitVec 9) (m : BitVec 8) (imm : Option (BitVec 21)) : Int × Nat :=
  match imm with
  | none => (sext t.toNat 9, m.toNat)
  | some h => (sext (h.toNat % 2 ^ 11 * 2 ^ 9 + t.toNat) 20, h.toNat / 2 ^ 11 * 2 ^ 8 + m.toNat)

/-- brd of R136, which opens a region: lanes `tk` go to T, the others on; a trap when no entry is free. -/
def Group.divide (g : Group) (p : Split) (tk : Mask) (target meet : Pc) : Option Group :=
  match g.freeEntry with
  | none => none
  | some e =>
    let pending := g.freeSlot.isNone
    let m : MeetEntry :=
      { mpc := meet, full := p.live, arrived := 0, exitm := 0, ppc := if pending then target else 0,
        pmask := if pending then tk else 0, parent := p.entry }
    let g := { g with meet := smIns g.meet e m }
    let g := if pending then g else g.startSplit target tk (some e)
    some (g.mapSplit p.slot fun p =>
      { p.advanceClosed with live := p.live &&& ~~~tk, exec := p.exec &&& ~~~tk, entry := some e })

/-- BRD (R136, R161). -/
def execBrd (k : BitVec 5) (g : BitVec 1) (t : BitVec 9) (m : BitVec 8) (s : State) : Host.Outcome State Fault Refusal :=
  issueWord (.brd k g t m) ⟨.always, none, false⟩ (fun e s =>
    let tk := e.act &&& guardLanes e.g k (g = 1)
    let (tOff, mOff) := brdOffsets t m e.imm
    let target := wordsFrom e.pc tOff
    let meet := wordsFrom e.pc mOff
    if tk = 0 then .placed (s.mapSplit e.k e.slot Split.advanceClosed)
    else
      s.atTarget e target fun s =>
        if e.sp.live &&& ~~~tk = 0 then .goto s target
        else
          s.atTarget e meet fun s =>
            match e.g.divide e.sp tk target meet with
            | none => .fail s (trapOf 0x0D)
            | some g => .placed (s.putGroup e.k g)) s

/-- BRK n (R139, R162): n is the field plus 1. -/
def execBrk (n : BitVec 4) (s : State) : Host.Outcome State Fault Refusal :=
  issueWord (.brk n) ⟨.always, none, false⟩ (fun e s =>
    let lanes := e.act
    if lanes = 0 then .next s
    else
      match e.g.outward (n.toNat + 1) e.sp.entry with
      | none => .trap (trapOf 0x0D)
      | some es =>
        let g := e.g.leave lanes es
        let g := g.mapEntry (es.getLastD 0) fun m => { m with exitm := m.exitm ||| lanes }
        let g := if e.sp.live &&& ~~~lanes = 0 then g.dropSplit e.slot
          else g.mapSplit e.slot fun p => { p.advanceClosed with live := p.live &&& ~~~lanes, exec := p.exec &&& ~~~lanes }
        .placed (s.putGroup e.k (g.settleAll es))) s

/-- MERGE (R142, R162). -/
def execMerge (s : State) : Host.Outcome State Fault Refusal :=
  issueWord .merge .scalar (fun e s =>
    match e.g.splits.find? fun p => p.slot ≠ e.slot && p.entry = e.sp.entry with
    | some q =>
      let g := e.g.mapSplit q.slot fun p => { p with live := p.live ||| e.sp.live, exec := p.exec ||| e.sp.exec }
      .placed (s.putGroup e.k (g.dropSplit e.slot))
    | none =>
      match e.sp.entry with
      | none => .next s
      | some x =>
        if ((e.g.entry? x).map MeetEntry.pmask).getD 0 = 0 then .next s
        else
          let g := (e.g.mapEntry x fun m => { m with pmask := m.pmask ||| e.sp.live }).dropSplit e.slot
          .placed (s.putGroup e.k (g.settle x))) s

/-- MEET (R142, R162). -/
def execMeet (s : State) : Host.Outcome State Fault Refusal :=
  issueWord .meet .scalar (fun e s =>
    if e.sp.entry.isNone then .next s else .placed (s.putGroup e.k (e.g.arrive e.slot))) s

/-! ### The execute mask (R134, R163) -/

/-- EXRD. -/
def execExrd (d : BitVec 7) (s : State) : Host.Outcome State Fault Refusal :=
  groupWord (.exrd d) .scalar (fun e => e.g.setSPair d.toNat e.sp.exec) s

/-- Writes the executing split's mask, limited to LIVE. -/
def Group.setExec (g : Group) (slot : Nat) (x : Mask) : Group := g.mapSplit slot fun p => { p with exec := x &&& p.live }

/-- EXWR. -/
def execExwr (a : BitVec 7) (s : State) : Host.Outcome State Fault Refusal :=
  groupWord (.exwr a) .scalar (fun e => e.g.setExec e.slot (e.g.spair a.toNat)) s

/-- EXPR: active lanes whose predicate is 0 leave the mask. -/
def execExpr (k : BitVec 5) (s : State) : Host.Outcome State Fault Refusal :=
  groupWord (.expr k) .lanes (fun e => e.g.setExec e.slot (e.sp.exec &&& ~~~(e.act &&& ~~~(e.g.preg k.toNat)))) s

/-! ### EXIT (R140, R164) -/

/-- EXIT: ends every lane of LIVE. -/
def execExit (s : State) : Host.Outcome State Fault Refusal :=
  issueWord .exit .scalar (fun e s =>
    if (s.setOf e.g).isSome then .trap (trapOf 0x0F)
    else
      let es := e.g.enclosing 16 e.sp.entry
      .placed (s.putGroup e.k (((e.g.leave e.sp.live es).dropSplit e.slot).settleAll es))) s

/-! ### Steps of the device -/

/-- MEET_ARRIVAL (R137): the split in a slot of an agent, standing at its meet PC, arrives. -/
def execMeetArrival (ag : AgentRef) (slot : Nat) (s : State) : Host.Outcome State Fault Refusal :=
  match s.group? (agentKey ag) with
  | none => .next s
  | some g =>
    match g.split? slot with
    | none => .next s
    | some p => if g.atMeet p then .next (s.putGroup (agentKey ag) (g.arrive slot)) else .next s

/-- SPLIT_MERGE (R138): two splits with one PC and one ENTRY merge into the lower slot. -/
def execSplitMerge (ag : AgentRef) (s : State) : Host.Outcome State Fault Refusal :=
  match s.group? (agentKey ag) with
  | none => .next s
  | some g =>
    match g.mergePair with
    | none => .next s
    | some (i, j) =>
      match g.split? j with
      | none => .next s
      | some q =>
        let g := g.mapSplit i fun p => { p with live := p.live ||| q.live, exec := p.exec ||| q.exec }
        .next (s.putGroup (agentKey ag) (g.dropSplit j))

end Sys2Proof.Machine
end

