-- ==== Sys2Proof/Machine/Cross.lean ====
section
/-! DEFINITION. Exchange and reduction between the lanes of a group (08 R165 to R167). -/

namespace Sys2Proof.Machine

/-! ### SHFL (R165) -/

/-- The element of lane j when it is an active lane of the instruction, else the lane's own. -/
def Env.fromLane (e : Env) (a : BitVec 7) (l : Nat) (j : Int) : Word :=
  if 0 ≤ j && j < (e.g.width : Int) && hasLane e.act j.toNat then e.g.vreg a.toNat j.toNat else e.g.vreg a.toNat l

/-- The shift of the scalar register: bits [5:0]. -/
def Env.shift (e : Env) (b : BitVec 7) : Nat := (e.g.sreg b.toNat).toNat % 64

/-- SHFL.idx. -/
def execShflIdx (d a b : BitVec 7) (s : State) : Host.Outcome State Fault Refusal :=
  groupWord (.shflIdx d a b) .lanes (fun e => e.mapLanes d.toNat fun l =>
    e.fromLane a l (((e.g.vreg b.toNat l).toNat % 64 : Nat) : Int)) s

/-- SHFL.up. -/
def execShflUp (d a b : BitVec 7) (s : State) : Host.Outcome State Fault Refusal :=
  groupWord (.shflUp d a b) .lanes (fun e => e.mapLanes d.toNat fun l => e.fromLane a l ((l : Int) - (e.shift b : Int))) s

/-- SHFL.down. -/
def execShflDown (d a b : BitVec 7) (s : State) : Host.Outcome State Fault Refusal :=
  groupWord (.shflDown d a b) .lanes (fun e => e.mapLanes d.toNat fun l => e.fromLane a l ((l : Int) + (e.shift b : Int))) s

/-- SHFL.xor. -/
def execShflXor (d a b : BitVec 7) (s : State) : Host.Outcome State Fault Refusal :=
  groupWord (.shflXor d a b) .lanes (fun e => e.mapLanes d.toNat fun l => e.fromLane a l ((l ^^^ e.shift b : Nat) : Int)) s

/-! ### VOTE (R166) -/

/-- VOTE.any. -/
def execVoteAny (d : BitVec 7) (k : BitVec 5) (s : State) : Host.Outcome State Fault Refusal :=
  groupWord (.voteAny d k) .scalar (fun e => e.g.setS d.toNat (if e.act &&& e.g.preg k.toNat ≠ 0 then 1 else 0)) s

/-- VOTE.all. -/
def execVoteAll (d : BitVec 7) (k : BitVec 5) (s : State) : Host.Outcome State Fault Refusal :=
  groupWord (.voteAll d k) .scalar (fun e => e.g.setS d.toNat (if e.act &&& ~~~(e.g.preg k.toNat) = 0 then 1 else 0)) s

/-- VOTE.ballot. -/
def execVoteBallot (d : BitVec 7) (k : BitVec 5) (s : State) : Host.Outcome State Fault Refusal :=
  groupWord (.voteBallot d k) .scalar (fun e => e.g.setSPair d.toNat (e.act &&& e.g.preg k.toNat)) s

/-! ### REDG (R167) -/

/-- The exact sum of finite terms: sign of a zero sum by R167. -/
def sumFinite (mode : BitVec 3) (xs : List (Bool × Nat × Int)) : Fl :=
  let h := xs.foldl (fun h x => min h x.2.2) 0
  let k := xs.foldl (fun a x => a + signedAt x.1 x.2.1 x.2.2 h) (0 : Int)
  let zero := if xs.all (fun x => x.1) then true else if xs.all (fun x => !x.1) then false else decide (mode = 3)
  Fl.ofInt zero k h

/-- The exact sum of the active elements and whether it is invalid. -/
def sumExact (mode : BitVec 3) (xs : List Fl) : Fl × Bool :=
  if xs.any Fl.isNan then (.nan false, xs.any Fl.isSnan)
  else
    let pos := xs.contains (.inf false)
    let neg := xs.contains (.inf true)
    if pos && neg then (.nan false, true)
    else if pos then (.inf false, false)
    else if neg then (.inf true, false)
    else (sumFinite mode (xs.filterMap fun x => match x with | .fin s m e => some (s, m, e) | _ => none), false)

/-- Folds minimumNumber or maximumNumber over a list that is not empty. -/
def foldNumber (f : Fl → Fl → Fl × Bool) : List Fl → Fl × Bool
  | [] => (.nan false, false)
  | x :: r => r.foldl (fun a y => let z := f a.1 y; (z.1, a.2 || z.2)) (f x x)

/-- The reduction of op o over the active elements, and its flags; the identity of min and max over no element is an infinity, and its delivery sets STEPOVF (04 R61). -/
def reduceLanes (o : Nat) (c : RndCtl) (xs : List Word) : Word × BitVec 8 :=
  let ints := xs.map fun x => sext x.toNat 32
  let nats := xs.map fun x => x.toNat
  let fls := xs.map fun x => Fl.ofBits .f32 x.toNat
  if o = 0 then
    let r := intResult 0 c.sat (ints.foldl (fun a x => a + x) 0)
    (BitVec.ofNat 32 r.1, r.2)
  else if o = 1 then (BitVec.ofNat 32 (wrap 32 (ints.foldl (fun a x => if x < a then x else a) (intMax true 32))), 0)
  else if o = 2 then (BitVec.ofNat 32 (wrap 32 (ints.foldl (fun a x => if a < x then x else a) (intMin true 32))), 0)
  else if o = 3 then (BitVec.ofNat 32 (nats.foldl min (2 ^ 32 - 1)), 0)
  else if o = 4 then (BitVec.ofNat 32 (nats.foldl max 0), 0)
  else if o = 5 then
    if xs = [] then (0, 0)
    else (deliver .f32 c (sumExact c.mode (xs.map fun x => operand .f32 c x.toNat))).word
  else if o = 6 then
    if xs = [] then (0x7F800000, fSTEPOVF)
    else let r := foldNumber flMin fls; (FRes.of .f32 r.1 (flagIf r.2 fNV)).word
  else if o = 7 then
    if xs = [] then (0xFF800000, fSTEPOVF)
    else let r := foldNumber flMax fls; (FRes.of .f32 r.1 (flagIf r.2 fNV)).word
  else if o = 8 then (xs.foldl (fun a x => a &&& x) 0xFFFFFFFF, 0)
  else if o = 9 then (xs.foldl (fun a x => a ||| x) 0, 0)
  else (xs.foldl (fun a x => a ^^^ x) 0, 0)

/-- REDG. -/
def execRedg (d a : BitVec 7) (o : BitVec 4) (s : State) : Host.Outcome State Fault Refusal :=
  groupWord (.redg d a o) .scalar (fun e =>
    let r := reduceLanes o.toNat e.ctl (e.lanes.map fun l => e.g.vreg a.toNat l)
    (e.g.setS d.toNat r.1).raise r.2) s

end Sys2Proof.Machine
end

