-- ==== Sys2Proof/Machine/BlockWords.lean ====
section
/-! DEFINITION. The block-aware vector instructions (08 R168 to R171, 03 R45, R46). -/

namespace Sys2Proof.Machine

/-- A block control word (R168). -/
structure BlockCtl where
  cls : Nat
  tag : Nat
  rule : Bool
  rm : Nat
  w : Nat
  dt : Nat
  slot : Nat
  delta : Byte
  stream : Word
  reserved : Bool
  deriving DecidableEq, Repr

/-- The fields of a control word. -/
def BlockCtl.ofWord (x : Nat) : BlockCtl :=
  { cls := bits x 0 2, tag := bits x 2 2, rule := bit x 4, rm := bits x 5 3, w := bits x 8 5 + 1, dt := bits x 16 4,
    slot := bits x 20 3, delta := BitVec.ofNat 8 (x / 2 ^ 24), stream := BitVec.ofNat 32 (x / 2 ^ 32),
    reserved := bits x 13 3 ≠ 0 || bit x 23 }

/-- The control word of a form. -/
def Env.blockCtl (e : Env) (p : BitVec 6) : BlockCtl := BlockCtl.ofWord (e.g.spair (2 * p.toNat)).toNat

/-- A reserved bit, CLS 11, or a DT that is no type of plain values, where the form uses them (R168, R169). -/
def BlockCtl.bad (c : BlockCtl) (usesCls usesDt : Bool) : Bool :=
  c.reserved || (usesCls && c.cls = 3) || (usesDt && !(c.dt = 8 || c.dt = 9 || c.dt = 10))

/-- Slices of a group that have an active lane. -/
def Env.slices (e : Env) : List Nat :=
  if e.g.width = 64 then [0, 1].filter fun q => bits e.act.toNat (32 * q) 32 ≠ 0 else if e.act = 0 then [] else [0]

/-- Where element i of slice q of a block in register d lies: the register and the lane (03 R45). -/
def blockPlace (narrow : Bool) (d q i : Nat) : Nat × Nat := if narrow then (d + i / 16, i % 16) else (d, 32 * q + i)

/-- Element i of slice q of a block operand. -/
def Group.blockElem (g : Group) (d q i : Nat) : Word :=
  let p := blockPlace g.narrow d q i
  g.vreg p.1 p.2

/-- The block in a slice of a register, of class `cls`. -/
def Group.regBlock (g : Group) (cls d q : Nat) : Blk :=
  let sc := g.sidecar d q
  ⟨BitVec.ofNat 8 sc.toNat, BitVec.ofNat 2 (sc.toNat / 256), (List.range 32).map fun i => bits (g.blockElem d q i).toNat 0 (clsW cls)⟩

/-- A sidecar of a scale and a tag. -/
def sideOf (scale : Byte) (tag : BitVec 2) : BitVec 10 := BitVec.ofNat 10 (tag.toNat * 256 + scale.toNat)

/-- Writes the active elements of a slice. -/
def Env.writeSlice (e : Env) (g : Group) (d q : Nat) (f : Nat → Word) : Group :=
  (List.range 32).foldl (fun g i =>
    let p := blockPlace e.g.narrow d q i
    if hasLane e.act p.2 then g.setV p.1 p.2 (f i) else g) g

/-- Writes a block: the active elements and the sidecar (03 R46). -/
def Env.writeBlock (e : Env) (g : Group) (d q : Nat) (b : Blk) : Group :=
  (e.writeSlice g d q fun i => BitVec.ofNat 32 (b.codes.getD i 0)).setSide d q (sideOf b.scale b.tag)

/-- A block-aware form that may trap on its control word or on a source block. -/
def blockWord (i : Instr) (check : Env → Option Nat) (f : Env → Group) (s : State) : Host.Outcome State Fault Refusal :=
  issueWord i .lanes (fun e s =>
    match check e with
    | some c => .trap (trapOf c)
    | none => .next (s.putGroup e.k (f e))) s

/-- The plain value of type DT in element i of a slice. -/
def Env.plain (e : Env) (dt a q i : Nat) : Fl := Fl.ofBits (floatType dt) ((e.g.blockElem a q i).toNat % 2 ^ (floatType dt).width)

/-- Element i of a slice is active. -/
def Env.elemActive (e : Env) (q i : Nat) : Bool := hasLane e.act (blockPlace e.g.narrow 0 q i).2

/-- The largest magnitude of a slice's active values, and whether a signalling NaN is among them. -/
def Env.sliceMax (e : Env) (dt a q : Nat) : Fl × Bool :=
  let xs := ((List.range 32).filter fun i => e.elemActive q i).map fun i => (e.plain dt a q i).abs
  if xs.any Fl.isNan then (.nan false, xs.any Fl.isSnan) else (xs.foldl (fun m x => (flMax m x).1) (.fin false 0 0), false)

/-- BMAX (R170). -/
def execBmax (d a : BitVec 7) (p : BitVec 6) (s : State) : Host.Outcome State Fault Refusal :=
  blockWord (.bmax d a p) (fun e => if (e.blockCtl p).bad false true then some 0x06 else none) (fun e =>
    let c := e.blockCtl p
    e.slices.foldl (fun g q =>
      let m := e.sliceMax c.dt a.toNat q
      let r := FRes.of (floatType c.dt) m.1 (flagIf m.2 fNV)
      (e.writeSlice g d.toNat q fun _ => BitVec.ofNat 32 r.bits).raise r.flags) e.g) s

/-- The source sidecar of some slice that the form acts on is CB4 (R169). -/
def Env.sourceCb4 (e : Env) (cls a : Nat) : Bool :=
  cls = 0 && e.slices.any fun q => (e.g.sidecar a q).toNat / 256 = 2

/-- BSCALE (R170). -/
def execBscale (d a : BitVec 7) (p : BitVec 6) (s : State) : Host.Outcome State Fault Refusal :=
  blockWord (.bscale d a p) (fun e =>
    let c := e.blockCtl p
    if c.bad true false then some 0x06 else if e.sourceCb4 c.cls a.toNat then some 0x20 else none) (fun e =>
    let c := e.blockCtl p
    e.slices.foldl (fun g q =>
      let r := (e.g.regBlock c.cls a.toNat q).rescale c.delta
      (e.writeBlock g d.toNat q r.1).raise (flagIf r.2 fSAT)) e.g) s

/-- The rounding mode of a block-aware form: the control word's, overridden by a MOD hint. The control word's own field is checked all the same (02 R28). -/
def Env.blockMode (e : Env) (c : BlockCtl) : Nat :=
  match e.mod with
  | some m => if m.rnden then m.rm.toNat else c.rm
  | none => c.rm

/-- BQ (R170): quantises each slice by R48. -/
def execBq (d a : BitVec 7) (p : BitVec 6) (s : State) : Host.Outcome State Fault Refusal :=
  blockWord (.bq d a p) (fun e =>
    let c := e.blockCtl p
    if c.bad true true || c.tag = 3 || (c.cls = 0 && c.tag = 2) || 4 < c.rm || 4 < e.blockMode c then some 0x06
    else if e.blockMode c = 4 && p = 63 then some 0x0B else none) (fun e =>
    let c := e.blockCtl p
    let base := (e.g.spair (2 * p.toNat + 2)).toNat
    let q : QCtl :=
      { cls := c.cls, tag := c.tag, rule := c.rule, mode := BitVec.ofNat 3 (e.blockMode c), zc := !(e.mod.map ModHint.nzc).getD false,
        seed := e.g.seed, stream := c.stream, w := c.w, cb := [] }
    e.slices.foldl (fun g sl =>
      let xs := (List.range 32).map fun i => if e.elemActive sl i then e.plain c.dt a.toNat sl i else .fin false 0 0
      let r := quantiseBlock q xs fun i => BitVec.ofNat 64 (base + 32 * sl + i)
      (e.writeBlock g d.toNat sl r.blk).raise r.flags) e.g) s

/-- BDQ (R170): dequantises each slice by R49. -/
def execBdq (d a : BitVec 7) (p : BitVec 6) (s : State) : Host.Outcome State Fault Refusal :=
  blockWord (.bdq d a p) (fun e =>
    let c := e.blockCtl p
    if c.bad true true || 3 < c.rm || 3 < e.blockMode c then some 0x06
    else if e.sourceCb4 c.cls a.toNat then some 0x20 else none) (fun e =>
    let c := e.blockCtl p
    let ctl : RndCtl := { e.ctl with mode := BitVec.ofNat 3 (e.blockMode c) }
    e.slices.foldl (fun g q =>
      let b := e.g.regBlock c.cls a.toNat q
      let r i := dequant (floatType c.dt) ctl c.cls [] b i
      let fl := ((List.range 32).filter fun i => e.elemActive q i).foldl (fun f i => f ||| (r i).flags) (0 : BitVec 8)
      (e.writeSlice g d.toNat q fun i => BitVec.ofNat 32 (r i).bits).raise fl) e.g) s

/-! ### The line form (R171) -/

/-- The 138 bytes of the line that a pair holds in a slice. -/
def Group.lineForm (g : Group) (d q : Nat) : List Byte :=
  ((List.range 32).flatMap fun i => natLe (g.vreg d (32 * q + i)).toNat 4)
    ++ natLe (g.vreg (d + 1) (32 * q)).toNat 4 ++ natLe (g.vreg (d + 1) (32 * q + 1)).toNat 4
    ++ natLe (g.vreg (d + 1) (32 * q + 2)).toNat 2

/-- Writes a line into the pair of a slice; the upper bits of lane 2 and the lanes above keep their values. -/
def Group.setLineForm (g : Group) (d q : Nat) (l : List Byte) : Group :=
  let g := (List.range 32).foldl (fun g i => g.setV d (32 * q + i) (BitVec.ofNat 32 (leAt l (4 * i) 4))) g
  let g := g.setV (d + 1) (32 * q) (BitVec.ofNat 32 (leAt l 128 4))
  let g := g.setV (d + 1) (32 * q + 1) (BitVec.ofNat 32 (leAt l 132 4))
  let old := (g.vreg (d + 1) (32 * q + 2)).toNat
  g.setV (d + 1) (32 * q + 2) (BitVec.ofNat 32 (old / 2 ^ 16 * 2 ^ 16 + leAt l 136 2))

/-- CLS and SLOT of a line form are assigned. -/
def slotBad (c : BlockCtl) : Bool := c.bad true false || decide (clsRpl c.cls ≤ c.slot)

/-- BPACK. -/
def execBpack (d a : BitVec 7) (p : BitVec 6) (s : State) : Host.Outcome State Fault Refusal :=
  blockWord (.bpack d a p) (fun e => if slotBad (e.blockCtl p) then some 0x06 else none) (fun e =>
    let c := e.blockCtl p
    e.slices.foldl (fun g q =>
      g.setLineForm d.toNat q (putBlk c.cls (e.g.lineForm d.toNat q) c.slot (e.g.regBlock c.cls a.toNat q))) e.g) s

/-- BUNPACK. -/
def execBunpack (d a : BitVec 7) (p : BitVec 6) (s : State) : Host.Outcome State Fault Refusal :=
  blockWord (.bunpack d a p) (fun e => if slotBad (e.blockCtl p) then some 0x06 else none) (fun e =>
    let c := e.blockCtl p
    e.slices.foldl (fun g q =>
      let b := lineBlk c.cls (e.g.lineForm a.toNat q) c.slot
      let g := (List.range 32).foldl (fun g i => g.setV d.toNat (32 * q + i) (BitVec.ofNat 32 (b.codes.getD i 0))) g
      g.setSide d.toNat q (sideOf b.scale b.tag)) e.g) s

end Sys2Proof.Machine
end

