-- ==== Sys2Proof/Machine/MemOps.lean ====
section
/-! DEFINITION. Loads, stores, block records, fences, version words, private addresses and prefetch (06 R126 to R128, 11 R225 to R232, R239 to R242, 10 R219, R220). -/

namespace Sys2Proof.Machine

/-! ### What the lanes of a form reach (11 R225, R226) -/

/-- One lane's access: lane, the address it names, the place it reaches. -/
structure LaneAccess where
  lane : Nat
  va : Nat
  target : Target
  deriving DecidableEq, Repr

/-- The faults among the lanes' outcomes. -/
def laneFaults (rs : List (Nat × Nat × Except AccFault Target)) : List (Nat × Nat × AccFault) :=
  rs.filterMap fun r => match r.2.2 with
    | .error f => some (r.1, r.2.1, f)
    | .ok _ => none

/-- The trap of a form whose lanes have outcomes: the first cause of R226 that applies to a lane, the lanes it applies to, the address of the lowest. -/
def laneTrap (fs : List (Nat × Nat × AccFault)) : Option TrapInfo :=
  match fs with
  | [] => none
  | f :: r =>
    let best := r.foldl (fun a b => if b.2.2.rank < a.2.2.rank then b else a) f
    let same := fs.filter fun x => x.2.2.rank = best.2.2.rank && x.2.2.cause = best.2.2.cause
    some (best.2.2.trap best.2.1 (some (maskOf (same.map (·.1)))))

/-- The accesses of lanes whose outcomes are all places. -/
def lanePlaces (rs : List (Nat × Nat × Except AccFault Target)) : List LaneAccess :=
  rs.filterMap fun r => match r.2.2 with
    | .ok t => some ⟨r.1, r.2.1, t⟩
    | .error _ => none

/-- The accesses of a form's active lanes, or its trap. -/
def Env.reachLanes (e : Env) (addr : Nat → Nat) (f : Nat → Nat → Except AccFault Target) : Except TrapInfo (List LaneAccess) :=
  let rs := e.lanes.map fun l => (l, addr l, f l (addr l))
  match laneTrap (laneFaults rs) with
  | some t => .error t
  | none => .ok (lanePlaces rs)

/-- What a lane reaches at a global address, aligned to n bytes. -/
def State.globalLane (s : State) (e : Env) (n : Nat) (k : Kind) (both : Bool) (l va : Nat) : Except AccFault Target :=
  if va % n ≠ 0 then .error (kindFault 1 0x40 k) else s.resolveLane (s.ctxOf e.g) e.g l va n k both

/-- A scratchpad line as a target: a poisoned line traps (09 R195). -/
def State.sramTarget (s : State) (x : Except AccFault (Nat × Nat)) (off : Nat) (k : Kind) : Except AccFault Target :=
  match x with
  | .error f => .error f
  | .ok (core, n) =>
    if (s.lineSt core n).poisoned then .error (kindFault 5 0x60 k) else .ok (.line ⟨sramKey core n, 0⟩ (off % 128))

/-- What a lane reaches at a byte offset of its team's scratchpad (09 R192). -/
def State.scratchLane (s : State) (e : Env) (n : Nat) (k : Kind) (off : Nat) : Except AccFault Target :=
  if off % n ≠ 0 then .error (kindFault 1 0x40 k)
  else
    match s.team? e.g.team with
    | some t => s.sramTarget (scratchLine t off k) off k
    | none => .error (kindFault 2 0x58 k)

/-- What a lane reaches at an offset of the cluster window (09 R198). -/
def State.windowLane (s : State) (e : Env) (n : Nat) (k : Kind) (off : Nat) : Except AccFault Target :=
  if off % n ≠ 0 then .error (kindFault 1 0x40 k)
  else s.sramTarget (s.windowLine e.g.ctx (keyCore e.k) off k) off k

/-- The line that a form names by a scalar pair, aligned to n bytes. -/
def State.reachScalar (s : State) (e : Env) (va n : Nat) (k : Kind) (both : Bool) : Except AccFault LineRef :=
  if va % n ≠ 0 then .error (kindFault 1 0x40 k) else s.resolveScalar (s.ctxOf e.g) va k both

/-- The lines of targets. -/
def targetLines (ts : List Target) : List LineRef :=
  ts.filterMap fun t => match t with
    | .line l _ => some l
    | .fixed _ => none

/-- The scratchpad lines among some that are absent. -/
def State.absentAmong (s : State) (ls : List LineRef) : List Nat :=
  ((ls.filter fun l => keyIsSram l.key && !(s.sramSt l.key).present).map fun l => l.key - 2 ^ 33).eraseDups

/-- The lines among some that engines own. -/
def State.ownedAmong (s : State) (ls : List LineRef) : List Nat := ((ls.filter s.isOwned).map LineRef.own).eraseDups

/-- What an access to lines waits for: absent scratchpad lines (09 R195), then owned lines (10 R216). -/
def State.linesWait (s : State) (ls : List LineRef) : Option Hold :=
  match s.absentAmong ls with
  | [] =>
    match s.ownedAmong ls with
    | [] => none
    | o => some (.owned o)
  | a => some (.lines a)

/-- Bytes that the core's L1 serves without the line's home slice. -/
def State.servedByL1 (s : State) (core : Nat) (l : LineRef) (off n : Nat) (scope : Scope) (cp : BitVec 2) : Bool :=
  !s.noL1 core l && !scope.wide && cp ≠ 3 &&
    match s.l1Get core l.ia with
    | some x => byteMarks off n &&& x.valid = byteMarks off n
    | none => false

/-- What a release at .sys waits for (19 R352). -/
def State.sysWait (s : State) (e : Env) (o : MemOrder) (scope : Scope) : Option Hold :=
  if o.rels && scope = .sys && s.fabricPending e.k e.g then some .fabric else none

/-- Caches the translations that accesses to lines have used (09 R188). -/
def State.cacheLines (s : State) (ls : List LineRef) : State :=
  (((ls.filter fun l => !keyIsSram l.key && !keyIsPrism l.key).map fun l => l.ia / 512).eraseDups).foldl
    (fun s p => s.cacheTlb (p * 2 ^ 16)) s

/-! ### Loads -/

/-- The bytes of each lane's access, performed in increasing lane order; bytes that the region buffers are the group's own (10 R221). -/
def State.loadEach (s : State) (d : Doer) (buf : List BufEntry) (n : Nat) (o : MemOrder) (scope : Scope) (cp : BitVec 2) :
    List LaneAccess → State × List (Nat × List Byte)
  | [] => (s, [])
  | a :: r =>
    match a.target with
    | .fixed bs => let q := s.loadEach d buf n o scope cp r; (q.1, (a.lane, bs) :: q.2)
    | .line l off =>
      let x := s.loadOrd d.core d.pair l off n o scope cp
      let q := x.2.loadEach d buf n o scope cp r
      (q.1, (a.lane, overlayBuf l.key off x.1 buf) :: q.2)

/-- The bytes that a lane has loaded. -/
def loadedAt (bs : List (Nat × List Byte)) (l : Nat) : List Byte := (alGet bs l).getD []

/-- The registers that a load delivers: `extend` of R230 for a size code. -/
def loadValues (d z : Nat) (bs : List (Nat × List Byte)) : SMap Word :=
  let ls := bs.map (·.1)
  let at' (l : Nat) : Nat := leNat (loadedAt bs l)
  if z = 5 then pairValuesOf d (fun l => BitVec.ofNat 64 (at' l)) ls
  else
    valuesOf d (fun l =>
      if z = 0 then narrow false 8 (at' l) else if z = 1 then narrow true 8 (at' l)
      else if z = 2 then narrow false 16 (at' l) else if z = 3 then narrow true 16 (at' l) else BitVec.ofNat 32 (at' l)) ls

/-- Bytes of a size code (05 R83). -/
def sizeBytes (z : Nat) : Nat := if z < 2 then 1 else if z < 4 then 2 else if z = 4 then 4 else 8

/-- A load of n bytes by the active lanes. -/
def loadForm (e : Env) (s : State) (ts : Except TrapInfo (List LaneAccess)) (d z : Nat) (o : MemOrder) (scope : Scope)
    (cp : BitVec 2) : Res :=
  match ts with
  | .error t => .trap t
  | .ok as =>
    let n := sizeBytes z
    let slow := as.filterMap fun a => match a.target with
      | .line l off => if s.servedByL1 (keyCore e.k) l off n scope cp then none else some l
      | .fixed _ => none
    match s.linesWait slow with
    | some h => .hold h
    | none =>
      match s.sysWait e o scope with
      | some h => .hold h
      | none =>
        let s := s.cacheLines (targetLines (as.map (·.target)))
        let (s, bs) := s.loadEach (s.doer e.k e.g) e.g.buf n o scope cp as
        .next (s.pendThread e (loadValues d z bs) [] 0)

/-! ### Stores -/

/-- The lines that the group's store buffer accepts: 32, for a glint 8 (16 R316, 12 R264). -/
def Group.bufLimit (g : Group) : Nat := if g.glint.isSome then 8 else 32

/-- Performs a store form's effects, or buffers them in an open region (11 R229): one effect for each access, in increasing lane order (R227). A line absent at issue is waited for in both (09 R195, 12 R264). -/
def storeEffects (e : Env) (s : State) (es : List BufEntry) (o : MemOrder) (scope : Scope) : Except (Hold ⊕ TrapInfo) State :=
  let d := s.doer e.k e.g
  if e.g.region.isSome then
    match s.absentAmong (es.map (·.line)) with
    | [] =>
      if bufFits e.g.bufLimit e.g.buf es then
        let s := s.mapGroup e.k fun g => { g with buf := g.buf ++ es }
        .ok (if o.acqs then s.acquire d.core d.pair scope else s)
      else .error (.inr (trapOf 0x67))
    | a => .error (.inl (.lines a))
  else
    match s.linesWait (es.map (·.line)) with
    | some h => .error (.inl h)
    | none =>
      match s.sysWait e o scope with
      | some h => .error (.inl h)
      | none =>
        let (s, f) := (s.cacheLines (es.map (·.line))).performAll d es 0
        .ok (s.mapGroup e.k fun g => g.raise f)

/-- A store form of long latency. -/
def storeForm (e : Env) (s : State) (es : List BufEntry) (o : MemOrder) (scope : Scope) : Res :=
  match storeEffects e s es o scope with
  | .ok s => .next (s.pendThread e [] [] 0)
  | .error (.inl h) => .hold h
  | .error (.inr t) => .trap t

/-- The store effects of lanes: n low bytes of the element or pair in register d. -/
def laneStores (e : Env) (d z : Nat) (o : MemOrder) (scope : Scope) (cp : BitVec 2) (as : List LaneAccess) : List BufEntry :=
  as.filterMap fun a => match a.target with
    | .fixed _ => none
    | .line l off =>
      let x := if z = 5 then (e.g.vpair d a.lane).toNat else (e.g.vreg d a.lane).toNat
      some { line := l, va := BitVec.ofNat 64 a.va, kind := .store off (natLe x (sizeBytes z)) none, order := o, scope, cp, pc := e.pc }

/-- A store of the active lanes. -/
def storeLanes (e : Env) (s : State) (ts : Except TrapInfo (List LaneAccess)) (d z : Nat) (o : MemOrder) (scope : Scope)
    (cp : BitVec 2) : Res :=
  match ts with
  | .error t => .trap t
  | .ok as => storeForm e s (laneStores e d z o scope cp as) o scope

/-! ### LDG, STG, LD, ST, LDS, STS, LDW -/

/-- EA of a lane of LDG and STG (06 R126). -/
def Env.ldgAddr (e : Env) (a : BitVec 7) (i : BitVec 9) (l : Nat) : Nat :=
  wrap 64 (((e.g.spair a.toNat).toNat : Int) + 4 * e.imm? 9 i.toNat + 4 * l)

/-- LDG. -/
def execLdg (d a : BitVec 7) (i : BitVec 9) (s : State) : Host.Outcome State Fault Refusal :=
  issueWord (.ldg d a i) (.longLane true) (fun e s =>
    loadForm e s (e.reachLanes (e.ldgAddr a i) (s.globalLane e 4 .load false)) d.toNat 4 .rlx .grp e.cp) s

/-- STG. -/
def execStg (d a : BitVec 7) (i : BitVec 9) (s : State) : Host.Outcome State Fault Refusal :=
  issueWord (.stg d a i) (.longLane false) (fun e s =>
    storeLanes e s (e.reachLanes (e.ldgAddr a i) (s.globalLane e 4 .store false)) d.toNat 4 .rlx .grp e.cp) s

/-- The address in a lane of a vector pair. -/
def Env.pairAddr (e : Env) (a : BitVec 7) (l : Nat) : Nat := (e.g.vpair a.toNat l).toNat

/-- The offset in a lane of a vector register. -/
def Env.offAddr (e : Env) (a : BitVec 7) (l : Nat) : Nat := (e.g.vreg a.toNat l).toNat

/-- LD (R230). -/
def execLd (d a : BitVec 7) (r : BitVec 2) (c z : BitVec 3) (s : State) : Host.Outcome State Fault Refusal :=
  issueWord (.ld d a r c z) (.longLane true) (fun e s =>
    loadForm e s (e.reachLanes (e.pairAddr a) (s.globalLane e (sizeBytes z.toNat) .load false)) d.toNat z.toNat (memOrder r) (memScope c)
      e.cp) s

/-- ST (R230). -/
def execSt (d a : BitVec 7) (r : BitVec 2) (c z : BitVec 3) (s : State) : Host.Outcome State Fault Refusal :=
  issueWord (.st d a r c z) (.longLane false) (fun e s =>
    storeLanes e s (e.reachLanes (e.pairAddr a) (s.globalLane e (sizeBytes z.toNat) .store false)) d.toNat z.toNat (memOrder r)
      (memScope c) e.cp) s

/-- LDS (R231): relaxed at team scope. -/
def execLds (d a : BitVec 7) (z : BitVec 3) (s : State) : Host.Outcome State Fault Refusal :=
  issueWord (.lds d a z) (.longLane true) (fun e s =>
    loadForm e s (e.reachLanes (e.offAddr a) fun _ => s.scratchLane e (sizeBytes z.toNat) .load) d.toNat z.toNat .rlx .team 0) s

/-- STS (R231). -/
def execSts (d a : BitVec 7) (z : BitVec 3) (s : State) : Host.Outcome State Fault Refusal :=
  issueWord (.sts d a z) (.longLane false) (fun e s =>
    storeLanes e s (e.reachLanes (e.offAddr a) fun _ => s.scratchLane e (sizeBytes z.toNat) .store) d.toNat z.toNat .rlx .team 0) s

/-- LDW (R231): relaxed at die scope. -/
def execLdw (d a : BitVec 7) (z : BitVec 3) (s : State) : Host.Outcome State Fault Refusal :=
  issueWord (.ldw d a z) (.longLane true) (fun e s =>
    loadForm e s (e.reachLanes (e.offAddr a) fun _ => s.windowLane e (sizeBytes z.toNat) .load) d.toNat z.toNat .rlx .die 0) s

/-! ### BLD and BST (R232) -/

/-- The line's address and the slot of the block of slice q. -/
def Env.blockAt (e : Env) (a : BitVec 6) (b : BitVec 7) (cls q : Nat) : Nat × Nat :=
  let k := (e.g.sreg b.toNat).toNat + q
  ((e.g.spair (2 * a.toNat)).toNat + 128 * (k / clsRpl cls), k % clsRpl cls)

/-- Active lanes in a slice. -/
def Env.sliceLanes (e : Env) (q : Nat) : Mask :=
  if e.g.width = 64 then e.act &&& (laneMask 32 <<< (32 * q)) else e.act

/-- The lines of a block form by slice, or its trap. -/
def State.reachBlocks (s : State) (e : Env) (a : BitVec 6) (b : BitVec 7) (cls : Nat) (k : Kind) :
    Except TrapInfo (List (Nat × Nat × LineRef)) :=
  let base := (e.g.spair (2 * a.toNat)).toNat
  if base % 128 ≠ 0 then .error ((kindFault 1 0x40 k).trap base none)
  else if 2 ^ 56 ≤ base then .error ((kindFault 2 0x44 k).trap base none)
  else
    let rs := e.slices.map fun q =>
      let p := e.blockAt a b cls q
      (q, p.1, match s.resolveScalar (s.ctxOf e.g) p.1 k false with
        | .ok l => Except.ok (Target.line l p.2)
        | .error f => .error f)
    match laneFaults rs with
    | [] => .ok ((lanePlaces rs).filterMap fun x => match x.target with
        | .line l _ => some (x.lane, x.va, l)
        | .fixed _ => none)
    | f :: r =>
      let best := r.foldl (fun a b => if b.2.2.rank < a.2.2.rank then b else a) f
      let same := (f :: r).filter fun x => x.2.2.rank = best.2.2.rank && x.2.2.cause = best.2.2.cause
      .error (best.2.2.trap best.2.1 (some (same.foldl (fun m x => m ||| e.sliceLanes x.1) 0)))

/-- Loads one block: its record's bytes and its tag. -/
def State.loadBlock (s : State) (d : Doer) (buf : List BufEntry) (cls j : Nat) (l : LineRef) (cp : BitVec 2) : Blk × State :=
  let x := s.load d.core l (j * clsB cls) (clsB cls) .grp cp
  let t := x.2.load d.core l 136 2 .grp cp
  let tag := overlayTag l.key j (BitVec.ofNat 2 (leNat t.1 / 4 ^ j)) buf
  (Blk.ofRecord cls (overlayBuf l.key (j * clsB cls) x.1 buf) tag, t.2)

/-- Loads the blocks of slices: elements and sidecars to deliver. -/
def State.loadBlocks (s : State) (e : Env) (d cls : Nat) (slot : Nat → Nat) :
    List (Nat × Nat × LineRef) → SMap Word → SMap (BitVec 10) → State × SMap Word × SMap (BitVec 10)
  | [], vals, sides => (s, vals, sides)
  | (q, _, l) :: r, vals, sides =>
    let (b, s) := s.loadBlock (s.doer e.k e.g) e.g.buf cls (slot q) l e.cp
    let vals := (List.range 32).foldl (fun m i =>
      let p := blockPlace e.g.narrow d q i
      if hasLane e.act p.2 then smIns m (p.1 * 64 + p.2) (BitVec.ofNat 32 (b.codes.getD i 0)) else m) vals
    s.loadBlocks e d cls slot r vals (smIns sides (d * 2 + q) (sideOf b.scale b.tag))

/-- BLD. -/
def execBld (d : BitVec 7) (a : BitVec 6) (b : BitVec 7) (c : BitVec 2) (s : State) : Host.Outcome State Fault Refusal :=
  issueWord (.bld d a b c) (.longLane true) (fun e s =>
    match s.reachBlocks e a b c.toNat .load with
    | .error t => .trap t
    | .ok bs =>
      let ls := bs.map (·.2.2)
      match s.linesWait (ls.filter fun l => !s.servedByL1 (keyCore e.k) l 0 138 .grp e.cp) with
      | some h => .hold h
      | none =>
        let (s, vals, sides) := (s.cacheLines ls).loadBlocks e d.toNat c.toNat (fun q => (e.blockAt a b c.toNat q).2) bs [] []
        .next (s.pendThread e vals sides 0)) s

/-- BST. -/
def execBst (d : BitVec 7) (a : BitVec 6) (b : BitVec 7) (c : BitVec 2) (s : State) : Host.Outcome State Fault Refusal :=
  issueWord (.bst d a b c) (.longLane false) (fun e s =>
    match s.reachBlocks e a b c.toNat .store with
    | .error t => .trap t
    | .ok bs =>
      let es := bs.map fun x =>
        let j := (e.blockAt a b c.toNat x.1).2
        let blk := e.g.regBlock c.toNat d.toNat x.1
        ({ line := x.2.2, va := BitVec.ofNat 64 x.2.1,
           kind := .store (j * clsB c.toNat) (blk.record c.toNat) (some (j, blk.tag)), order := .rlx, scope := .grp,
           cp := e.cp, pc := e.pc } : BufEntry)
      storeForm e s es .rlx .grp) s

/-! ### FENCE (10 R219, R220, 11 R239) -/

/-- FENCE: domains m, scope c, .pt p, order r. In an open region step 1 of R220 meets stores that the region still buffers: here FENCE.pt of order .rlx or .acq neither waits for them nor commits them (log entry 123). -/
def execFence (m : BitVec 4) (c : BitVec 3) (p : BitVec 1) (r : BitVec 2) (s : State) : Host.Outcome State Fault Refusal :=
  issueWord (.fence m c p r) ⟨.once, none, (memOrder r).rels⟩ (fun e s =>
    let o := memOrder r
    let scope := memScope c
    let d := s.doer e.k e.g
    if o.acqs && !s.domainsDone e.k e.g m then .hold (.domains m)
    else
      match s.sysWait e o scope with
      | some _ => .hold .fence
      | none =>
        let s := if o.acqs && scope = .prom then s.flushAll else s
        let s := if (o ≠ .rlx && scope.wide) || p = 1 || (o.rels && bits m.toNat 0 3 ≠ 0) then s.flushCore d.core
          else if o.rels then s.release d.core d.pair scope else s
        let s := if o.rels && scope = .team then s.noteRelease d.core fenceLine else s
        let s := if o.acqs then s.acquire d.core d.pair scope else s
        .next (if p = 1 then { s with tlb := [] } else s)) s

/-! ### Version words (09 R202, 11 R240) -/

/-- The waits registered at a line's home slice. -/
def State.waitsAt (s : State) (slice : Nat) : Nat :=
  (s.wordWaits.filter fun w => w.2.2.registered && decide (homeSlice (w.2.2.line.ia * 128) = slice)).length

/-- A wait of a group on a 64-bit word for a value at a scope: it completes at once, or parks. -/
def waitForm (e : Env) (s : State) (va : Nat) (v : DWord) (scope : Scope) : Res :=
  match s.reachScalar e va 8 .load false with
  | .error f => .trap (f.trap va none)
  | .ok l =>
    match s.linesWait [l] with
    | some h => .hold h
    | none =>
      let d := s.doer e.k e.g
      let s := s.cacheLines [l]
      let s := if scope = .prom then s.promote l else s
      let s := s.refresh d.core l
      let w : WordWait := { line := l, off := va % 128, least := v, scope, registered := decide (s.waitsAt (homeSlice (l.ia * 128)) < 256) }
      if v.toNat ≤ s.wordAt e.k w then .next (s.acquire d.core d.pair scope) else .park s (.word w)

/-- WAITGE. -/
def execWaitge (d a : BitVec 7) (c : BitVec 3) (s : State) : Host.Outcome State Fault Refusal :=
  issueWord (.waitge d a c) .scalar (fun e s => waitForm e s (e.g.spair a.toNat).toNat (e.g.spair d.toNat) (memScope c)) s

/-- WAITGE_REPOLL (R202): the waits of an agent that no home slice holds re-read their words; a read of a line that an engine owns waits for a later one (10 R216). -/
def execWaitgeRepoll (ag : AgentRef) (s : State) : Host.Outcome State Fault Refusal :=
  let k := agentKey ag
  .next ((s.wordWaits.filter fun w => w.1 = k && !w.2.2.registered && !s.isOwned w.2.2.line).foldl (fun s w =>
    let s := s.refresh (keyCore k) w.2.2.line
    if decide (w.2.2.least.toNat ≤ s.wordAt k w.2.2) && !((s.group? k).map Group.stopped).getD true then
      s.wakeWord k w.2.1 w.2.2 else s) s)

/-- VPUB. -/
def execVpub (a : BitVec 7) (c : BitVec 3) (s : State) : Host.Outcome State Fault Refusal :=
  issueWord (.vpub a c) ⟨.once, some false, true⟩ (fun e s =>
    let va := (e.g.spair a.toNat).toNat
    let locs := if e.lanes = [] then [(0, va)] else e.lanes.map fun l => (l, va)
    let step : LogStep := if e.g.region.isSome then e.g.logStep e.act locs else .perform [] []
    match step, s.reachScalar e va 8 .store true with
    | .deliver _, _ => .next ((s.mapGroup e.k fun g => { g with replayPos := g.replayPos + 1 }).pendThread e [] [] 0)
    | _, .error f => .trap (f.trap va none)
    | .overflow, .ok _ => .trap (trapOf 0x68)
    | .perform keep later, .ok l =>
      match s.linesWait [l] with
      | some h => .hold h
      | none =>
        match s.sysWait e .rel (memScope c) with
        | some h => .hold h
        | none =>
          let r := (s.cacheLines [l]).rmw (s.doer e.k e.g) l (va % 128) 1 RndCtl.rne [1, 0] .rel (memScope c)
          let s := if e.g.region.isSome then r.2.2.mapGroup e.k fun g => g.logged keep later ⟨e.act, locs, [], false⟩ else r.2.2
          .next (s.pendThread e [] [] 0)) s

/-! ### PRIVADDR and PREF (R241, R242) -/

/-- The address that PRIVADDR delivers for lane l; none when the offset is not in the private backing. -/
def privAddr (c : Context) (pslot l : Nat) (va : DWord) : Option DWord :=
  let x := va.toNat
  if 0xFF000000000000 ≤ x && x < 0xFF000100000000 then
    let o := x % 2 ^ 32
    if c.privsz ≤ o then none else some (BitVec.ofNat 64 (c.privbase + (64 * pslot + l) * c.privsz + o))
  else some va

/-- PRIVADDR. -/
def execPrivaddr (d a : BitVec 7) (s : State) : Host.Outcome State Fault Refusal :=
  issueWord (.privaddr d a) .lanes (fun e s =>
    let c := s.ctxOf e.g
    let at' (l : Nat) : Option DWord := privAddr c e.g.pslot l (e.g.vpair a.toNat l)
    match e.lanes.filter fun l => (at' l).isNone with
    | [] => .next (s.putGroup e.k (e.mapPairs d.toNat fun l => (at' l).getD 0))
    | l :: r => .trap ((kindFault 2 0x44 .load).trap (e.pairAddr a l) (some (maskOf (l :: r))))) s

/-- PREF: .l1 asks for each line in the core's L1; a lane that would fault is dropped. -/
def execPref (a : BitVec 7) (l : BitVec 2) (s : State) : Host.Outcome State Fault Refusal :=
  issueWord (.pref a l) .lanes (fun e s =>
    let core := keyCore e.k
    let ls := (targetLines (e.lanes.filterMap fun n =>
      match s.resolveLane (s.ctxOf e.g) e.g n (e.pairAddr a n) 1 .load false with
      | .ok t => some t
      | .error _ => none)).filter fun x => !s.isOwned x
    let s := s.cacheLines ls
    if l = 0 && e.cp ≠ 3 then
      .next (ls.foldl (fun s x => if s.noL1 core x || (s.l1Get core x.ia).isSome then s else s.fillL1 core x) s)
    else .next s) s

end Sys2Proof.Machine
end

