-- ==== Sys2Proof/Machine/Atomics.lean ====
section
/-! DEFINITION. Atomics, reductions, deterministic atomics, their holding buffers, spill runs and merge (11 R233 to R238). -/

namespace Sys2Proof.Machine

/-! ### ATOM and RED (R233, R234) -/

/-- What a lane's location reference reaches (R225): global memory or the team's scratchpad. -/
def State.locationLane (s : State) (e : Env) (n : Nat) (l va : Nat) : Except AccFault Target :=
  let space := va / 2 ^ 56
  if va % n ≠ 0 then .error (kindFault 1 0x40 .store)
  else if space = 0 then s.resolveLane (s.ctxOf e.g) e.g l va n .store true
  else if space = 1 then
    if bits va 32 24 ≠ 0 then .error (kindFault 2 0x44 .store) else s.scratchLane e n .store (va % 2 ^ 32)
  else .error (kindFault 2 0x44 .store)

/-- The operand words of a lane. -/
def Env.atomOperand (e : Env) (d : Nat) (op : BitVec 4) (l : Nat) : List Word :=
  (List.range (atomWords op)).map fun i => e.g.vreg (d + i) l

/-- The scope that an access to a line has: .prom on a scratchpad line is .dev (R234). -/
def lineScope (l : LineRef) (scope : Scope) : Scope := if keyIsSram l.key && scope = .prom then .dev else scope

/-- The registers that returned values are delivered to. -/
def atomValues (d : Nat) (vals : List (Nat × List Word)) : SMap Word :=
  vals.foldl (fun m v => (List.range v.2.length).foldl (fun m i => smIns m ((d + i) * 64 + v.1) (v.2.getD i 0)) m) []

/-- The lanes of an exchange or a compare-and-swap that reach the scratchpad, which a glint may not do (12 R263). -/
def Env.glintExchange (e : Env) (a : BitVec 7) (o : BitVec 4) : Mask :=
  if e.g.glint.isSome && (o = 9 || o = 10 || o = 15) then
    maskOf (e.lanes.filter fun l => e.pairAddr a l / 2 ^ 56 = 1)
  else 0

/-- The effects of the lanes of an ATOM or a RED, in increasing lane order. -/
def laneAtomics (e : Env) (d : Nat) (op : BitVec 4) (o : MemOrder) (scope : Scope) (as : List LaneAccess) : List (Nat × BufEntry) :=
  as.filterMap fun x => match x.target with
    | .fixed _ => none
    | .line l off =>
      some (x.lane, { line := l, va := BitVec.ofNat 64 x.va, kind := .red off op (e.atomOperand d op x.lane) e.ctl.mode e.ctl.sat e.ctl.flush,
                      order := o, scope := lineScope l scope, cp := e.cp, pc := e.pc })

/-- Performs the lanes of an ATOM or a RED after the first `vals.length`, which have acted: all of them, or so many as come before writes of other agents (R227; log entry 5); the form ends with the last. -/
def atomicLanes (e : Env) (s : State) (delivers : Bool) (all : List (Nat × BufEntry)) (vals : List (Nat × List Word)) (fl : BitVec 8)
    (done : State → List (Nat × List Word) → BitVec 8 → Res) : Res :=
  let left := all.drop vals.length
  let r := s.atomEach (s.doer e.k e.g) delivers (left.take (s.laneCut.getD left.length)) vals fl
  let s := { r.1 with laneCut := none }
  if r.2.1.length < all.length then .park s (.retry (.lanes all r.2.1 r.2.2)) else done s r.2.1 r.2.2

/-- The lanes of an ATOM or a RED that were left when its word was last issued. -/
def Split.lanesLeft (p : Split) : Option (List (Nat × BufEntry) × List (Nat × List Word) × BitVec 8) :=
  match p.park with
  | .retry (.lanes all vals fl) => some (all, vals, fl)
  | _ => none

/-- The flags of an atomic that a replay delivers from the log: it is not performed and raises none, but an infinity or a NaN that it delivers sets STEPOVF (04 R61; log entry 107). -/
def loggedFlags (op : BitVec 4) (vals : List (Nat × List Word)) : BitVec 8 :=
  vals.foldl (fun f v => f ||| atomFlags op (some (word2 v.2 0)) 0) 0

/-- What an ATOM does once its lanes have acted: its entry in the log of an open region, its results. -/
def atomDone (e : Env) (d : Nat) (keep later : List LogEntry) (locs : List (Nat × Nat)) (s : State) (vals : List (Nat × List Word))
    (fl : BitVec 8) : Res :=
  let s := if e.g.region.isSome then
      s.mapGroup e.k fun g => g.logged keep later ⟨e.act, locs, vals, false⟩
    else s
  .next (s.pendThread e (atomValues d vals) [] fl)

/-- ATOM: logged in an open region, and delivered from the log when the region replays (R229, 16 R317). -/
def execAtom (d a : BitVec 7) (o : BitVec 4) (c : BitVec 3) (r : BitVec 2) (s : State) : Host.Outcome State Fault Refusal :=
  issueWord (.atom d a o c r) ⟨.lane, some true, (memOrder r).rels⟩ (fun e s =>
    let barred := e.glintExchange a o
    if barred ≠ 0 then .trap { trapOf 0x10 with lanes := some barred } else
    let locs := match e.sp.lanesLeft with
      | some (all, _) => all.map fun x => (x.1, x.2.va.toNat)
      | none => e.lanes.map fun l => (l, e.pairAddr a l)
    let step : LogStep := if e.g.region.isSome then e.g.logStep e.act locs else .perform [] []
    match step, e.sp.lanesLeft, e.reachLanes (e.pairAddr a) (s.locationLane e (atomSize o)) with
    | .deliver vals, _, _ =>
      .next ((s.mapGroup e.k fun g => { g with replayPos := g.replayPos + 1 }).pendThread e (atomValues d.toNat vals) [] (loggedFlags o vals))
    | .perform keep later, some (all, vals, fl), _ => atomicLanes e s true all vals fl (atomDone e d.toNat keep later locs)
    | _, _, .error t => .trap t
    | .overflow, _, .ok _ => .trap (trapOf 0x68)
    | .perform keep later, none, .ok as =>
      let ls := targetLines (as.map (·.target))
      match s.linesWait ls with
      | some h => .hold h
      | none =>
        match s.sysWait e (memOrder r) (memScope c) with
        | some h => .hold h
        | none =>
          let all := laneAtomics e d.toNat o (memOrder r) (memScope c) as
          atomicLanes e (s.cacheLines ls) true all [] 0 (atomDone e d.toNat keep later locs)) s

/-- RED: buffered in an open region. -/
def execRed (d a : BitVec 7) (o : BitVec 4) (c : BitVec 3) (r : BitVec 2) (s : State) : Host.Outcome State Fault Refusal :=
  issueWord (.red d a o c r) (.longLane false) (fun e s =>
    let done (s : State) (_ : List (Nat × List Word)) (fl : BitVec 8) : Res := .next ((s.mapGroup e.k fun g => g.raise fl).pendThread e [] [] 0)
    match e.sp.lanesLeft, e.reachLanes (e.pairAddr a) (s.locationLane e (atomSize o)) with
    | some (all, vals, fl), _ => atomicLanes e s false all vals fl done
    | none, .error t => .trap t
    | none, .ok as =>
      let all := laneAtomics e d.toNat o (memOrder r) (memScope c) as
      let es := all.map (·.2)
      if e.g.region.isSome then storeForm e s es (memOrder r) (memScope c)
      else
        match s.linesWait (es.map (·.line)), s.sysWait e (memOrder r) (memScope c) with
        | some h, _ | none, some h => .hold h
        | none, none => atomicLanes e (s.cacheLines (es.map (·.line))) false all [] 0 done) s

/-! ### ATOM.DET (R235) -/

/-- What a lane of ATOM.DET reaches: a pod-shared line is refused (19 R351). -/
def State.detLane (s : State) (e : Env) (l va : Nat) : Except AccFault Target :=
  match s.globalLane e 4 .store true l va with
  | .ok (.line r off) => if keyIsPrism r.key then .error ⟨4, 0xAC, none⟩ else .ok (.line r off)
  | x => x

/-- ATOM.DET: each active lane sends an entry, or buffers it in an open region. -/
def detForm (i : Instr) (bf : Bool) (d a : BitVec 7) (s : State) : Host.Outcome State Fault Refusal :=
  issueWord i (.longLane false) (fun e s =>
    match e.reachLanes (e.pairAddr a) (s.detLane e) with
    | .error t => .trap t
    | .ok as =>
      let s := s.cacheLines (targetLines (as.map (·.target)))
      let es := as.filterMap fun x => match x.target with
        | .fixed _ => none
        | .line l off => some (x.lane, x.va, l, off)
      let (id, s) := s.takeId
      if e.g.region.isSome then
        let bs : List BufEntry := es.map fun x =>
          { line := x.2.2.1, va := BitVec.ofNat 64 x.2.1, kind := .det x.2.2.2 x.1 bf (e.g.vreg d.toNat x.1) id,
            order := .rlx, scope := .dev, cp := 0, pc := e.pc }
        if bufFits e.g.bufLimit e.g.buf bs then
          .next ((s.mapGroup e.k fun g => { g with buf := g.buf ++ bs }).pendThread e [] [] 0)
        else .trap (trapOf 0x67)
      else if es.isEmpty then .next (s.pendThread e [] [] 0)
      else
        let dr := s.doer e.k e.g
        .next (es.foldl (fun s x =>
          s.detSend dr x.2.2.1 x.2.2.2 x.1 bf (e.g.vreg d.toNat x.1) id e.pc (BitVec.ofNat 64 x.2.1) e.flag false) s)) s

/-- ATOM.DET.fadd.f32. -/
def execAtomDetFadd (d a : BitVec 7) (s : State) : Host.Outcome State Fault Refusal := detForm (.atomDetFadd d a) false d a s

/-- ATOM.DET.bfadd2.bf16. -/
def execAtomDetBfadd2 (d a : BitVec 7) (s : State) : Host.Outcome State Fault Refusal := detForm (.atomDetBfadd2 d a) true d a s

/-! ### Holding buffers and spill runs (R236) -/

/-- One key goes before another: issuer, then seq. -/
def DetEntry.before (a b : DetEntry) : Bool := if a.issuer ≠ b.issuer then decide (a.issuer < b.issuer) else decide (a.seq < b.seq)

/-- Inserts an entry in key order. -/
def insEntry (x : DetEntry) : List DetEntry → List DetEntry
  | [] => [x]
  | y :: r => if x.before y then x :: y :: r else y :: insEntry x r

/-- The 384 bytes of a run. -/
def runBytes (ia grid : Nat) (es : List DetEntry) : List Byte :=
  slice (natLe ia 8 ++ natLe grid 4 ++ natLe es.length 1) 0 128
    ++ slice (es.flatMap fun x => natLe x.issuer 8 ++ natLe x.seq 4 ++ natLe x.value.toNat 4) 0 256

/-- The free unit of a context's spill area that a run takes. The spec says only that it is free (11 R236): here the lowest (log entry 124). -/
def Context.freeUnit (c : Context) : Option Nat := (List.range (c.detsize / 384)).find? fun u => !c.detUnits.contains u

/-- The lines of a spill unit for an engine's access, or how the first that is not ready stands. -/
def State.unitLines (s : State) (c : Context) (unit : Nat) (k : Kind) : Except EngineTry (List LineRef) :=
  let rs := [0, 1, 2].map fun i => s.engineLine c (c.detbase + 384 * unit + 128 * i) k (!k.writes)
  match rs.find? fun x => match x with | .ready _ => false | _ => true with
  | some x => .error x
  | none => .ok (rs.filterMap fun x => match x with | .ready l => some l | _ => none)

/-- How a write-out of a buffer ends: made, waiting, refused. -/
inductive WriteOut where
  | made (s : State)
  | waits (s : State)
  | refused (r : DetRefusal)

/-- Writes out a buffer as a run for request `q`. -/
def State.writeOut (s : State) (q : SliceReq) (b : DetBuf) : WriteOut :=
  let c := (s.ctx? b.ctx).getD Context.blank
  match c.freeUnit with
  | none => .refused ⟨0x66, q.va⟩
  | some u =>
    let addr := BitVec.ofNat 64 (c.detbase + 384 * u)
    match s.unitLines c u .engineWrite with
    | .ok ls =>
      if ls.any fun l => (s.ownerOf l.own).isSome then .waits s
      else
        let bs := runBytes (b.line.ia * 128 + b.off) b.grid b.entries
        let s := (ls.zipIdx).foldl (fun s x => s.engineFill x.1 (slice bs (128 * x.2) 128)) s
        let s := s.mapCtx b.ctx fun c => { c with detUnits := c.detUnits ++ [u] }
        .made { s with detRuns := s.detRuns ++
          [{ ctx := b.ctx, grid := b.grid, line := b.line, off := b.off, bfs := b.entries.map DetEntry.bf, unit := u, va := b.va }] }
    | .error (.wait ia cause) =>
      let since := q.waitSince.getD s.nanos
      if q.waitSince.isSome && since + c.engwait ≤ s.nanos then .refused ⟨cause, addr⟩
      else
        let s := s.mirrorIa b.ctx ia
        .waits { s with sliceReqs := s.sliceReqs.map fun x => if x.id = q.id then { x with waitSince := some since } else x }
    | .error (.fail cause) => .refused ⟨cause, addr⟩
    | .error (.ready _) => .waits s

/-- The buffer holds entries of the request's address and grid, of either form (11 R236). -/
def DetBuf.holds (b : DetBuf) (q : SliceReq) : Bool :=
  b.slice = q.slice && b.line = q.line && b.off = q.off && b.ctx = q.ctx && b.grid = q.grid

/-- The entry of a request, with its seq. -/
def SliceReq.entry (q : SliceReq) (seq : Nat) : DetEntry := ⟨q.issuer, seq, q.bf, q.value⟩

/-- A buffer that holds the request's entry alone. -/
def SliceReq.newBuf (q : SliceReq) (seq stamp : Nat) : DetBuf :=
  { slice := q.slice, line := q.line, off := q.off, ctx := q.ctx, grid := q.grid, entries := [q.entry seq],
    latest := stamp, va := q.va }

/-- The buffer of a slice whose latest entry is oldest. -/
def oldestBuf (bs : List DetBuf) : Option DetBuf :=
  match bs with
  | [] => none
  | b :: r => some (r.foldl (fun a b => if b.latest < a.latest then b else a) b)

/-- DET_SPILL for the first refused entry of an ATOM.DET (R236). -/
def DetRefusal.imprecise (f : DetRefusal) (pc : Pc) (committed : Bool) : Imprecise :=
  { cause := 0x66, faddr := f.faddr, origin := BitVec.ofNat 64 pc.toNat, detail := BitVec.ofNat 64 (f.cause.toNat * 2 ^ 48), committed }

/-- An entry of an ATOM.DET has entered a buffer, or has been refused: its operation counts down, and with its last entry the operation completes, with DET_SPILL when one was refused. -/
def Group.detDone (g : Group) (op : Nat) (r : Option DetRefusal) : Group :=
  match g.pend.find? fun o => o.id = op with
  | none => g
  | some o =>
    match o.kind with
    | .det n f c =>
      let f := f.orElse fun _ => r
      if n ≤ 1 then
        { g with pend := g.pend.filter (fun x => x.id ≠ op),
                 imprecise := match f with | some x => g.imprecise ++ [x.imprecise o.pc c] | none => g.imprecise }
      else { g with pend := g.pend.map fun x => if x.id = op then { x with kind := .det (n - 1) f c } else x }
    | _ => g

/-- The request leaves its slice. -/
def State.detServed (s : State) (q : SliceReq) (r : Option DetRefusal) : State :=
  { s with sliceReqs := s.sliceReqs.filter fun x => x.id ≠ q.id }.mapGroup q.key fun g => g.detDone q.pend r

/-- The request's entry has entered a buffer: it counts in its lane's seq (R235). -/
def State.detEntered (s : State) (q : SliceReq) : State :=
  (s.mapGroup q.key fun g => { g with detSeq := smPut 0 g.detSeq q.lane (smGet 0 g.detSeq q.lane + 1) }).detServed q none

/-- A request waits behind another: one that has been promoted stands before it at the slice (09 R184), or its lane's earlier entry has not arrived (R235; log entry 109). -/
def State.detBehind (s : State) (q : SliceReq) : Bool :=
  (s.sliceReqs.takeWhile fun x => x.id ≠ q.id).any fun x =>
    (x.slice = q.slice && x.promoted) || (x.ctx = q.ctx && x.grid = q.grid && x.issuer = q.issuer)

/-- An entry arrives at its home slice (R236): it enters a holding buffer, after the write-out that makes room for it; without room it is refused, as is a lane's 2^32-th (R235). The spec gives that DET_SPILL no DETAIL and no FADDR: here the code 0x66 and the word (log entry 125). -/
def State.detArrive (s : State) (q : SliceReq) : State :=
  let seq := ((s.group? q.key).map fun g => smGet 0 g.detSeq q.lane).getD 0
  if s.detBehind q then s
  else if 2 ^ 32 - 1 ≤ seq then s.detServed q (some ⟨0x66, q.va⟩)
  else
    let (stamp, s) := s.takeId
    let replace (b : DetBuf) : State :=
      match s.writeOut q b with
      | .made s => { s with detBufs := s.detBufs.map fun x => if x = b then q.newBuf seq stamp else x }.detEntered q
      | .waits s => s
      | .refused r => s.detServed q (some r)
    match s.detBufs.find? fun b => b.holds q with
    | some b =>
      if b.entries.length < 16 then
        { s with detBufs := s.detBufs.map fun x =>
          if x = b then { x with entries := insEntry (q.entry seq) x.entries, latest := stamp } else x }.detEntered q
      else replace b
    | none =>
      let mine := s.detBufs.filter fun b => b.slice = q.slice
      if mine.length < 64 then { s with detBufs := s.detBufs ++ [q.newBuf seq stamp] }.detEntered q
      else
        match oldestBuf mine with
        | none => s
        | some b => replace b

/-- DET_ENTRY_ARRIVAL (R236). -/
def execDetEntryArrival (entry : Nat) (s : State) : Host.Outcome State Fault Refusal :=
  match s.sliceReqs.find? fun q => q.id = entry with
  | none => .next s
  | some q => .next (s.detArrive q)

/-- The request has waited 256 cycles at its slice (09 R184). -/
def SliceReq.overdue (q : SliceReq) (now : Nat) : Bool := decide (q.since + 256 ≤ now)

/-- SLICE_WAIT_PROMOTION (09 R184): a request that has waited 256 cycles goes before every other. -/
def execSliceWaitPromotion (req : Nat) (s : State) : Host.Outcome State Fault Refusal :=
  .next { s with sliceReqs := s.sliceReqs.map fun q => if q.id = req && q.overdue s.cycles then { q with promoted := true } else q }

/-- Requests that have been promoted, or have waited long enough to be, are served before anything else reaches their slice; one that cannot be served yet stays promoted (09 R184; log entry 131). -/
def State.sweepPromoted (s : State) : List SliceReq → State
  | [] => s
  | q :: r =>
    (match s.sliceReqs.find? fun (x : SliceReq) => x.id = q.id with
      | some x =>
        if x.promoted || x.overdue s.cycles then
          let x := { x with promoted := true }
          State.detArrive { s with sliceReqs := s.sliceReqs.map fun (y : SliceReq) => if y.id = x.id then x else y } x
        else s
      | none => s).sweepPromoted r

/-! ### Merges (R237) -/

/-- An address that holds entries of a grid. -/
structure DetAddr where
  line : LineRef
  off : Nat
  va : DWord
  deriving DecidableEq, Repr

/-- The addresses that hold entries of a grid, each once. -/
def State.detAddrs (s : State) (ctx grid : Nat) : List DetAddr :=
  let all := (s.detRuns.filter fun r => r.ctx = ctx && r.grid = grid).map (fun r => DetAddr.mk r.line r.off r.va)
    ++ (s.detBufs.filter fun b => b.ctx = ctx && b.grid = grid).map fun b => DetAddr.mk b.line b.off b.va
  all.foldl (fun acc x => if acc.any fun y => y.line.ia = x.line.ia && y.off = x.off then acc else acc ++ [x]) []

/-- The entries of a run, read from its unit. -/
def State.runEntries (s : State) (c : Context) (r : DetRun) : Except EngineTry (List DetEntry) :=
  match s.unitLines c r.unit .engineRead with
  | .error x => .error x
  | .ok ls =>
    let bs := ls.flatMap fun l => s.bytes l.key 0 128
    .ok ((List.range (min 16 (leAt bs 12 1))).map fun i =>
      ⟨leAt bs (128 + 16 * i) 8, leAt bs (136 + 16 * i) 4, r.bfs.getD i false, BitVec.ofNat 32 (leAt bs (140 + 16 * i) 4)⟩)

/-- The entries of runs, or how the first run that cannot be read stands. -/
def State.allRunEntries (s : State) (c : Context) : List DetRun → Except EngineTry (List DetEntry)
  | [] => .ok []
  | r :: rest =>
    match s.runEntries c r with
    | .error x => .error x
    | .ok es =>
      match s.allRunEntries c rest with
      | .error x => .error x
      | .ok more => .ok (es ++ more)

/-- Adds one entry to the word's value (R237). -/
def detAdd (v : Nat) (x : DetEntry) : Nat :=
  let y := x.value.toNat
  if x.bf then
    (fpAdd .bf16 RndCtl.rne (v % 2 ^ 16) (y % 2 ^ 16)).bits + 2 ^ 16 * (fpAdd .bf16 RndCtl.rne (v / 2 ^ 16) (y / 2 ^ 16)).bits
  else (fpAdd .f32 RndCtl.rne v y).bits

/-- How a merge of one address ends. -/
inductive MergeRes where
  | done (s : State)
  | owned (l : Nat)
  | waits (ia : Nat) (cause : Byte)
  | fails (cause : Byte)

/-- Merges the entries of a grid for one address. The spec gives no report for a spill run that cannot be read: here the engine-read code of the fault, with FADDR the word (11 R237; log entry 126). -/
def State.mergeAddr (s : State) (ctx grid : Nat) (a : DetAddr) : MergeRes :=
  let c := (s.ctx? ctx).getD Context.blank
  let mine (ia off ctx' grid' : Nat) : Bool := ctx' = ctx && grid' = grid && ia = a.line.ia && off = a.off
  let runs := s.detRuns.filter fun r => mine r.line.ia r.off r.ctx r.grid
  let bufs := s.detBufs.filter fun b => mine b.line.ia b.off b.ctx b.grid
  match s.engineIa c (a.line.ia * 128) .engineWrite true with
  | .wait ia cause => .waits ia cause
  | .fail cause => .fails cause
  | .ready l =>
    if s.isOwned l then .owned l.own
    else
      match s.allRunEntries c runs with
      | .error (.wait ia cause) => .waits ia cause
      | .error (.fail cause) => .fails cause
      | .error (.ready l) => .owned l.own
      | .ok es =>
        let sorted := (es ++ bufs.flatMap DetBuf.entries).foldl (fun acc x => insEntry x acc) []
        let s := s.recall l.ia
        let v := sorted.foldl detAdd (leNat (s.bytes l.key a.off 4))
        let s := s.putBytes l.key a.off (natLe v 4)
        let s := s.mapCtx ctx fun c => { c with detUnits := c.detUnits.filter fun u => !(runs.any fun r => r.unit = u) }
        .done { s with
          detRuns := s.detRuns.filter fun r => !mine r.line.ia r.off r.ctx r.grid
          detBufs := s.detBufs.filter fun b => !mine b.line.ia b.off b.ctx b.grid }

/-- What a list of merges leaves: the state, the first line owned by an engine, the first page waited on, the first failure. -/
structure MergeAll where
  s : State
  owned : Option Nat
  waits : Option (Nat × Byte)
  fails : Option (Byte × DWord)

/-- Merges addresses in turn; one that waits or fails does not stop the others, and the first failure in the order of the list is reported, which the spec leaves open (11 R238; log entry 127). `late` says that the bound of R255 has passed. -/
def State.mergeList (ctx grid : Nat) (late : Bool) : List DetAddr → MergeAll → MergeAll
  | [], m => m
  | a :: r, m =>
    match m.s.mergeAddr ctx grid a with
    | .done s => State.mergeList ctx grid late r { m with s }
    | .owned l => State.mergeList ctx grid late r { m with owned := m.owned.orElse fun _ => some l }
    | .waits ia cause =>
      if late then State.mergeList ctx grid late r { m with fails := m.fails.orElse fun _ => some (cause, a.va) }
      else State.mergeList ctx grid late r { m with waits := m.waits.orElse fun _ => some (ia, cause) }
    | .fails cause => State.mergeList ctx grid late r { m with fails := m.fails.orElse fun _ => some (cause, a.va) }

/-! ### DSYNC (R238) -/

/-- Since when the word has waited on a page. -/
def Split.pageSince (p : Split) (now : Nat) : Nat :=
  match p.park with
  | .retry (.page _ since) => since
  | _ => now

/-- The merges of a DSYNC: it waits until entries on their way have arrived, then until its merges are written, then acquires at device scope. -/
def syncForm (e : Env) (s : State) (addrs : State → Nat → List DetAddr) : Res :=
  match s.team? e.g.team with
  | none => .next s
  | some t =>
    if s.sliceReqs.any fun q => q.ctx = t.ctx && q.grid = t.grid then .hold .detInFlight
    else
      let since := e.sp.pageSince s.nanos
      let m := State.mergeList t.ctx t.grid (decide (since + (s.ctxOf e.g).engwait ≤ s.nanos)) (addrs s t.grid) ⟨s, none, none, none⟩
      match m.owned, m.waits, m.fails with
      | some l, _, _ => .park m.s (.retry (.merge l))
      | none, some (ia, _), _ => .park (m.s.mirrorIa t.ctx ia) (.retry (.page ia since))
      | none, none, some (cause, va) => .fail m.s (trapAt cause.toNat va.toNat)
      | none, none, none =>
        let d := m.s.doer e.k e.g
        .next (m.s.acquire d.core d.pair .dev)

/-- DSYNC of one address. -/
def execDsync (a : BitVec 7) (s : State) : Host.Outcome State Fault Refusal :=
  issueWord (.dsync a) .committing (fun e s =>
    let va := (e.g.spair a.toNat).toNat
    match s.reachScalar e va 4 .store true with
    | .error f => .trap (f.trap va none)
    | .ok l => syncForm e s fun s grid =>
        ((s.detAddrs e.g.ctx grid).filter fun x => x.line.ia = l.ia && x.off = va % 128).map fun x => { x with va := BitVec.ofNat 64 va }) s

/-- DSYNC.all. -/
def execDsyncAll (s : State) : Host.Outcome State Fault Refusal :=
  issueWord .dsyncAll .committing (fun e s => syncForm e s fun s grid => s.detAddrs e.g.ctx grid) s

end Sys2Proof.Machine
end

