-- ==== Sys2Proof/Machine/Barrier.lean ====
section
/-! DEFINITION. Team barriers and the forms that act on them (12 R257 to R259, 14 R297 to R302, 08 R172). -/

namespace Sys2Proof.Machine

/-! ### The barrier (12 R257, R259) -/

/-- The phase is complete: no arrival and no byte is awaited. -/
def Barrier.complete (b : Barrier) : Bool := b.remain = 0 && b.pend = 0

/-- The barrier after its phase has completed. -/
def Barrier.turn (b : Barrier) : Barrier :=
  { b with lstat := BitVec.ofNat 2 (2 * b2n b.ovr + b2n b.flt), phase := b.phase + 1, remain := b.expect, ovr := false, flt := false }

/-- A destination line of a copy that names the barrier has landed or failed. -/
def Barrier.land (b : Barrier) : Barrier :=
  if b.pend.toNat < 128 then { b with pend := 0, ovr := true } else { b with pend := b.pend - 128 }

/-- An arrival, with its fault status. -/
def Barrier.arrive (b : Barrier) (fault : Bool) : Barrier :=
  let c := if b.remain = 0 then { b with ovr := b.ovr || !b.lax } else { b with remain := b.remain - 1 }
  { c with flt := c.flt || fault }

/-- The 64 bits that BARTEST reads. -/
def Barrier.word (b : Barrier) : DWord :=
  BitVec.ofNat 64 (b2n b.init * 2 ^ 63 + b2n b.lax * 2 ^ 62 + b2n b.flt * 2 ^ 61 + b2n b.ovr * 2 ^ 60 + b.phase.toNat * 2 ^ 52
    + b.expect.toNat * 2 ^ 45 + b.remain.toNat * 2 ^ 38 + b.lstat.toNat * 2 ^ 36 + b.pend.toNat)

/-- The released waiters of a completed phase trap BAR_OVERRUN: strict mode with an overrun. -/
def Barrier.overrun (b : Barrier) : Bool := !b.lax && b.lstat.getLsbD 1

/-- The splits of a group, those that a trap has set aside among them. -/
def Group.allSplits (g : Group) : List Split := g.splits ++ ((g.handler.map SetAside.splits).getD [])

/-- A group of the team is parked on barrier k. -/
def State.parkedOn (s : State) (team k : Nat) : Bool :=
  s.groups.any fun e => e.2.team = team && e.2.allSplits.any fun p => p.park = .barrier k

/-- A split that waits on barrier k, once released. -/
def Split.released (k : Nat) (trapping : Bool) (p : Split) : Split :=
  if p.park ≠ .barrier k then p else if trapping then { p with park := .trapDue 0x7C } else p.advance

/-- Releases one group's splits that wait on barrier k: each wakes with an acquire at team scope, or is to trap (R259). -/
def State.releaseGroup (s : State) (key k : Nat) (trapping : Bool) : State :=
  match s.group? key with
  | none => s
  | some g =>
    if g.allSplits.any fun p => p.park = .barrier k then
      let d := s.doer key g
      let s := if trapping then s else s.acquire d.core d.pair .team
      s.mapGroup key fun g =>
        { g with splits := g.splits.map (Split.released k trapping),
                 handler := g.handler.map fun a => { a with splits := a.splits.map (Split.released k trapping) } }
    else s

/-- Releases the waiters of the phase of barrier k that has completed. -/
def State.releaseWaiters (s : State) (team k : Nat) (trapping : Bool) : State :=
  ((s.groups.filter fun e => e.2.team = team && e.2.glint.isNone).map (·.1)).foldl (fun s key => s.releaseGroup key k trapping) s

/-- An event at barrier k of a team, and the phase step that follows it (R259). -/
def State.barEvent (s : State) (team k : Nat) (f : Barrier → Barrier) : State :=
  match s.team? team with
  | none => s
  | some t =>
    let b := f (t.barrier k)
    if b.complete then
      let b := b.turn
      (s.mapTeam team fun t => t.setBarrier k b).releaseWaiters team k b.overrun
    else s.mapTeam team fun t => t.setBarrier k b

/-- Barrier k of the team of a group. -/
def State.groupBar (s : State) (g : Group) (k : Nat) : Barrier := ((s.team? g.team).map fun t => t.barrier k).getD (newBarrier 1)

/-! ### The barrier forms -/

/-- BARINIT (R298). -/
def execBarinit (k : BitVec 4) (l : BitVec 1) (x : BitVec 7) (s : State) : Host.Outcome State Fault Refusal :=
  issueWord (.barinit k l x) .committing (fun e s =>
    let b := s.groupBar e.g k.toNat
    if b.remain ≠ b.expect || b.pend ≠ 0 || s.parkedOn e.g.team k.toNat then .trap (trapOf 0x79)
    else .next (s.barEvent e.g.team k.toNat fun b =>
      { b with init := true, lax := l = 1, expect := x, remain := x, pend := 0, ovr := false, flt := false, lstat := 0 })) s

/-- BARARR (R299). -/
def execBararr (k : BitVec 4) (d : BitVec 7) (s : State) : Host.Outcome State Fault Refusal :=
  issueWord (.bararr k d) .committing (fun e s =>
    if 1 < e.g.splits.length then .trap (trapOf 0x0E)
    else
      let phase := (s.groupBar e.g k.toNat).phase
      let s := s.release (keyCore e.k) (s.doer e.k e.g).pair .team
      let s := s.mapGroup e.k fun g => g.setS d.toNat (BitVec.ofNat 32 phase.toNat)
      .next (s.barEvent e.g.team k.toNat fun b => b.arrive false)) s

/-- BAREXP (R300). -/
def execBarexp (k : BitVec 4) (a : BitVec 7) (s : State) : Host.Outcome State Fault Refusal :=
  issueWord (.barexp k a) .committing (fun e s =>
    let x := e.g.sreg a.toNat
    if 2 ^ 32 ≤ (s.groupBar e.g k.toNat).pend.toNat + x.toNat then .trap (trapOf 0x7A)
    else .next (s.barEvent e.g.team k.toNat fun b => { b with pend := b.pend + x })) s

/-- BARWAIT (R301). -/
def execBarwait (k : BitVec 4) (a : BitVec 7) (s : State) : Host.Outcome State Fault Refusal :=
  issueWord (.barwait k a) .scalar (fun e s =>
    let b := s.groupBar e.g k.toNat
    let phi : BitVec 8 := BitVec.ofNat 8 (e.g.sreg a.toNat).toNat
    if b.phase = phi then .park s (.barrier k.toNat)
    else if phi = b.phase - 1 && b.overrun then .trap (trapOf 0x7C)
    else
      let d := s.doer e.k e.g
      .next (s.acquire d.core d.pair .team)) s

/-- BARTEST (R302). -/
def execBartest (k : BitVec 4) (d : BitVec 6) (s : State) : Host.Outcome State Fault Refusal :=
  issueWord (.bartest k d) .scalar (fun e s =>
    let w := (s.groupBar e.g k.toNat).word
    let r := s.doer e.k e.g
    .next ((s.acquire r.core r.pair .team).mapGroup e.k fun g => g.setSPair (2 * d.toNat) w)) s

/-- TBAR (08 R172): an arrival that parks until the phase completes. The arrival that completes it is released with the others. -/
def execTbar (k : BitVec 4) (s : State) : Host.Outcome State Fault Refusal :=
  issueWord (.tbar k) .committing (fun e s =>
    if 1 < e.g.splits.length then .trap (trapOf 0x0E)
    else
      let s := (s.release (keyCore e.k) (s.doer e.k e.g).pair .team).mapSplit e.k e.slot fun p => { p with park := .barrier k.toNat }
      .placed (s.barEvent e.g.team k.toNat fun b => b.arrive false)) s

end Sys2Proof.Machine
end

