-- ==== Sys2Proof/Machine/Layout.lean ====
section
/-! DEFINITION. The layout record of the copy unit: its fields, the checks on it, the geometry of box and tile, and the conversion of one destination line (12 R243 to R252). -/

namespace Sys2Proof.Machine

/-! ### Fields (R244) -/

/-- A layout record as a copy uses it: its doublewords, the direction (scratchpad to global), and whether a BREAD reads it. -/
structure Layout where
  r : List DWord
  out : Bool
  bulk : Bool
  deriving DecidableEq, Repr

/-- `n` bits from bit `lo` of doubleword `w`. -/
def Layout.fld (y : Layout) (w lo n : Nat) : Nat := bits (y.r.getD w 0).toNat lo n

def Layout.op (y : Layout) : Nat := y.fld 0 61 3
def Layout.ndim (y : Layout) : Nat := y.fld 0 58 3
def Layout.gbase (y : Layout) : Nat := y.fld 0 0 56
/-- Box origin along a dimension. -/
def Layout.org (y : Layout) (d : Nat) : Nat :=
  match d with
  | 0 => y.fld 1 44 20
  | 1 => y.fld 1 12 20
  | 2 => y.fld 2 44 20
  | 3 => y.fld 2 16 16
  | _ => y.fld 5 48 16
/-- Box extent along a dimension. -/
def Layout.len (y : Layout) (d : Nat) : Nat :=
  1 + match d with
  | 0 => y.fld 1 32 12
  | 1 => y.fld 1 4 8
  | 2 => y.fld 2 36 8
  | 3 => y.fld 2 8 8
  | _ => y.fld 2 0 8
/-- Halo along a dimension. -/
def Layout.halo (y : Layout) (d : Nat) : Nat := if d = 1 then y.fld 1 0 4 else if d = 2 then y.fld 2 32 4 else 0
/-- Stride of a dimension from 1 up. -/
def Layout.stride (y : Layout) (d : Nat) : Nat :=
  match d with
  | 1 => y.fld 3 36 28
  | 2 => y.fld 3 8 28
  | 3 => y.fld 4 36 28
  | _ => y.fld 4 8 28
/-- Tensor extent for the halo: 0 means 65,536. -/
def Layout.ext (y : Layout) (d : Nat) : Nat :=
  let x := if d = 1 then y.fld 5 32 16 else y.fld 5 16 16
  if x = 0 then 65536 else x
def Layout.area (y : Layout) : Nat := y.fld 5 0 16
def Layout.sbase (y : Layout) : Nat := y.fld 6 51 13
def Layout.pitch (y : Layout) : Nat := y.fld 6 39 12
def Layout.rot (y : Layout) : Nat := y.fld 6 35 4
def Layout.gblk (y : Layout) : Bool := y.fld 6 34 1 = 1
def Layout.gt (y : Layout) : Nat := y.fld 6 30 4
def Layout.gcls (y : Layout) : Nat := y.fld 6 28 2
def Layout.sblk (y : Layout) : Bool := y.fld 6 27 1 = 1
def Layout.st (y : Layout) : Nat := y.fld 6 23 4
def Layout.scls (y : Layout) : Nat := y.fld 6 21 2
def Layout.bax (y : Layout) : Nat := y.fld 6 18 3
def Layout.tag (y : Layout) : Nat := y.fld 6 16 2
def Layout.tkeep (y : Layout) : Bool := y.fld 6 15 1 = 1
def Layout.ccls (y : Layout) : Nat := y.fld 6 13 2
def Layout.cen (y : Layout) : Bool := y.fld 6 12 1 = 1
def Layout.thr (y : Layout) : Nat := y.fld 6 9 3
def Layout.rm (y : Layout) : Nat := y.fld 6 6 3
def Layout.rule (y : Layout) : Bool := y.fld 6 5 1 = 1
def Layout.nzc (y : Layout) : Bool := y.fld 6 4 1 = 1
def Layout.sat (y : Layout) : Bool := y.fld 6 3 1 = 1
def Layout.stream (y : Layout) : Word := BitVec.ofNat 32 (y.fld 7 32 32)
def Layout.w (y : Layout) : Nat := y.fld 7 27 5 + 1
def Layout.delta (y : Layout) : Byte := BitVec.ofNat 8 (y.fld 7 19 8)
def Layout.cboff (y : Layout) : Nat := y.fld 7 3 16 * 16

/-- Bytes of a plain type (02 R21). -/
def typeBytes (t : Nat) : Nat :=
  if t = 0 || t = 4 then 1 else if t = 1 || t = 5 || t = 8 || t = 9 then 2 else if t = 3 || t = 7 || t = 11 || t = 13 then 8 else 4

/-- The source side is made of blocks; its class; its type. -/
def Layout.srcBlk (y : Layout) : Bool := if y.out then y.sblk else y.gblk
def Layout.srcCls (y : Layout) : Nat := if y.out then y.scls else y.gcls
def Layout.srcType (y : Layout) : Nat := if y.out then y.st else y.gt
/-- The destination side. -/
def Layout.dstBlk (y : Layout) : Bool := if y.out then y.gblk else y.sblk
def Layout.dstCls (y : Layout) : Nat := if y.out then y.gcls else y.scls
def Layout.dstType (y : Layout) : Nat := if y.out then y.gt else y.st

/-! ### Geometry (R247 to R249) -/

/-- The dimensions other than the row axis, increasing. -/
def Layout.rowDims (y : Layout) : List Nat := (List.range y.ndim).filter fun d => d ≠ y.bax

/-- Extent of a row dimension with its halo. -/
def Layout.rowLen (y : Layout) (d : Nat) : Nat := y.len d + 2 * y.halo d

/-- Elements of a row. -/
def Layout.n (y : Layout) : Nat := y.len y.bax

/-- NR. -/
def Layout.rows (y : Layout) : Nat := y.rowDims.foldl (fun a d => a * y.rowLen d) 1

/-- LPR. -/
def Layout.lpr (y : Layout) : Nat :=
  if y.sblk then (y.n / 32 + clsRpl y.scls - 1) / clsRpl y.scls else (y.n * typeBytes y.st + 127) / 128

/-- Coordinates of a row along the row dimensions: the lowest fastest. -/
def rowCoords (y : Layout) : List Nat → Nat → List (Nat × Int)
  | [], _ => []
  | d :: r, i => (d, (y.org d : Int) - y.halo d + (i % y.rowLen d : Nat)) :: rowCoords y r (i / y.rowLen d)

/-- Coordinate along dimension d of element e of row i. -/
def Layout.coord (y : Layout) (i e d : Nat) : Int :=
  if d = y.bax then (y.org d : Int) + e else ((alGet (rowCoords y y.rowDims i) d).getD 0)

/-- The element lies in the tensor: halo coordinates outside it read as zero (R249). -/
def Layout.inside (y : Layout) (i e : Nat) : Bool :=
  [1, 2].all fun d => decide (y.ndim ≤ d) || decide (y.halo d = 0) || (decide (0 ≤ y.coord i e d) && decide (y.coord i e d < y.ext d))

/-- The sum of the strided coordinates. -/
def Layout.strided (y : Layout) (i e : Nat) : Nat :=
  ((List.range y.ndim).filter fun d => d ≠ 0).foldl (fun a d => a + (y.coord i e d).toNat * y.stride d) 0

/-- position(c) of R247. -/
def Layout.pos (y : Layout) (i e : Nat) : Nat :=
  let c0 := (y.coord i e 0).toNat
  if y.gblk then 32 * (c0 / 32 + y.strided i e) + c0 % 32 else c0 + y.strided i e

/-- tile_line of 09 R194. -/
def tileLine (base pitch rot i j : Nat) : Nat :=
  let m := i % 8 * rot % 16
  base + i * pitch + (j - j % 16) + ((j % 16) ^^^ m)

/-- Line j of row i of the tile. -/
def Layout.tileAt (y : Layout) (i j : Nat) : Nat := tileLine y.sbase y.pitch y.rot i j

/-- Where an element is: a line, and for plain data its byte, for a block its slot and index. Lines are numbered: a global line by its virtual address / 128, a line of the scratchpad by 2^60 and its number. -/
inductive Place where
  | plain (line off : Nat)
  | blk (line slot idx : Nat)
  deriving DecidableEq, Repr

/-- The line of a place. -/
def Place.line : Place → Nat
  | .plain l _ => l
  | .blk l _ _ => l

/-- Place of an element on the global side. -/
def Layout.gPlace (y : Layout) (i e : Nat) : Place :=
  let p := y.pos i e
  if y.gblk then .blk (y.gbase / 128 + p / 32 / clsRpl y.gcls) (p / 32 % clsRpl y.gcls) (p % 32)
  else
    let a := y.gbase + typeBytes y.gt * p
    .plain (a / 128) (a % 128)

/-- Place of an element in the tile. -/
def Layout.tPlace (y : Layout) (i e : Nat) : Place :=
  if y.sblk then .blk (2 ^ 60 + y.tileAt i (e / 32 / clsRpl y.scls)) (e / 32 % clsRpl y.scls) (e % 32)
  else .plain (2 ^ 60 + y.tileAt i (e * typeBytes y.st / 128)) (e * typeBytes y.st % 128)

/-- Source and destination places of an element. -/
def Layout.src (y : Layout) (i e : Nat) : Place := if y.out then y.tPlace i e else y.gPlace i e
def Layout.dst (y : Layout) (i e : Nat) : Place := if y.out then y.gPlace i e else y.tPlace i e

/-- The elements of the box, row by row. -/
def Layout.elems (y : Layout) : List (Nat × Nat) :=
  (List.range y.rows).flatMap fun i => (List.range y.n).map fun e => (i, e)

/-- MOVE of plain data copies lines whole: every global row starts on a line boundary and spans whole lines (R250). -/
def Layout.whole (y : Layout) : Bool :=
  y.op = 0 && !y.gblk && y.bax = 0 && y.n * typeBytes y.gt % 128 = 0 &&
    (List.range y.rows).all fun i => !y.inside i 0 || match y.gPlace i 0 with
      | .plain _ off => off = 0
      | .blk _ _ _ => false

/-! ### Checks (R245, R246, R249, R251, R260) -/

/-- A float type of plain data (R246). -/
def isFloatType (t : Nat) : Bool := t = 8 || t = 9 || t = 10

/-- The destination's tag comes from TAG. -/
def Layout.tagged (y : Layout) : Bool := y.op = 1 || (y.op = 3 && !y.tkeep)

/-- The copy can quantise into CB4. -/
def Layout.intoCb4 (y : Layout) : Bool := y.dstCls = 0 && ((y.tagged && y.tag = 2) || (y.op = 3 && y.tkeep))

/-- The copy names a codebook (R246). -/
def Layout.namesCb (y : Layout) : Bool := y.intoCb4 || ((y.op = 2 || y.op = 3) && y.srcCls = 0)

/-- Step 1 of R245: a reserved bit or code in a field in use. -/
def Layout.reserved (y : Layout) : Bool :=
  y.fld 0 56 2 ≠ 0 || y.fld 3 0 8 ≠ 0 || y.fld 4 0 8 ≠ 0 || y.fld 6 0 3 ≠ 0 || y.fld 7 0 3 ≠ 0
  || 5 ≤ y.op || y.ndim = 0 || 6 ≤ y.ndim || 2 ≤ y.bax
  || (if y.gblk then y.gcls = 3 else 14 ≤ y.gt)
  || (!y.bulk && (if y.sblk then y.scls = 3 else 14 ≤ y.st))
  || (y.cen && y.ccls = 3)
  || (!y.bulk && y.tagged && y.tag = 3)
  || (!y.bulk && (y.op = 1 || y.op = 2 || y.op = 3) && (5 ≤ y.rm || (y.tagged && y.tag = 2 && y.dstCls = 0 && y.rm ≠ 0)))

/-- The formats agree with the conversion (R246). -/
def Layout.agrees (y : Layout) : Bool :=
  (if y.op = 0 then
    y.gblk = y.sblk && (if y.gblk then y.gcls = y.scls && y.bax = 0 else y.gt = y.st) && !y.cen
  else if y.op = 1 then !y.srcBlk && isFloatType y.srcType && y.dstBlk
  else if y.op = 2 then y.srcBlk && !y.dstBlk && isFloatType y.dstType
  else if y.op = 3 then y.srcBlk && y.dstBlk && (!y.tkeep || y.bax = 0)
  else y.srcBlk && y.dstBlk && y.gcls = y.scls && y.bax = 0 && !y.cen)
  && (!y.cen || (y.gblk && y.gcls < y.ccls))

/-- A halo that R249 refuses. -/
def Layout.haloBad (y : Layout) : Bool :=
  [1, 2].any fun d => y.halo d ≠ 0 && (y.out || y.bax ≠ 0 || decide (y.ndim ≤ d) || decide (y.ext d < y.org d + y.len d))

/-- Rows of blocks on the global side start and end at block boundaries (R247). -/
def Layout.gAligned (y : Layout) : Bool := !y.gblk || (y.org 0 % 32 = 0 && y.len 0 % 32 = 0)

/-- A geometry rule of R247 to R249 is broken. -/
def Layout.geometryBad (y : Layout) : Bool :=
  y.haloBad || !y.gAligned || decide (y.ndim ≤ y.bax) || (y.sblk && y.n % 32 ≠ 0) || decide (y.pitch < y.lpr)

/-- Index of the primary line of a block place. -/
def Layout.primary (y : Layout) (p : Place) : Nat := p.line - y.gbase / 128

/-- The primary lines that the box touches, each once. -/
def Layout.primaries (y : Layout) : List Nat := ((y.elems.filter fun x => y.inside x.1 x.2).map fun x => y.primary (y.gPlace x.1 x.2)).eraseDups

/-- The slots of a global block line that the box covers. -/
def Layout.slotsOf (y : Layout) (line : Nat) : List Nat :=
  ((y.elems.filterMap fun x => match y.gPlace x.1 x.2 with
    | .blk l slot _ => if l = line then some slot else none
    | .plain _ _ => none)).eraseDups

/-- A ceiling rule of R251 is broken. -/
def Layout.ceilingBad (y : Layout) : Bool :=
  y.cen && (y.primaries.any fun j => decide (256 * y.area ≤ j) || (y.out && (y.slotsOf (y.gbase / 128 + j)).length ≠ clsRpl y.gcls))

/-- The first cause of steps 1 to 4 of R245 that applies, and FADDR; `cb` is the codebook, when it could be read. -/
def Layout.check (y : Layout) (cb : Option (List Byte)) : Option TrapInfo :=
  let k : Kind := if y.out then .engineWrite else .engineRead
  if y.reserved then some (trapOf 0x07)
  else if y.bulk && (y.op ≠ 0 || 4 < y.ndim || y.bax ≠ 0 || y.halo 1 ≠ 0 || y.halo 2 ≠ 0 || y.cen) then some (trapOf 0x25)
  else if !y.bulk && !y.agrees then some (trapOf 0x21)
  else if (if y.bulk then !y.gAligned else y.geometryBad) then some (trapOf 0x22)
  else if !y.bulk && y.rot ≠ 0 && y.pitch % 16 ≠ 0 then some (trapOf 0x2F)
  else if !y.bulk && y.ceilingBad then some (trapOf 0x23)
  else if !y.bulk && y.intoCb4 && (cb.map cbInvalid).getD false then some (trapOf 0x24)
  else if y.gbase % (if y.gblk then 128 else typeBytes y.gt) ≠ 0 then some ((kindFault 1 0x40 k).trap y.gbase none)
  else if inFixed y.gbase then some ((kindFault 2 0x44 k).trap y.gbase none)
  else none

/-! ### Destination lines -/

/-- Lines of the tile. -/
def Layout.tileLines (y : Layout) : List Nat :=
  (List.range y.rows).flatMap fun i => (List.range y.lpr).map fun j => y.tileAt i j

/-- Global lines that the box touches, by virtual address / 128, each once. -/
def Layout.globalLines (y : Layout) : List Nat :=
  ((y.elems.filter fun x => y.inside x.1 x.2).map fun x => (y.gPlace x.1 x.2).line).eraseDups

/-- The elements that a destination line holds. -/
def Layout.elemsOf (y : Layout) (unit : Nat) : List (Nat × Nat) :=
  if y.out then y.elems.filter fun x => (y.gPlace x.1 x.2).line = (y.globalLines.getD unit 0)
  else
    let i := unit / y.lpr
    let j := unit % y.lpr
    let per := if y.sblk then 32 * clsRpl y.scls else 128 / typeBytes y.st
    (List.range (min per (y.n - j * per))).map fun e => (i, j * per + e)

/-- The number of destination lines. -/
def Layout.units (y : Layout) : Nat := if y.out then y.globalLines.length else y.rows * y.lpr

/-- The lines of a ceiling tensor for primary line j: the line of the map, the byte of it, the bit; the first reserve line (R251). -/
def Layout.mapLine (y : Layout) (j : Nat) : Nat := (y.gbase + 98304 * y.area + j / 8) / 128
def Layout.mapOff (y : Layout) (j : Nat) : Nat := (y.gbase + 98304 * y.area + j / 8) % 128
def Layout.reserveLine (y : Layout) (j : Nat) : Nat := (y.gbase + 32768 * y.area) / 128 + 2 * j

/-! ### Conversion (R250) -/

/-- What a copy has read: a line's 138 bytes by its number. -/
abbrev SrcLines := SMap (List Byte)

/-- The bytes of a source line. -/
def SrcLines.at (m : SrcLines) (l : Nat) : List Byte := smGet [] m l

/-- The map bit of a primary line in the lines read. -/
def Layout.mapBit (y : Layout) (m : SrcLines) (j : Nat) : Bool := bit (byteAt (SrcLines.at m (y.mapLine j)) (y.mapOff j)).toNat (j % 8)

/-- The source block of a place, with its class: in the reserve lines when the map bit is set (R251). -/
def Layout.srcBlock (y : Layout) (m : SrcLines) (l slot : Nat) : Nat × Blk :=
  let j := l - y.gbase / 128
  if y.cen && !y.out && y.mapBit m j then
    let r := clsRpl y.ccls
    (y.ccls, lineBlk y.ccls (SrcLines.at m (y.reserveLine j + slot / r)) (slot % r))
  else (y.srcCls, lineBlk y.srcCls (SrcLines.at m l) slot)

/-- The exact value of a source element: zero outside the tensor. -/
def Layout.value (y : Layout) (m : SrcLines) (cb : List Byte) (x : Nat × Nat) : Fl :=
  if !y.inside x.1 x.2 then .fin false 0 0
  else
    match y.src x.1 x.2 with
    | .plain l off => Fl.ofBits (floatType y.srcType) (leAt (SrcLines.at m l) off (typeBytes y.srcType))
    | .blk l slot i => let b := y.srcBlock m l slot; b.2.value b.1 cb i

/-- The source block that element x lies in. -/
def Layout.blockOf (y : Layout) (m : SrcLines) (x : Nat × Nat) : Blk :=
  if !y.inside x.1 x.2 then Blk.zero
  else
    match y.src x.1 x.2 with
    | .blk l slot _ => (y.srcBlock m l slot).2
    | .plain _ _ => Blk.zero

/-- One destination element of plain data: its bytes and flags. -/
def Layout.plainElem (y : Layout) (m : SrcLines) (cb : List Byte) (seed : DWord) (x : Nat × Nat) : List Byte × BitVec 8 :=
  if y.op = 0 then
    if !y.inside x.1 x.2 then (natLe 0 (typeBytes y.dstType), 0)
    else
      match y.src x.1 x.2 with
      | .plain l off => (slice (SrcLines.at m l) off (typeBytes y.dstType), 0)
      | .blk _ _ _ => ([], 0)
  else
    let word := if y.rm = 4 then flicker seed y.stream (BitVec.ofNat 64 (y.pos x.1 x.2)) else 0
    let r := deliver (floatType y.dstType) ⟨BitVec.ofNat 3 y.rm, word, y.w, y.sat, false⟩ (y.value m cb x, false)
    (natLe r.bits (typeBytes y.dstType), r.flags)

/-- One destination block at class `cls` from its 32 elements. -/
def Layout.blockElem (y : Layout) (m : SrcLines) (cb : List Byte) (seed : DWord) (cls : Nat) (xs : List (Nat × Nat)) : QRes :=
  let x0 := xs.getD 0 (0, 0)
  let b := y.blockOf m x0
  if y.op = 0 then ⟨b, 0, false⟩
  else if y.op = 4 then let r := b.rescale y.delta; ⟨r.1, flagIf r.2 fSAT, false⟩
  else if y.op = 3 && y.tkeep && b.isZero then ⟨Blk.zero, 0, false⟩
  else
    let tag := if y.op = 3 && y.tkeep then b.tag.toNat else y.tag
    quantiseBlock
      { cls, tag, rule := y.rule, mode := BitVec.ofNat 3 y.rm, zc := !y.nzc, seed, stream := y.stream, w := y.w, cb }
      (xs.map (y.value m cb)) fun i => let x := xs.getD i (0, 0); BitVec.ofNat 64 (y.pos x.1 x.2)

/-- The 32 elements of slot j among a line's, in order of their index. -/
def Layout.slotElems (y : Layout) (xs : List (Nat × Nat)) (j : Nat) : List (Nat × Nat) :=
  (List.range 32).filterMap fun i => xs.find? fun x => match y.dst x.1 x.2 with
    | .blk _ s n => s = j && n = i
    | .plain _ _ => false

/-- The slots that a line's elements cover, rising. -/
def Layout.slots (y : Layout) (xs : List (Nat × Nat)) : List Nat :=
  (List.range 8).filter fun j => xs.any fun x => match y.dst x.1 x.2 with
    | .blk _ s _ => s = j
    | .plain _ _ => false

/-- The lines that a destination line's elements are read from; the map lines of a ceiling source come first. -/
def Layout.needs (y : Layout) (xs : List (Nat × Nat)) : List Nat :=
  let ls := ((xs.filter fun x => y.inside x.1 x.2).map fun x => (y.src x.1 x.2).line).eraseDups
  if y.cen && !y.out then (ls.map fun l => y.mapLine (l - y.gbase / 128)).eraseDups else ls

/-- The lines that the blocks of a ceiling source are read from, once the map is known (R251). -/
def Layout.needsMapped (y : Layout) (m : SrcLines) (xs : List (Nat × Nat)) : List Nat :=
  if y.cen && !y.out then
    ((xs.filter fun x => y.inside x.1 x.2).map fun x => match y.src x.1 x.2 with
      | .blk l slot _ =>
        let j := l - y.gbase / 128
        if y.mapBit m j then y.reserveLine j + slot / clsRpl y.ccls else l
      | .plain l _ => l).eraseDups
  else []

/-- A block that TKEEP would quantise to CB4 under a rounding mode other than RNE, which 03 R48 refuses with RESERVED_FIELD (log entry 40). -/
def Layout.cb4Refused (y : Layout) (m : SrcLines) (xs : List (Nat × Nat)) : Bool :=
  y.op = 3 && y.tkeep && y.dstCls = 0 && y.rm ≠ 0 &&
    (y.slots xs).any fun j =>
      let b := y.blockOf m ((y.slotElems xs j).getD 0 (0, 0))
      b.tag = 2 && b.scale ≠ 0xFF

/-- What a destination line becomes: its 138 bytes, the flags, the blocks whose elements saturated. -/
structure LineOut where
  bytes : List Byte
  flags : BitVec 8
  saturated : Nat
  deriving DecidableEq, Repr

/-- A destination line of plain data over the bytes it keeps. -/
def Layout.plainLine (y : Layout) (m : SrcLines) (cb : List Byte) (seed : DWord) (xs : List (Nat × Nat)) (old : List Byte) : LineOut :=
  if y.whole then
    ⟨slice (SrcLines.at m (((xs.filter fun x => y.inside x.1 x.2).map fun x => (y.src x.1 x.2).line).getD 0 (2 ^ 61))) 0 138, 0, 0⟩
  else
    xs.foldl (fun o x =>
      let r := y.plainElem m cb seed x
      let off := match y.dst x.1 x.2 with
        | .plain _ off => off
        | .blk _ _ _ => 0
      ⟨overlay o.bytes off r.1, o.flags ||| r.2, 0⟩) ⟨slice old 0 138, 0, 0⟩

/-- The blocks of a destination line at a class. -/
def Layout.lineBlocks (y : Layout) (m : SrcLines) (cb : List Byte) (seed : DWord) (cls : Nat) (xs : List (Nat × Nat)) : List (Nat × QRes) :=
  (y.slots xs).map fun j => (j, y.blockElem m cb seed cls (y.slotElems xs j))

/-- A destination line of blocks: whole, with canonical zero blocks after its own, or over the slots it keeps. -/
def Layout.blockLineOut (y : Layout) (cls : Nat) (bs : List (Nat × QRes)) (old : List Byte) : LineOut :=
  let whole := !y.out || bs.length = clsRpl cls
  let start := if whole then blockLine cls [] else slice old 0 138
  ⟨bs.foldl (fun l b => putBlk cls l b.1 b.2.blk) start, bs.foldl (fun f b => f ||| b.2.flags) 0, (bs.filter fun b => b.2.saturated).length⟩

/-- A destination line. -/
def Layout.line (y : Layout) (m : SrcLines) (cb : List Byte) (seed : DWord) (xs : List (Nat × Nat)) (old : List Byte) : LineOut :=
  if y.dstBlk then y.blockLineOut y.dstCls (y.lineBlocks m cb seed y.dstCls xs) old else y.plainLine m cb seed xs old

/-- The box covers the destination line whole, so that its old contents are not read (R252, R255). -/
def Layout.covers (y : Layout) (xs : List (Nat × Nat)) : Bool :=
  if y.dstBlk then (y.slots xs).length = clsRpl y.dstCls else xs.length * typeBytes y.dstType = 128

/-! ### Bursts (R260, R262) -/

/-- The lines of a row of a bulk read, with the coordinate along dimension 0 of the first element in each. -/
def Layout.rowBursts (y : Layout) (i : Nat) : List (Nat × Nat) :=
  let first := (y.gPlace i 0).line
  let last := (y.gPlace i (y.n - 1)).line
  (List.range (last + 1 - first)).map fun b =>
    let l := first + b
    (l, ((List.range y.n).find? fun e => (y.gPlace i e).line = l).map (fun e => y.org 0 + e) |>.getD (y.org 0))

/-- The bursts in order: line and coordinates c0 to c3. -/
def Layout.bursts (y : Layout) : List (Nat × List Nat) :=
  (List.range y.rows).flatMap fun i => (y.rowBursts i).map fun b =>
    (b.1, b.2 :: [1, 2, 3].map fun d => if d < y.ndim then (y.coord i 0 d).toNat else 0)

end Sys2Proof.Machine
end

