-- ==== Sys2Proof/Machine/Engine.lean ====
section
/-! DEFINITION. The copy unit, bulk reads and glints: CPY, CPYM, BREAD, GRET and the events of their operations (12 R252 to R256, R260 to R265, 14 R291 to R296). -/

namespace Sys2Proof.Machine

/-! ### Ownership of destination lines -/

/-- The name under which engine writes to a scratchpad line are ordered (09 R196). -/
def sramOwn (core n : Nat) : Nat := 2 ^ 61 + core * 4096 + n

/-- An engine write is issued on a scratchpad line. -/
def State.ownSram (s : State) (core n op : Nat) : State :=
  let s := s.issueLine core n op
  { s with owned := s.owned ++ [(sramOwn core n, op)] }

/-- The name of the line of a virtual address, through the windows alone. -/
def State.ownName (c : Context) (va : Nat) : Option (LineRef × Nat) :=
  if 2 ^ 56 ≤ va then none
  else
    match c.window va with
    | none => none
    | some h =>
      let l : LineRef := match c.podShared h.ia with
        | some sys => ⟨prismKey sys, h.ia / 128⟩
        | none => ⟨0, h.ia / 128⟩
      some (l, l.own)

/-- Takes ownership of the line of a virtual address at an engine operation's issue (10 R216). -/
def State.ownVa (s : State) (c : Context) (va op core : Nat) (pair : Bool) : State :=
  match State.ownName c va with
  | none => s
  | some (l, _) => s.own l op core pair

/-- The operation may finish the line of a virtual address: no engine owns it before it. -/
def State.ownsVa (s : State) (c : Context) (va op : Nat) : Bool :=
  match State.ownName c va with
  | none => true
  | some (_, n) => s.ownerOf n = some op

/-- Ends an operation's ownership of the line of a virtual address. -/
def State.disownVa (s : State) (c : Context) (va op : Nat) : State :=
  match State.ownName c va with
  | none => s
  | some (_, n) => s.disown n op

/-! ### Checks at issue (14 R292, 12 R245) -/

/-- The 64 bytes of the record as doublewords, the offset of the completion record. -/
structure EngineHead where
  record : List DWord
  comp : Nat
  deriving DecidableEq, Repr

/-- Steps 1 to 4 of R292. -/
def State.engineHead (s : State) (e : Env) (t : Team) (p : BitVec 6) (bar : Option Nat) : Except (Hold ⊕ TrapInfo) EngineHead :=
  let roff := (e.g.sreg (2 * p.toNat)).toNat
  let coff := (e.g.sreg (2 * p.toNat + 1)).toNat
  if roff % 64 ≠ 0 then .error (.inr ((kindFault 1 0x40 .engineRead).trap roff none))
  else if coff % 32 ≠ 0 then .error (.inr ((kindFault 1 0x40 .engineWrite).trap coff none))
  else
    match t.line (roff / 128), t.line (coff / 128) with
    | none, _ => .error (.inr ((kindFault 2 0x58 .engineRead).trap roff none))
    | _, none => .error (.inr ((kindFault 2 0x58 .engineWrite).trap coff none))
    | some (rc, rn), some (cc, cn) =>
      let rl := s.lineSt rc rn
      let cl := s.lineSt cc cn
      if rl.poisoned then .error (.inr ((kindFault 5 0x60 .engineRead).trap roff none))
      else if cl.poisoned then .error (.inr ((kindFault 5 0x60 .engineWrite).trap coff none))
      else if !rl.present then .error (.inl (.lines [rc * 4096 + rn]))
      else if !cl.present then .error (.inl (.lines [cc * 4096 + cn]))
      else if (bar.map fun k => !(t.barrier k).init).getD false then .error (.inr (trapOf 0x78))
      else .ok ⟨dwords (s.bytes (sramKey rc rn) (roff % 128) 64) 8, coff⟩

/-- The codebook that a record names, as far as it can be read: none out of range, absent or poisoned. -/
def State.codebook (s : State) (t : Team) (y : Layout) : Option (List Byte) :=
  if y.bulk || !y.namesCb then none
  else
    match t.line (y.cboff / 128) with
    | none => none
    | some (c, n) => if (s.lineSt c n).present then some (s.bytes (sramKey c n) (y.cboff % 128) 16) else none

/-- The scratchpad lines that a record's own team must hold: the tile of a CPY, none of a CPYM or BREAD (R245, R260, 14 R292). -/
inductive TileUse where
  | copy
  | multicast
  | bulk
  deriving DecidableEq, Repr

/-- Step 5 of R245: the tile of a CPY, and the codebook. It does not apply to CPYM, whose codebook outside the allocation reads free bytes (log entry 119). -/
def tileCheck (t : Team) (y : Layout) (u : TileUse) : Option TrapInfo :=
  match (if u = .copy then y.tileLines else []).find? fun n => (t.line n).isNone with
  | some n => some ((kindFault 2 0x58 (if y.out then .engineRead else .engineWrite)).trap (n * 128) none)
  | none =>
    if u ≠ .multicast && !y.bulk && y.namesCb && (t.line (y.cboff / 128)).isNone then some ((kindFault 2 0x58 .engineRead).trap y.cboff none) else none

/-- A named codebook whose line is absent holds the issue; a poisoned one traps. -/
def State.codebookWait (s : State) (t : Team) (y : Layout) : Option (Hold ⊕ TrapInfo) :=
  if y.bulk || !y.namesCb then none
  else
    match t.line (y.cboff / 128) with
    | none => none
    | some (c, n) =>
      if (s.lineSt c n).poisoned then some (.inr ((kindFault 5 0x60 .engineRead).trap y.cboff none))
      else if !(s.lineSt c n).present then some (.inl (.lines [c * 4096 + n]))
      else none

/-- All checks of a copy's record. -/
def State.recordCheck (s : State) (t : Team) (y : Layout) (u : TileUse) : Option (Hold ⊕ TrapInfo) :=
  match y.check (s.codebook t y) with
  | some x => some (.inr x)
  | none =>
    match tileCheck t y u with
    | some x => some (.inr x)
    | none => s.codebookWait t y

/-! ### Issue -/

/-- A copy as it starts. -/
def Env.newCopy (e : Env) (s : State) (id : Nat) (t : Team) (kind : CopyKind) (h : EngineHead) (cb : List Byte) (bar : Option Nat) : CopyOp :=
  { id, kind, core := keyCore e.k, key := e.k, team := t.id, ctx := t.ctx, pc := e.pc, record := h.record, codebook := cb,
    recOff := h.comp, bar, seed := ((s.group? e.k).map Group.seed).getD 0, receivers := [], landed := [], failed := [], waits := [],
    flags := 0, sources := [], badSources := [], lines := 0, fallback := 0, fails := [], lineFailed := false, receiverFailed := false, glintFailed := false }

/-- Counts an operation of an engine on the form's flag (14 R289). -/
def State.pendEngine (s : State) (e : Env) (id : Nat) : State :=
  s.mapGroup e.k fun g =>
    { g with pend := g.pend ++ [{ id, pc := e.pc, flag := e.flag, kind := .engine id, vals := [], sides := [], xflags := 0 }] }

/-- The layout of an operation. -/
def CopyOp.layout (o : CopyOp) : Layout :=
  ⟨o.record, o.kind = .toGlobal, match o.kind with | .bulk _ _ => true | _ => false⟩

/-- The global lines whose ownership a copy takes: destination lines, and for a ceiling tensor the reserve and map lines. -/
def Layout.ownedLines (y : Layout) : List Nat :=
  if y.cen then
    (y.globalLines.flatMap fun l =>
      let j := l - y.gbase / 128
      [l, y.reserveLine j, y.reserveLine j + 1, y.mapLine j]).eraseDups
  else y.globalLines

/-- Starts a CPY: its destination lines are taken. -/
def State.startCopy (s : State) (e : Env) (t : Team) (y : Layout) (h : EngineHead) (bar : Option Nat) : State :=
  let (id, s) := s.takeId
  let o := e.newCopy s id t (if y.out then .toGlobal else .toScratch) h ((s.codebook t y).getD []) bar
  let c := s.ctxOf e.g
  let s := if y.out then y.ownedLines.foldl (fun s l => s.ownVa c (l * 128) id (keyCore e.k) t.pair) s
    else y.tileLines.foldl (fun s n => match t.line n with
      | some (core, m) => s.ownSram core m id
      | none => s) s
  { s with copies := s.copies ++ [o] }.pendEngine e id

/-- CPY (R293). -/
def execCpy (r : BitVec 1) (p : BitVec 6) (k : BitVec 4) (n : BitVec 1) (s : State) : Host.Outcome State Fault Refusal :=
  issueWord (.cpy r p k n) ⟨.once, some false, true⟩ (fun e s =>
    let bar := if n = 1 then none else some k.toNat
    match s.team? e.g.team with
    | none => .trap (kindFault 2 0x58 .engineRead |>.trap 0 none)
    | some t =>
      match s.engineHead e t p bar with
      | .error (.inl h) => .hold h
      | .error (.inr x) => .trap x
      | .ok h =>
        let y : Layout := ⟨h.record, r = 1, false⟩
        match s.recordCheck t y .copy with
        | some (.inl h) => .hold h
        | some (.inr x) => .trap x
        | none =>
          if r = 0 && y.tileLines.contains (h.comp / 128) then .trap (trapOf 0x26)
          else .next (s.startCopy e t y h bar)) s

/-- The team whose barrier a receiver of a multicast arrives at (R256): none when a line of the tile does not fit. R256 speaks of the team whose allocation holds the lines; of two teams of the context, here that of the tile's first line (log entry 133). -/
def State.receiverTeam (s : State) (ctx core : Nat) (lines : List Nat) : Option Team :=
  if lines.all fun n => decide (n < carveLines (s.carveOf core)) && ((s.lineTeam core n).map fun t => decide (t.ctx = ctx)).getD false
  then s.lineTeam core (lines.getD 0 0) else none

/-- Prepares one receiver of a multicast: its index, its core. R254 does not say which line FADDR names when a receiver faults: here the physical offset of the tile's first line (log entry 134). -/
def State.startReceiver (s : State) (id ctx k : Nat) (y : Layout) (idx core : Nat) : State :=
  let lines := y.tileLines
  let all := (List.range lines.length).map fun i => idx * lines.length + i
  let fault (s : State) (cause : Byte) : State := s.mapCopy id fun o =>
    { o with receivers := o.receivers ++ [⟨core, none, true, true⟩], failed := o.failed ++ all, receiverFailed := true,
             fails := o.fails ++ [⟨cause, BitVec.ofNat 64 (lines.getD 0 0 * 128), core⟩] }
  match s.receiverTeam ctx core lines with
  | none => fault s 0x5F
  | some t =>
    if !(t.barrier k).init then
      fault (lines.foldl (fun s n => s.setLineSt core n ⟨false, true, id⟩) s) 0x7B
    else
      (lines.foldl (fun s n => s.ownSram core n id) s).mapCopy id fun o =>
        { o with receivers := o.receivers ++ [⟨core, some t.id, false, false⟩] }

/-- Starts a CPYM. -/
def State.startMulticast (s : State) (e : Env) (t : Team) (y : Layout) (h : EngineHead) (mask : Word) (k : Nat) : State :=
  let (id, s) := s.takeId
  let (n, s) := s.takeTick
  let outside := y.namesCb && (t.line (y.cboff / 128)).isNone
  let cb := if outside then (List.range 16).map (Config.freeByte n) else (s.codebook t y).getD []
  let o := e.newCopy s id t (.multicast mask) h cb (some k)
  let s := { s with copies := s.copies ++ [o] }.pendEngine e id
  let cores := ((List.range 24).filter fun j => mask.getLsbD j).map (clusterCore (keyCore e.k))
  cores.zipIdx.foldl (fun s x => s.startReceiver id t.ctx k y x.2 x.1) s

/-- CPYM (R294). -/
def execCpym (p : BitVec 6) (r : BitVec 7) (k : BitVec 4) (s : State) : Host.Outcome State Fault Refusal :=
  issueWord (.cpym p r k) ⟨.once, some false, true⟩ (fun e s =>
    match s.team? e.g.team with
    | none => .trap (kindFault 2 0x58 .engineRead |>.trap 0 none)
    | some t =>
      match s.engineHead e t p none with
      | .error (.inl h) => .hold h
      | .error (.inr x) => .trap x
      | .ok h =>
        let mask := e.g.sreg r.toNat
        let y : Layout := ⟨h.record, false, false⟩
        if mask = 0 || mask.toNat / 2 ^ 24 ≠ 0 then .trap (trapOf 0x26)
        else
          match s.recordCheck t y .multicast with
          | some (.inl h) => .hold h
          | some (.inr x) => .trap x
          | none => .next (s.startMulticast e t y h mask k.toNat)) s

/-- Step 5 of R292: the handler of a bulk read. Its word is read as a fetch reads it, and waits where an engine owns the line (10 R216). -/
def State.handlerCheck (s : State) (core : Nat) (c : Context) (h : Nat) : Option (Hold ⊕ TrapInfo) :=
  if h % 4 ≠ 0 then some (.inr (trapAt 0x40 h))
  else if decide (2 ^ 56 ≤ h) || inFixed h then some (.inr (trapAt 0x44 h))
  else
    match s.fetchOwned c h with
    | some l => some (.inl (.owned [l]))
    | none =>
      match s.fetchWord core c h with
      | .ok w => if isHeaderWord w then none else some (.inr (trapAt 0x0C h))
      | .error f => some (.inr (f.trap h none))

/-- BREAD (R295). -/
def execBread (p h : BitVec 6) (k : BitVec 4) (s : State) : Host.Outcome State Fault Refusal :=
  issueWord (.bread p h k) ⟨.once, some false, true⟩ (fun e s =>
    match s.team? e.g.team with
    | none => .trap (kindFault 2 0x58 .engineRead |>.trap 0 none)
    | some t =>
      match s.engineHead e t p (some k.toNat) with
      | .error (.inl w) => .hold w
      | .error (.inr x) => .trap x
      | .ok hd =>
        let handler := (e.g.spair (2 * h.toNat)).toNat
        match s.handlerCheck (keyCore e.k) (s.ctxOf e.g) handler with
        | some (.inl w) => .hold w
        | some (.inr x) => .trap x
        | none =>
          let s := s.fetched (keyCore e.k) (s.ctxOf e.g) handler
          let y : Layout := ⟨hd.record, false, true⟩
          match s.recordCheck t y .bulk with
          | some (.inl w) => .hold w
          | some (.inr x) => .trap x
          | none =>
            let (id, s) := s.takeId
            let o := e.newCopy s id t (.bulk (BitVec.ofNat 56 handler) (e.g.spair (2 * p.toNat + 2))) hd [] (some k.toNat)
            .next ({ s with copies := s.copies ++ [o] }.pendEngine e id)) s

/-! ### One line of a copy (R252, R253, R255) -/

/-- Why a line does not land now: it waits for another engine or for presence, it waits for a page (while writing, or reading) at an address, it fails. -/
inductive LineStop where
  | blocked
  | waits (writes : Bool) (faddr : DWord)
  | fails (cause : Byte) (faddr : DWord)
  deriving DecidableEq, Repr

/-- The copy of a number. -/
def State.copy? (s : State) (id : Nat) : Option CopyOp := s.copies.find? fun o => o.id = id

/-- The access of a copy that waits on a page: the read of a source line, or line i's write of a line. -/
def CopyOp.waitKey (i : Nat) (writes : Bool) (va : DWord) : Nat := (if writes then 2 ^ 62 * (i + 1) else 0) + va.toNat / 128

/-- The clock of an access that waits no longer stops. -/
def CopyOp.waitOver (o : CopyOp) (key : Nat) : CopyOp := { o with waits := smDel o.waits key }

/-- The one read of a source line has failed: every line that depends on it fails (R253, R256). -/
def State.sourceFails (s : State) (id l : Nat) (cause : Byte) (va : DWord) : State :=
  s.mapCopy id fun x => { x.waitOver l with badSources := smIns x.badSources l (cause, va) }

/-- Reads one source line whole, once (R252, R253, R256). -/
def State.readSource (s : State) (o : CopyOp) (l : Nat) : State × Option LineStop :=
  let now := (s.copy? o.id).getD o
  if (SrcLines.at now.sources l).length = 138 then (s, none)
  else
    match alGet now.badSources l with
    | some (cause, va) => (s, some (.fails cause va))
    | none =>
      let keep (s : State) (key : Nat) : State := s.mapCopy o.id fun x => { x.waitOver l with sources := smIns x.sources l (s.line key) }
      let fail (cause : Byte) (va : DWord) : State × Option LineStop := (s.sourceFails o.id l cause va, some (.fails cause va))
      if 2 ^ 60 ≤ l then
        match (s.team? o.team).bind fun t => t.line (l - 2 ^ 60) with
        | none => (s, some .blocked)
        | some (core, n) =>
          if (s.lineSt core n).poisoned then fail 0x62 (BitVec.ofNat 64 ((l - 2 ^ 60) * 128))
          else if !(s.lineSt core n).present then (s, some .blocked)
          else (keep s (sramKey core n), none)
      else
        match s.engineLine ((s.ctx? o.ctx).getD Context.blank) (l * 128) .engineRead true with
        | .ready r => if s.readWaits r.own o.id then (s.mapCopy o.id fun x => x.waitOver l, some .blocked) else (keep s r.key, none)
        | .wait _ _ => (s, some (.waits false (BitVec.ofNat 64 (l * 128))))
        | .fail cause => fail cause (BitVec.ofNat 64 (l * 128))

/-- Reads source lines until one stops. -/
def State.readSources (s : State) (o : CopyOp) : List Nat → State × Option LineStop
  | [] => (s, none)
  | l :: r =>
    match s.readSource o l with
    | (s, none) => s.readSources o r
    | x => x

/-- The unit of the geometry that line number i of the operation is: for a multicast each receiver has its own. -/
def CopyOp.unit (o : CopyOp) (i : Nat) : Nat :=
  match o.kind with
  | .multicast _ => i % o.layout.units
  | _ => i

/-- Reads everything that a destination line depends on. -/
def State.readFor (s : State) (o : CopyOp) (i : Nat) : State × Option LineStop :=
  let y := o.layout
  let xs := y.elemsOf (o.unit i)
  match s.readSources o (y.needs xs) with
  | (s, none) => s.readSources o (y.needsMapped (((s.copy? o.id).map CopyOp.sources).getD []) xs)
  | x => x

/-- The number of destination lines of an operation. -/
def CopyOp.total (o : CopyOp) : Nat :=
  let y := o.layout
  match o.kind with
  | .multicast m => y.units * ((List.range 24).filter fun j => m.getLsbD j).length
  | .bulk _ _ => y.bursts.length
  | _ => y.units

/-- Line i of the operation has landed or failed. -/
def CopyOp.done (o : CopyOp) (i : Nat) : Bool := o.landed.contains i || o.failed.contains i

/-- A receiver all of whose lines have landed or failed arrives at its own barrier (R256). -/
def State.receiverDone (s : State) (id i : Nat) : State :=
  match s.copy? id with
  | none => s
  | some o =>
    match o.kind with
    | .multicast _ =>
      let u := o.layout.units
      let idx := i / u
      match o.receivers[idx]? with
      | none => s
      | some r =>
        if r.arrived || !((List.range u).all fun j => o.done (idx * u + j)) then s
        else
          let s := s.mapCopy id fun o => { o with receivers := o.receivers.set idx { r with arrived := true } }
          match r.team, o.bar with
          | some t, some k => s.barEvent t k fun b => b.arrive r.fault
          | _, _ => s
    | _ => s

/-- The barrier and team against which line i counts (R258, R259). -/
def CopyOp.barOf (o : CopyOp) (i : Nat) : Option (Nat × Nat) :=
  match o.kind with
  | .multicast _ => (o.receivers[i / o.layout.units]?).bind fun r => r.team.bind fun t => o.bar.map fun k => (t, k)
  | .bulk _ _ => none
  | _ => o.bar.map fun k => (o.team, k)

/-- What follows a line's landing or failure: it is recorded and counts against PEND. -/
def State.lineEnded (s : State) (id i : Nat) (ok : Bool) (f : CopyOp → CopyOp) : State :=
  let bar := (s.copy? id).bind fun o => o.barOf i
  let s := s.mapCopy id fun o =>
    let o := f { o with waits := o.waits.filter fun w => w.1 / 2 ^ 62 ≠ i + 1 }
    if ok then { o with landed := o.landed ++ [i], lines := o.lines + 1 } else { o with failed := o.failed ++ [i] }
  let s := match bar with
    | some (t, k) => s.barEvent t k Barrier.land
    | none => s
  s.receiverDone id i

/-- The core and line of a scratchpad destination, and the team that must still hold it. -/
def State.tileTarget (s : State) (o : CopyOp) (i : Nat) : Option (Nat × Nat) :=
  let y := o.layout
  match o.kind with
  | .multicast _ =>
    match o.receivers[i / y.units]? with
    | some r => if ((r.team.bind s.team?)).isSome then some (r.core, y.tileLines.getD (o.unit i) 0) else none
    | none => none
  | _ => (s.team? o.team).bind fun t => t.line (y.tileLines.getD (o.unit i) 0)

/-- Ends a multicast's place in the order of a receiver's line, whoever holds the line now. -/
def State.leaveLine (s : State) (o : CopyOp) (i : Nat) : State :=
  match o.kind with
  | .multicast _ =>
    match o.receivers[i / o.layout.units]? with
    | some r => s.disown (sramOwn r.core (o.layout.tileLines.getD (o.unit i) 0)) o.id
    | none => s
  | _ => s

/-- Gathers a line's flags. -/
def CopyOp.gather (o : CopyOp) (l : LineOut) : CopyOp := { o with flags := o.flags ||| l.flags }

/-- Lands a scratchpad line (09 R196). A receiver whose team has ended takes no line. -/
def State.landTile (s : State) (o : CopyOp) (i : Nat) : State × Option LineStop :=
  let y := o.layout
  let m := ((s.copy? o.id).map CopyOp.sources).getD []
  match s.tileTarget o i with
  | none =>
    ((s.leaveLine o i).lineEnded o.id i false fun x =>
      { x with receiverFailed := true,
               receivers := x.receivers.zipIdx.map fun r => if r.2 = i / y.units then { r.1 with fault := true } else r.1 }, none)
  | some (core, n) =>
    if s.ownerOf (sramOwn core n) ≠ some o.id then (s, some .blocked)
    else
      let l := y.line m o.codebook o.seed (y.elemsOf (o.unit i)) (List.replicate 138 0)
      let s := (s.putLine (sramKey core n) l.bytes).finishLine core n o.id true
      ((s.disown (sramOwn core n) o.id).lineEnded o.id i true fun x => x.gather l, none)

/-- Lands a global line (R252). A covered line is not read, so what a poisoned one held does not stay (R255, log entry 39). -/
def State.landGlobal (s : State) (o : CopyOp) (i : Nat) : State × Option LineStop :=
  let y := o.layout
  let m := ((s.copy? o.id).map CopyOp.sources).getD []
  let c := (s.ctx? o.ctx).getD Context.blank
  let va := y.globalLines.getD i 0 * 128
  let xs := y.elemsOf i
  if !s.ownsVa c va o.id then (s, some .blocked)
  else
    match s.engineLine c va .engineWrite (!y.covers xs) with
    | .wait _ _ => (s, some (.waits true (BitVec.ofNat 64 va)))
    | .fail cause => (s, some (.fails cause (BitVec.ofNat 64 va)))
    | .ready r =>
      let old := if s.isPoisoned r.key then List.replicate 138 0 else s.line r.key
      let l := y.line m o.codebook o.seed xs old
      (((s.putLine r.key l.bytes).disownVa c va o.id).lineEnded o.id i true fun x => x.gather l, none)

/-- The first of some lines that an engine write cannot reach now. -/
def State.linesStop (s : State) (c : Context) (id : Nat) : List (Nat × Bool) → Option LineStop
  | [] => none
  | (l, reads) :: r =>
    if !s.ownsVa c (l * 128) id then some .blocked
    else
      match s.engineLine c (l * 128) .engineWrite reads with
      | .wait _ _ => some (.waits true (BitVec.ofNat 64 (l * 128)))
      | .fail cause => some (.fails cause (BitVec.ofNat 64 (l * 128)))
      | .ready _ => s.linesStop c id r

/-- The place of a line that is reached. -/
def State.readyLine (s : State) (c : Context) (l : Nat) : LineRef :=
  match s.engineLine c (l * 128) .engineWrite false with
  | .ready r => r
  | _ => ⟨0, 0⟩

/-- Ends the ownership of primary line i of a ceiling tensor, its reserve lines, and its map line once no unfinished line of the operation shares it. -/
def State.disownCeiling (s : State) (o : CopyOp) (c : Context) (i : Nat) : State :=
  let y := o.layout
  let l := y.globalLines.getD i 0
  let j := l - y.gbase / 128
  let s := [l, y.reserveLine j, y.reserveLine j + 1].foldl (fun s l => s.disownVa c (l * 128) o.id) s
  let others := (List.range y.units).any fun n =>
    n ≠ i && !o.done n && decide (y.mapLine (y.globalLines.getD n 0 - y.gbase / 128) = y.mapLine j)
  if others then s else s.disownVa c (y.mapLine j * 128) o.id

/-- Lands a line of a ceiling tensor: primary line or both reserve lines, then the map bit (R251, 03 R52). A line that falls back keeps the flags of its blocks at C alone; those of the discarded blocks at N do not count (log entry 121). -/
def State.landCeiling (s : State) (o : CopyOp) (i : Nat) : State × Option LineStop :=
  let y := o.layout
  let m := ((s.copy? o.id).map CopyOp.sources).getD []
  let c := (s.ctx? o.ctx).getD Context.blank
  let l := y.globalLines.getD i 0
  let j := l - y.gbase / 128
  let xs := y.elemsOf i
  let primary := y.blockLineOut y.gcls (y.lineBlocks m o.codebook o.seed y.gcls xs) []
  let falls := y.thr < primary.saturated
  let dests := if falls then [y.reserveLine j, y.reserveLine j + 1] else [l]
  match s.linesStop c o.id (dests.map (fun d => (d, false)) ++ [(y.mapLine j, true)]) with
  | some x => (s, some x)
  | none =>
    let bs := y.lineBlocks m o.codebook o.seed y.ccls xs
    let r := clsRpl y.ccls
    let half (h : Nat) : List Byte :=
      (bs.filter fun b => b.1 / r = h).foldl (fun l b => putBlk y.ccls l (b.1 % r) b.2.blk) (blockLine y.ccls [])
    let s := if falls then
        (s.putLine (s.readyLine c (y.reserveLine j)).key (half 0)).putLine (s.readyLine c (y.reserveLine j + 1)).key (half 1)
      else s.putLine (s.readyLine c l).key primary.bytes
    let mk := (s.readyLine c (y.mapLine j)).key
    let old := (byteAt (s.bytes mk (y.mapOff j) 1) 0)
    let b : Byte := BitVec.ofNat 8 (2 ^ (j % 8))
    let s := s.putBytes mk (y.mapOff j) [if falls then old ||| b else old &&& ~~~b]
    let flags := if falls then bs.foldl (fun f b => f ||| b.2.flags) (0 : BitVec 8) else primary.flags
    ((s.disownCeiling o c i).lineEnded o.id i true fun x =>
      { x with flags := x.flags ||| flags, fallback := x.fallback + (if falls then bs.length else 0) }, none)

/-- Lands line i of a copy, its sources read. -/
def State.landLine (s : State) (o : CopyOp) (i : Nat) : State × Option LineStop :=
  if o.kind = .toGlobal then (if o.layout.cen then s.landCeiling o i else s.landGlobal o i) else s.landTile o i

/-- Line i of a copy as it stands: what stops it, and the state after what could be done. -/
def State.tryLine (s : State) (o : CopyOp) (i : Nat) : State × Option LineStop :=
  match s.readFor o i with
  | (s, none) =>
    let y := o.layout
    if y.cb4Refused (((s.copy? o.id).map CopyOp.sources).getD []) (y.elemsOf (o.unit i)) then
      (s, some (.fails 0x07 (BitVec.ofNat 64 (128 * (if o.kind = .toGlobal then y.globalLines.getD i 0 else y.tileLines.getD (o.unit i) 0)))))
    else s.landLine o i
  | x => x

/-- How the writes of line i stand after an attempt: one that has come to wait on a page waits from now on, and asks for the collapse of a mirrored page (19 R370); the clocks of the line's others stop (R255). -/
def State.noteStop (s : State) (id i : Nat) (stop : Option LineStop) : State :=
  let other (key : Nat) (o : CopyOp) : SMap Nat := o.waits.filter fun w => w.1 = key || w.1 / 2 ^ 62 ≠ i + 1
  match stop with
  | some (.waits writes va) =>
    let key := CopyOp.waitKey i writes va
    let s := if writes then s.mirrorHint (((s.copy? id).map CopyOp.ctx).getD 0) va.toNat else s
    s.mapCopy id fun o => { o with waits := if (alGet o.waits key).isSome then other key o else smIns (other key o) key s.nanos }
  | _ => s.mapCopy id fun o => { o with waits := other 0 o }

/-- The read of a source has come to wait on a page: its clock runs from now on. -/
def State.noteRead (s : State) (id : Nat) (va : DWord) : State :=
  s.mapCopy id fun o =>
    let key := CopyOp.waitKey 0 false va
    if (alGet o.waits key).isSome then o else { o with waits := smIns o.waits key s.nanos }

/-- Line i of a copy fails: a scratchpad destination line is poisoned, a global one is left unwritten (R255). -/
def State.failLine (s : State) (o : CopyOp) (i : Nat) (cause : Byte) (faddr : DWord) : State :=
  let y := o.layout
  let c := (s.ctx? o.ctx).getD Context.blank
  let s := if o.kind = .toGlobal then
      (if y.cen then s.disownCeiling o c i else s.disownVa c (y.globalLines.getD i 0 * 128) o.id)
    else
      match s.tileTarget o i with
      | some (core, n) => (s.finishLine core n o.id false).disown (sramOwn core n) o.id
      | none => s.leaveLine o i
  let multi := match o.kind with
    | .multicast _ => true
    | _ => false
  s.lineEnded o.id i false fun x =>
    { x with lineFailed := true, receiverFailed := x.receiverFailed || multi,
             fails := x.fails ++ [⟨cause, faddr, if multi then ((x.receivers[i / y.units]?).map Receiver.core).getD 0 else 0⟩],
             receivers := x.receivers.zipIdx.map fun r => if multi && r.2 = i / y.units then { r.1 with fault := true } else r.1 }

/-! ### Bulk reads (R260, R261) -/

/-- Entries in a core's return buffer. -/
def State.burstsOf (s : State) (core : Nat) : List Burst := (s.bursts.filter fun b => b.1 = core).map (·.2)

/-- Burst n of a bulk read returns into the core's return buffer of 64 lines, or stops. -/
def State.tryBurst (s : State) (o : CopyOp) (n : Nat) : State × Option LineStop :=
  match o.layout.bursts[n]? with
  | none => (s, some .blocked)
  | some (l, coords) =>
    if 64 ≤ (s.burstsOf o.core).length then (s, some .blocked)
    else
      match s.engineLine ((s.ctx? o.ctx).getD Context.blank) (l * 128) .engineRead true with
      | .wait _ _ => (s, some (.waits false (BitVec.ofNat 64 (l * 128))))
      | .fail cause => (s, some (.fails cause (BitVec.ofNat 64 (l * 128))))
      | .ready r =>
        if s.readWaits r.own o.id then (s.mapCopy o.id fun x => x.waitOver l, some .blocked)
        else
          let b : Burst := { op := o.id, burst := n, va := BitVec.ofNat 64 (l * 128), coords, bytes := s.line r.key, log := [], hold := none, cause := none }
          ({ s with bursts := s.bursts ++ [(o.core, b)] }.mapCopy o.id fun x =>
            { x.waitOver l with landed := x.landed ++ [n] }, none)

/-- A line of a bulk read fails: it spawns no glint. -/
def State.failBurst (s : State) (o : CopyOp) (n : Nat) (cause : Byte) (faddr : DWord) : State :=
  s.mapCopy o.id fun x =>
    { x with lineFailed := true, failed := x.failed ++ [n], fails := x.fails ++ [⟨cause, faddr, 0⟩] }

/-- The operation is a bulk read. -/
def CopyOp.isBulk (o : CopyOp) : Bool :=
  match o.kind with
  | .bulk _ _ => true
  | _ => false

/-- A line or burst of an operation as it stands. -/
def State.tryAny (s : State) (o : CopyOp) (i : Nat) : State × Option LineStop :=
  if o.isBulk then s.tryBurst o i else s.tryLine o i

/-- A line or burst of an operation that has not ended. -/
def State.openLine (s : State) (op i : Nat) : Option CopyOp :=
  match s.copy? op with
  | some o => if i < o.total && !o.done i then some o else none
  | none => none

/-! ### Events of copies -/

/-- A destination line of a copy lands, or begins to wait on a page (09 R196, 12 R252). -/
def State.copyLanding (s : State) (op line : Nat) : State :=
  match s.openLine op line with
  | none => s
  | some o =>
    if o.isBulk then s
    else
      let (s, stop) := s.tryLine o line
      s.noteStop op line stop

/-- A line of a copy that meets a fault fails (R255). -/
def State.copyFailure (s : State) (op line : Nat) : State :=
  match s.openLine op line with
  | none => s
  | some o =>
    match s.tryAny o line with
    | (s', some (.fails cause faddr)) => if o.isBulk then s.failBurst o line cause faddr else s'.failLine o line cause faddr
    | _ => s

/-- The accesses to the sources of a line proceed; the lines are read whole, once (R255). -/
def State.copyRetry (s : State) (op line : Nat) : State :=
  match s.openLine op line with
  | none => s
  | some o =>
    match (if o.isBulk then s.tryBurst o line else s.readFor o line) with
    | (s', some (.waits _ va)) => s'.noteRead op va
    | (s', _) => s'

/-- An access of a line of a copy that has waited ENGWAIT on a page fails with ENGINE_TIMEOUT (R255, 16 R319); a source line that it was to read fails every line that depends on it. -/
def State.copyTimeout (s : State) (op line : Nat) : State :=
  match s.openLine op line with
  | none => s
  | some o =>
    match s.tryAny o line with
    | (s', some (.waits w va)) =>
      match alGet o.waits (CopyOp.waitKey line w va) with
      | some since =>
        if since + ((s.ctx? o.ctx).getD Context.blank).engwait ≤ s.nanos then
          if o.isBulk then s.failBurst o line 0x8A va
          else if w then s'.failLine o line 0x89 va
          else (s'.sourceFails op (va.toNat / 128) 0x88 va).failLine o line 0x88 va
        else s
      | none => s
    | _ => s

/-- BURST_RETURN (R261). -/
def execBurstReturn (op burst : Nat) (s : State) : Host.Outcome State Fault Refusal :=
  match s.openLine op burst with
  | none => .next s
  | some o =>
    if !o.isBulk then .next s
    else
      match s.tryBurst o burst with
      | (s', some (.waits _ va)) => .next (s'.noteRead op va)
      | (s', _) => .next s'

/-! ### Glints (R261 to R264) -/

/-- A group that holds nothing: the values of a new group or glint (04 R69). -/
def newGroup (team num ctx width regs : Nat) : Group :=
  { team, num, ctx, width, regs, v := [], side := [], s := [], p := [], xflags := 0, lscale := 0x8F, lsmin := 0x7F,
    lsmax := 0x97, run := 2000, count := 0, seed := 0, splits := [], meet := [], lastSplit := 3, pend := [], region := none,
    buf := [], log := [], replayPos := 0, edge := .none, aborts := 0, abortsAt := 0, replay := none, handler := none, seq := 0,
    imprecise := [], pslot := 0, detSeq := [], mat := ⟨0, 0, 0, 0⟩, colls := [], collCount := 0, remote := none,
    remoteFails := 0, pcls := 0, readyAt := 0, eligible := none, promoted := false, yielded := none, stepDue := none, stopped := false, glint := none }

/-- What an aborted burst waits for has ended. -/
def State.burstReady (s : State) (b : Burst) : Bool :=
  (match b.hold with
    | some (.lines ls) => ls.all fun n => let x := smGet LineState.fresh s.lineState n; x.present || x.poisoned
    | _ => true) &&
  (match b.cause with
    | some (.page ia w) => match s.translate ia with
      | .ok e => !w || e.writable || !e.mirrored
      | .error f => decide (f ≠ .page)
    | _ => true)

/-- The glint that a burst spawns (R262), as a region opened at its handler (R264). -/
def glintOf (o : CopyOp) (b : Burst) (g : Group) (handler : Pc) (arg : DWord) (now id : Nat) : Group :=
  let w (i : Nat) : Word := BitVec.ofNat 32 (leAt b.bytes (4 * i) 4)
  let tags : Word := BitVec.ofNat 32 (leAt b.bytes 136 2)
  let x := newGroup g.team g.num g.ctx 32 16
  let x := (List.range 32).foldl (fun x i => x.setV 0 i (w i)) x
  let x := ((x.setV 1 0 (w 32)).setV 1 1 (w 33)).setV 1 2 tags
  let x := (((x.setS 0 (w 32)).setS 1 (w 33)).setS 2 tags).setS 3 (BitVec.ofNat 32 b.burst)
  let x := b.coords.zipIdx.foldl (fun x c => x.setS (4 + c.2) (BitVec.ofNat 32 c.1)) x
  let x := x.setSPair 8 arg
  let x := { x with seed := o.seed, splits := [newSplit 0 handler (laneMask 32) none], log := b.log, readyAt := now, eligible := some now,
                    glint := some { op := b.op, burst := b.burst, va := b.va, coords := b.coords, bytes := b.bytes, issued := 0 } }
  { x with region := some ⟨id, handler, 0, 0x00030003, x.takeShadow 0x00030003 0 handler, 0, false⟩ }

/-- Removes the i-th entry of a core's return buffer. -/
def dropBurst (core : Nat) : Nat → List (Nat × Burst) → List (Nat × Burst)
  | _, [] => []
  | i, b :: r => if b.1 = core then (if i = 0 then r else b :: dropBurst core (i - 1) r) else b :: dropBurst core i r

/-- GLINT_SPAWN (R261): an entry of a core's return buffer spawns a glint in the lowest free glint slot. -/
def execGlintSpawn (core entry : Nat) (s : State) : Host.Outcome State Fault Refusal :=
  match (s.burstsOf core)[entry]?, (List.range 8).find? fun i => (s.group? (core * 64 + 32 + i)).isNone with
  | some b, some slot =>
    if !s.burstReady b then .next s
    else
      match s.copy? b.op with
      | none => .next s
      | some o =>
        match o.kind, s.group? o.key with
        | .bulk handler arg, some g =>
          let (id, s) := s.takeId
          .next ({ s with bursts := dropBurst core entry s.bursts }.putGroup (core * 64 + 32 + slot) (glintOf o b g handler arg s.cycles id))
        | _, _ => .next s
  | _, _ => .next s

/-! ### GRET (R265) -/

/-- An effect of a glint that finds its line poisoned is not performed; the BREAD learns it. FADDR is the line's virtual address, or its scratchpad offset, without the space code of a location (R254). -/
def State.effectPoisoned (s : State) (op core : Nat) (e : BufEntry) : State :=
  s.mapCopy op fun o => { o with glintFailed := true, fails := o.fails ++ [EngineFail.mk 0x61 (BitVec.ofNat 64 (e.va.toNat % 2 ^ 56 / 128 * 128)) core] }

/-- Performs a glint's buffered effects in order; those whose line is absent or owned are held. The flags they raise. -/
def State.glintEffects (s : State) (d : Doer) (op : Nat) : List BufEntry → BitVec 8 → State × BitVec 8
  | [], f => (s, f)
  | e :: r, f =>
    if s.entryPoisoned e then (s.effectPoisoned op d.core e).glintEffects d op r f
    else if s.entryAbsent e || s.entryOwned e then
      State.glintEffects { s with held := s.held ++ [{ op, entry := e, core := d.core, ctx := d.ctx, team := d.team }] } d op r f
    else
      let (s, f') := s.perform d e
      s.glintEffects d op r (f ||| f')

/-- GRET. R265 does not say whether it waits for a long-latency operation of the glint that has not delivered: here it retires at once, and what such an operation would have delivered or flagged is dropped (log entry 135). -/
def execGret (s : State) : Host.Outcome State Fault Refusal :=
  issueWord .gret .scalar (fun e s =>
    if 1 < e.g.splits.length then .trap (trapOf 0x0E)
    else
      match e.g.glint with
      | none => .trap (trapOf 0x01)
      | some x =>
        let (s, f) := s.glintEffects (s.doer e.k e.g) x.op e.g.buf e.g.xflags
        .placed ((s.mapCopy x.op fun o => { o with flags := o.flags ||| (f &&& 0x3F) }).delGroup e.k)) s

/-- Performs the held effects whose lines have become ready, in order. -/
def State.sweepHeld (s : State) : List HeldEffect → State
  | [] => s
  | h :: r =>
    if s.entryPoisoned h.entry then
      { s.effectPoisoned h.op h.core h.entry with held := s.held.erase h }.sweepHeld r
    else if s.entryAbsent h.entry || s.entryOwned h.entry then s.sweepHeld r
    else
      let (key, grid, pair) := match s.copy? h.op, s.team? h.team with
        | some o, some t => (o.key, t.grid, t.pair)
        | _, _ => (0, 0, false)
      let (s, f) := { s with held := s.held.erase h }.perform ⟨key, h.core, pair, h.team, h.ctx, grid⟩ h.entry
      (s.mapCopy h.op fun o => { o with flags := o.flags ||| (f &&& 0x3F) }).sweepHeld r

/-! ### Completion (R254) -/

/-- Every line has ended, and for a bulk read every glint has retired and every held effect is settled. -/
def State.copyDone (s : State) (o : CopyOp) : Bool :=
  (List.range o.total).all o.done &&
  (!o.isBulk ||
    (s.bursts.all (fun b => b.2.op ≠ o.id) && s.held.all (fun h => h.op ≠ o.id) &&
      s.groups.all fun e => (e.2.glint.map fun x => decide (x.op ≠ o.id)).getD true))

/-- STATUS is 1. -/
def CopyOp.bad (o : CopyOp) : Bool := o.lineFailed || o.receiverFailed || o.glintFailed

/-- The qualifier of COPY_FAULT: which kinds of failure there were. -/
def CopyOp.faultCode (o : CopyOp) : Nat :=
  let n := b2n o.lineFailed + b2n o.receiverFailed + b2n o.glintFailed
  if 1 < n then 0x73 else if o.lineFailed then 0x70 else if o.receiverFailed then 0x71 else 0x72

/-- The completion record; `f` is the failure it describes. Receivers that have ended without a failed line are named by RCORE and RMASK with no CAUSE (R256). -/
def CopyOp.completion (o : CopyOp) (f : EngineFail) : List Byte :=
  let multi := match o.kind with
    | .multicast _ => true
    | _ => false
  let faulty := (o.receivers.filter fun r => r.fault).map fun r => coreJ r.core
  natLe (b2n o.bad) 1 ++ natLe (o.flags.toNat % 64) 1 ++ natLe 0 2 ++ natLe o.lines 4 ++ natLe o.fallback 4
    ++ natLe (if o.bad then f.cause.toNat else 0) 1 ++ natLe (if o.fails = [] then faulty.getD 0 0xFF else if multi && o.bad then coreJ f.core else 0xFF) 1 ++ natLe 0 2
    ++ natLe (if o.bad then f.faddr.toNat else 0) 8 ++ natLe (faulty.foldl (fun m j => m ||| 2 ^ j) 0) 4 ++ natLe 0 4

/-- The operation of an engine has ended: its flag count falls (04 R64). -/
def State.endPend (s : State) (key id : Nat) : State :=
  s.mapGroup key fun g => { g with pend := g.pend.filter fun o => o.kind ≠ .engine id }

/-- COPY_COMPLETION (R254): the completion record, the arrival, the flag, COPY_FAULT, in this order. Which of several failures the record describes is a free value. -/
def execCopyCompletion (op : Nat) (s : State) : Host.Outcome State Fault Refusal :=
  match s.copy? op with
  | none => .next s
  | some o =>
    if !s.copyDone o then .next s
    else
      let (t, s) := s.takeTick
      let f := o.fails.getD (Config.freeNat t % o.fails.length) ⟨0, 0, 0⟩
      let s := match (s.team? o.team).bind fun t => t.line (o.recOff / 128) with
        | some (core, n) => s.putBytes (sramKey core n) (o.recOff % 128) (o.completion f)
        | none => s
      let multi := match o.kind with
        | .multicast _ => true
        | _ => false
      let s := match o.bar with
        | some k => if multi then s else s.barEvent o.team k fun b => b.arrive o.bad
        | none => s
      let s := { s with copies := s.copies.filter fun x => x.id ≠ op }.endPend o.key op
      .next (if o.bad then
        s.raiseImprecise o.key
          { cause := BitVec.ofNat 8 o.faultCode, faddr := f.faddr, origin := BitVec.ofNat 64 o.pc.toNat,
            detail := BitVec.ofNat 64 (f.cause.toNat * 2 ^ 48 + o.recOff * 2 ^ 16), committed := false }
        else s)

end Sys2Proof.Machine
end

