-- ==== Sys2Proof/Machine/MatArray.lean ====
section
/-! DEFINITION. The arithmetic of the matrix array: operand words (13 R268 to R270), blocks as the array reads them (03 R50, 13 R272), the block-pair sum and its one rounding (13 R273, R274), and the cells of accumulator tiles (13 R267). -/

namespace Sys2Proof.Machine

/-! ### Operand words (13 R268) -/

/-- Fields of an operand word. -/
def owRegs (w : DWord) : Bool := bit w.toNat 63
def owCls (w : DWord) : Nat := bits w.toNat 61 2
def owColumn (w : DWord) : Bool := bit w.toNat 60
def owCore (w : DWord) : Nat := bits w.toNat 55 5
def owBase (w : DWord) : Nat := bits w.toNat 43 12
def owPitch (w : DWord) : Nat := bits w.toNat 33 10
def owTpitch (w : DWord) : Nat := bits w.toNat 23 10
def owRot (w : DWord) : Nat := bits w.toNat 19 4
def owOwd (w : DWord) : Nat := bits w.toNat 16 3
def owHl (w : DWord) : Nat := bits w.toNat 12 4
def owSx (w : DWord) : Nat := bits w.toNat 6 6
def owSy (w : DWord) : Nat := bits w.toNat 0 6
/-- With SRC = 1, the first register and the slice. -/
def owReg (w : DWord) : Nat := bits w.toNat 48 7
def owSlice (w : DWord) : Nat := bits w.toNat 47 1

/-- Steps 1 and 2 of R269. -/
def operandTrap (w : DWord) : Option TrapInfo :=
  if owCls w = 3 || decide (6 ≤ owOwd w) || (owRegs w && (bits w.toNat 0 47 ≠ 0 || owColumn w)) then some (trapOf 0x06)
  else if owRegs w then none
  else if owPitch w = 0 || decide (2 * owHl w < owSx w) || decide (2 * owHl w < owSy w)
      || (owColumn w && (owTpitch w ≠ 0 || owOwd w ≠ 0 || owHl w ≠ 0 || owSx w ≠ 0 || owSy w ≠ 0)) then some (trapOf 0x27)
  else if owRot w ≠ 0 && owPitch w % 16 ≠ 0 then some (trapOf 0x2F)
  else none

/-- The stored row that row ρ of a tile is (R270). -/
def storedRow (w : DWord) (r : Nat) : Nat :=
  let ow := 32 / 2 ^ owOwd w
  (r % ow + owSx w) + (r / ow + owSy w) * (ow + 2 * owHl w)

/-- fetch_row of R270: the line on CORE and the slot. -/
def fetchRow (w : DWord) (t k r : Nat) : Nat × Nat :=
  let rpl := clsRpl (owCls w)
  (tileLine (owBase w + t * owTpitch w) (owPitch w) (owRot w) (storedRow w r) (k / rpl), k % rpl)

/-- The place of rec[κ] of column fetch at K-step k (R272). -/
def fetchColumn (w : DWord) (t k i : Nat) : Nat × Nat :=
  let rpl := clsRpl (owCls w)
  (tileLine (owBase w) (owPitch w) (owRot w) (32 * k + i) (t / rpl), t % rpl)

/-- The line and slot of block i of an operand: row or column i, or the stored row κ = i of column fetch. -/
def fetchPlace (w : DWord) (t k i : Nat) : Nat × Nat := if owColumn w then fetchColumn w t k i else fetchRow w t k i

/-- The A operand's word: its rows are read by row fetch whatever ORD holds (14 R305; log entry 120). -/
def rowWord (w : DWord) : DWord := w &&& ~~~(1#64 <<< 60)

/-- The lines that steps k to k + n − 1 of an operand read. -/
def operandLines (w : DWord) (t k n : Nat) : List Nat :=
  if owRegs w then []
  else if owColumn w then (List.range (32 * n)).map fun i => (fetchColumn w t k i).1
  else
    let rpl := clsRpl (owCls w)
    (List.range ((k + n - 1) / rpl + 1 - k / rpl)).flatMap fun j => (List.range 32).map fun r => (fetchRow w t ((k / rpl + j) * rpl) r).1

/-! ### Blocks as the array reads them (03 R50, 13 R272) -/

/-- A block: skipped, a NaN block, or mantissas with local exponents, the sum c + X − 127, the largest |m| of the format and the largest exponent present. -/
inductive ABlk where
  | zero | nan
  | val (els : List (Int × Nat)) (off : Int) (maxM maxE : Nat)
  deriving DecidableEq, Repr

/-- The elements of a block, none when one of them is special. -/
def blkEls (cls : Nat) (cb : List Byte) (b : Blk) : Option (List (Int × Nat)) := b.codes.mapM (matElem (elemFmt cls b.tag.toNat) cb)

/-- A block under row fetch or in registers. -/
def ABlk.of (cls : Nat) (cb : List Byte) (b : Blk) : ABlk :=
  if b.isZero then .zero
  else if b.isNaN then .nan
  else
    let f := elemFmt cls b.tag.toNat
    match blkEls cls cb b with
    | none => .nan
    | some els => .val els (f.c + b.scale.toNat - 127) f.maxM (els.foldl (fun a x => max a x.2) 0)

/-- A block decodes as a NaN block. -/
def decodesNaN (cls : Nat) (cb : List Byte) (b : Blk) : Bool := ABlk.of cls cb b = .nan

/-- Column j of 32 records; none when their tags differ (R272). -/
def columnBlk (cls : Nat) (cb : List Byte) (recs : List Blk) (j : Nat) : Option ABlk :=
  if recs.any (decodesNaN cls cb) then some .nan
  else
    match recs.filter fun b => !b.isZero with
    | [] => some .zero
    | b0 :: r =>
      if r.any fun b => b.tag ≠ b0.tag then none
      else
        let x := r.foldl (fun a b => min a b.scale.toNat) b0.scale.toNat
        let f := elemFmt cls b0.tag.toNat
        let els := recs.map fun b =>
          if b.isZero then (0, 0)
          else
            match matElem f cb (b.codes.getD j 0) with
            | some (m, e) => (m, e + (b.scale.toNat - x))
            | none => (0, 0)
        some (.val els (f.c + x - 127) f.maxM (els.foldl (fun a x => max a x.2) 0))

/-! ### One cell (13 R273, R274) -/

/-- The pair fits the 72-bit window. -/
def pairFits : ABlk → ABlk → Bool
  | .val _ _ ma ea, .val _ _ mb eb => decide (32 * ma * mb * 2 ^ (ea + eb) < 2 ^ 71)
  | _, _ => true

/-- The exact sum D of a pair. -/
def pairSum : List (Int × Nat) → List (Int × Nat) → Int
  | (m, e) :: r, (n, f) :: q => m * n * ((2 ^ (e + f) : Nat) : Int) + pairSum r q
  | _, _ => 0

/-- An accumulator element after one block pair (R274). -/
def cellAdd (g : Int) (a b : ABlk) (acc : Word) : Word :=
  match a, b with
  | .zero, _ => acc
  | _, .zero => acc
  | .nan, _ => 0x7FC00000
  | _, .nan => 0x7FC00000
  | .val x offA _ _, .val y offB _ _ =>
    match Fl.ofBits .f32 acc.toNat with
    | .nan _ => acc
    | v =>
      match (flAdd 0 v (Fl.ofInt false (g * pairSum x y) (offA + offB))).1 with
      | .fin s m e => if m = 0 then 0 else BitVec.ofNat 32 ((roundFl .f32 RndCtl.rne s m e).1.toBits .f32)
      | z => BitVec.ofNat 32 (z.toBits .f32)

/-! ### Accumulator tiles (13 R267) -/

/-- The key of an element of a tile of a core. -/
def accKey (core tile i j : Nat) : Nat := (core * 64 + tile) * 1024 + 32 * i + j

/-- An element of a tile. -/
def State.accGet (s : State) (core tile i j : Nat) : Word := smGet 0 s.acc (accKey core tile i j)

/-- The elements of row i. -/
def State.accRow (s : State) (core tile i : Nat) : List Word := (List.range 32).map (s.accGet core tile i)

/-- Replaces a tile, for a context: every element by a function of its place and value. -/
def State.mapTile (s : State) (core tile ctx : Nat) (f : Nat → Nat → Word → Word) : State :=
  { s with
    acc := (List.range 1024).foldl (fun m n =>
      smPut 0 m (accKey core tile (n / 32) (n % 32)) (f (n / 32) (n % 32) (smGet 0 m (accKey core tile (n / 32) (n % 32))))) s.acc
    accOwner := smIns s.accOwner (core * 64 + tile) ctx }

/-- One K-step on a tile, its 32 A blocks and 32 B blocks given; none when a pair does not fit. -/
def State.kStep (s : State) (core tile ctx : Nat) (g : Int) (a b : List ABlk) : Option State :=
  if a.all fun x => b.all (pairFits x) then
    some (s.mapTile core tile ctx fun i j v => cellAdd g (a.getD i .zero) (b.getD j .zero) v)
  else none

end Sys2Proof.Machine
end

