-- ==== Sys2Proof/Machine/Matrix.lean ====
section
/-! DEFINITION. Matrix operations: the words that queue them, the checks at their issue, the array's K-steps, and batches (13 R269 to R278, R281, R284, 14 R303 to R311). -/

namespace Sys2Proof.Machine

/-! ### Descriptors (13 R281) -/

/-- An epilogue descriptor: its four doublewords, and whether the step merges top-k lists. -/
structure EpiDesc where
  dw : List DWord
  topk : Bool
  deriving DecidableEq, Repr

/-- A field of doubleword i. -/
def EpiDesc.fld (d : EpiDesc) (i lo n : Nat) : Nat := bits (d.dw.getD i 0).toNat lo n
def EpiDesc.out (d : EpiDesc) : Nat := d.fld 0 62 2
def EpiDesc.dest (d : EpiDesc) : Nat := if d.topk then 0 else d.fld 0 60 2
def EpiDesc.ocls (d : EpiDesc) : Nat := d.fld 0 58 2
def EpiDesc.otag (d : EpiDesc) : Nat := d.fld 0 56 2
def EpiDesc.rm (d : EpiDesc) : BitVec 3 := BitVec.ofNat 3 (d.fld 0 53 3)
def EpiDesc.rule (d : EpiDesc) : Bool := d.fld 0 52 1 = 1
def EpiDesc.nzc (d : EpiDesc) : Bool := d.fld 0 51 1 = 1
def EpiDesc.sat (d : EpiDesc) : Bool := d.fld 0 50 1 = 1
def EpiDesc.clr (d : EpiDesc) : Bool := d.fld 0 49 1 = 1
def EpiDesc.bias (d : EpiDesc) : Bool := d.fld 0 48 1 = 1
def EpiDesc.norm (d : EpiDesc) : Bool := d.fld 0 47 1 = 1
def EpiDesc.chk (d : EpiDesc) : Bool := d.fld 0 46 1 = 1
def EpiDesc.sel (d : EpiDesc) : Bool := d.fld 0 45 1 = 1
def EpiDesc.k (d : EpiDesc) : Nat := d.fld 0 41 4 + 1
def EpiDesc.slot0 (d : EpiDesc) : Nat := d.fld 0 38 3
def EpiDesc.scale (d : EpiDesc) : Nat := d.fld 0 0 32
def EpiDesc.daddr (d : EpiDesc) : Nat := d.fld 1 0 56
def EpiDesc.sbase (d : EpiDesc) : Nat := d.fld 1 0 12
def EpiDesc.pitch (d : EpiDesc) : Nat := d.fld 1 12 12
def EpiDesc.rot (d : EpiDesc) : Nat := d.fld 1 24 4
def EpiDesc.bline (d : EpiDesc) : Nat := d.fld 2 52 12
def EpiDesc.rline (d : EpiDesc) : Nat := d.fld 2 40 12
def EpiDesc.cline (d : EpiDesc) : Nat := d.fld 2 28 12
def EpiDesc.rstep (d : EpiDesc) : Nat := d.fld 2 0 28
def EpiDesc.caddr (d : EpiDesc) : Nat := d.fld 3 0 64
def EpiDesc.col0 (d : EpiDesc) : Nat := d.fld 3 0 32

/-- The rows go to the team scratchpad. -/
def EpiDesc.inScratch (d : EpiDesc) : Bool := d.dest = 0
/-- The rows are blocks. -/
def EpiDesc.blocks (d : EpiDesc) : Bool := !d.topk && d.out = 2

/-- The team-relative lines of the 32 rows in scratchpad. -/
def rowLines (base pitch rot : Nat) : List Nat := (List.range 32).map fun i => tileLine base pitch rot i 0

/-- The team-relative lines that the step reads. -/
def EpiDesc.readLines (d : EpiDesc) : List Nat := (if d.bias then [d.bline] else []) ++ (if d.norm then [d.rline, d.cline] else [])

/-- A reserved value in a field in use. -/
def EpiDesc.reserved (d : EpiDesc) : Bool :=
  d.fld 0 32 6 ≠ 0 || decide (4 ≤ d.rm.toNat)
  || (!d.topk && (d.out = 3 || d.fld 0 60 2 = 3 || d.ocls = 3 || d.otag = 3))
  || (if d.inScratch then d.fld 1 28 36 ≠ 0 else d.fld 1 56 8 ≠ 0)
  || (d.topk && d.fld 3 32 32 ≠ 0)

/-- A combination of fields that R281 or R308 refuses; `dist` says that the step is MDIST's. -/
def EpiDesc.clash (d : EpiDesc) (dist : Bool) : Bool :=
  (d.norm && !dist) || (d.topk && d.chk)
  || (!d.topk &&
      ((d.out = 2 && decide (clsRpl d.ocls ≤ d.slot0)) || (d.otag = 2 && d.ocls = 0)
       || (d.out ≠ 2 && d.dest ≠ 0 && d.rstep % 128 ≠ 0)))

/-- The first line outside the team's allocation, as a trap. -/
def scratchTrap (t : Team) (k : Kind) (ls : List Nat) : Option TrapInfo :=
  (ls.find? fun n => (t.line n).isNone).map fun n => (kindFault 2 0x58 k).trap (n * 128) none

/-- The checks of a descriptor at issue. -/
def EpiDesc.check (d : EpiDesc) (t : Team) (dist : Bool) : Option TrapInfo :=
  if d.reserved then some (trapOf 0x07)
  else if d.clash dist then some (trapOf 0x2B)
  else if d.inScratch && d.rot ≠ 0 && d.pitch % 16 ≠ 0 then some (trapOf 0x2F)
  else if !d.inScratch && d.daddr % 128 ≠ 0 then some ((kindFault 1 0x40 .engineWrite).trap d.daddr none)
  else if d.chk && d.caddr % 8 ≠ 0 then some ((kindFault 1 0x40 .engineWrite).trap d.caddr none)
  else if !d.inScratch && inFixed d.daddr then some ((kindFault 2 0x44 .engineWrite).trap d.daddr none)
  else if d.chk && inFixed d.caddr then some ((kindFault 2 0x44 .engineWrite).trap d.caddr none)
  else
    match (if d.inScratch then scratchTrap t .engineWrite (rowLines d.sbase d.pitch d.rot) else none) with
    | some x => some x
    | none => scratchTrap t .engineRead d.readLines

/-- Reads a descriptor at a team offset (R281, 14 R307), or says why it cannot be read or used. -/
def State.descriptor (s : State) (t : Team) (off : Nat) (topk dist : Bool) : Except (Hold ⊕ TrapInfo) EpiDesc :=
  if off % 32 ≠ 0 then .error (.inr ((kindFault 1 0x40 .engineRead).trap off none))
  else
    match t.line (off / 128) with
    | none => .error (.inr ((kindFault 2 0x58 .engineRead).trap off none))
    | some (c, n) =>
      if (s.lineSt c n).poisoned then .error (.inr ((kindFault 5 0x60 .engineRead).trap off none))
      else if !(s.lineSt c n).present then .error (.inl (.lines [c * 4096 + n]))
      else
        let d : EpiDesc := ⟨dwords (s.bytes (sramKey c n) (off % 128) 32) 4, topk⟩
        match d.check t dist with
        | some x => .error (.inr x)
        | none => .ok d

/-- The descriptor of an operation. -/
def MatOp.epi (o : MatOp) : Option EpiDesc := o.desc.map fun d => ⟨d, o.topk⟩

/-! ### Global rows (13 R283) -/

/-- The line of a row in global or peer memory, and for a block its slot. -/
def EpiDesc.rowAt (d : EpiDesc) (i : Nat) : Nat × Nat :=
  if d.blocks then
    let b := d.slot0 + i * d.rstep
    (d.daddr + 128 * (b / clsRpl d.ocls), b % clsRpl d.ocls)
  else (d.daddr + i * d.rstep, 0)

/-! ### Failure (13 R278) -/

/-- Every engine write that an operation has still to perform fails. -/
def State.failRows (s : State) (o : MatOp) : State :=
  let c := (s.ctx? o.ctx).getD Context.blank
  let left := (List.range 32).filter fun i => !o.delivered.contains i
  let scratch (s : State) (ls : List Nat) : State :=
    left.foldl (fun s i =>
      match (s.team? o.team).bind fun t => t.line (ls.getD i 0) with
      | some (core, n) => (s.finishLine core n o.id false).disown (sramOwn core n) o.id
      | none => s) s
  match o.kind, o.epi with
  | .store w, _ => scratch s (rowLines (bits w.toNat 0 12) (bits w.toNat 12 12) (bits w.toNat 24 4))
  | _, some d =>
    if d.inScratch then scratch s (rowLines d.sbase d.pitch d.rot)
    else left.foldl (fun s i => s.disownVa c (d.rowAt i).1 o.id) s
  | _, none => s

/-- The push of a row has ended: its cost is credited (19 R360). -/
def State.endPush (s : State) (p : PushPass) : State :=
  { s with pushes := s.pushes.filter fun x => !(x.op = p.op && x.row = p.row) }.credit p.core p.cls p.cost

/-- Removes an operation from the queue, with its place in the wait orders and the pushes that it still has out. -/
def State.dropMat (s : State) (id : Nat) : State :=
  let s := (s.pushes.filter fun p => p.op = id).foldl State.endPush s
  { s with matOps := s.matOps.filter fun o => o.id ≠ id }.leaveOp id

/-- The flags that an operation leaves to its batch (R282). -/
def State.batchRaise (s : State) (o : MatOp) : State :=
  if o.flags = 0 then s
  else if s.batchFlags.any fun b => b.q = o.q && b.batch = o.batch then
    { s with batchFlags := s.batchFlags.map fun b => if b.q = o.q && b.batch = o.batch then { b with flags := b.flags ||| o.flags } else b }
  else { s with batchFlags := s.batchFlags ++ [⟨o.q, o.batch, o.key, o.flags⟩] }

/-- The batch of an operation has failed. -/
def State.batchFailed (s : State) (q batch : Nat) : Bool := s.batchFails.any fun b => b.q = q && b.batch = batch

/-- An operation fails: the rest of its batch is discarded with it. -/
def State.failMat (s : State) (o : MatOp) (fault cause : Byte) : State :=
  let s := if s.batchFailed o.q o.batch then s
    else { s with batchFails := s.batchFails ++ [⟨o.q, o.batch, o.key, fault, cause, o.pc⟩] }
  let rest := (s.matOps.dropWhile fun x => x.id ≠ o.id).filter fun x => x.q = o.q && x.batch = o.batch
  rest.foldl (fun s x => ((s.batchRaise x).failRows x).dropMat x.id) s

/-- The operation has ended. -/
def State.endMat (s : State) (o : MatOp) : State := (s.batchRaise o).dropMat o.id

/-- Replaces an operation by `f` of it. -/
def State.mapMat (s : State) (id : Nat) (f : MatOp → MatOp) : State :=
  { s with matOps := s.matOps.map fun o => if o.id = id then f o else o }

/-- The matrix operation of a number. -/
def State.mat? (s : State) (id : Nat) : Option MatOp := s.matOps.find? fun o => o.id = id

/-! ### Matrix contexts (13 R275, R284) -/

/-- The matrix context of a number: a set's, or a group's own. -/
def State.matCtx (s : State) (q : Nat) : Option MatCtx :=
  match (s.teams.flatMap Team.sets).find? fun c => c.mat.id = q with
  | some c => some c.mat
  | none => (s.groups.find? fun e => e.2.glint.isNone && e.2.mat.id = q).map fun e => e.2.mat

/-- Replaces a matrix context by `f` of it. -/
def State.mapMatCtx (s : State) (q : Nat) (f : MatCtx → MatCtx) : State :=
  { s with
    teams := s.teams.map fun t => { t with sets := t.sets.map fun c => if c.mat.id = q then { c with mat := f c.mat } else c }
    groups := s.groups.map fun e => if e.2.glint.isNone && e.2.mat.id = q then (e.1, { e.2 with mat := f e.2.mat }) else e }

/-! ### Issue -/

/-- The group is a member of a set and not its leader (07 R144). -/
def State.notLeader (s : State) (g : Group) : Bool :=
  match s.setOf g with
  | some c => decide (c.members.head? ≠ some g.num)
  | none => false

/-- Issues a matrix form: by a leader or a lone group, with its team. -/
def matWord (i : Instr) (commits : Bool) (f : Env → Team → State → Res) (s : State) : Host.Outcome State Fault Refusal :=
  issueWord i ⟨.once, none, commits⟩ (fun e s =>
    if s.notLeader e.g then .trap (trapOf 0x0F)
    else
      match s.team? e.g.team with
      | none => .trap (kindFault 2 0x58 .engineRead |>.trap 0 none)
      | some t => f e t s) s

/-- An operation as it is queued. -/
def Env.newMat (e : Env) (s : State) (t : Team) (id : Nat) (kind : MatKind) (acc : Nat) : MatOp :=
  let m := s.matOf e.g
  { id, core := keyCore e.k, q := m.id, batch := m.closed, key := e.k, team := t.id, ctx := t.ctx, pc := e.pc, kind, acc,
    desc := none, topk := false, regsA := [], regsB := [], regReads := [], bookA := none, bookB := none, sources := [], step := 0, stepsDone := false, rows := [], converted := false,
    delivered := [], counted := false, waits := [], flags := 0 }

/-- The routing register as the epilogue step of an operation queued now will read it: the last MROUTE queued before it, or the register as it stands (13 R284, 14 R309). -/
def State.routingAhead (s : State) (o : MatOp) : DWord :=
  (s.matOps.takeWhile fun x => x.id ≠ o.id).foldl (fun r x => match x.kind with
    | .route v => if x.q = o.q then v else r
    | _ => r) (((s.matCtx o.q).map MatCtx.routing).getD 0)

/-- The rows of an operation are lines of this device: a global delivery, or a push to class 0 to 2 (13 R283, 19 R358). -/
def State.rowsHere (s : State) (o : MatOp) (d : EpiDesc) : Bool :=
  let r := (s.routingAhead o).toNat
  d.dest = 1 || (d.dest = 2 && bit r 63 && decide (r % 64 < 3))

/-- Takes the lines that an operation will write (10 R216, 14 R307). -/
def State.takeRows (s : State) (t : Team) (o : MatOp) : State :=
  let c := (s.ctx? o.ctx).getD Context.blank
  let scratch (s : State) (ls : List Nat) : State :=
    ls.foldl (fun s n => match t.line n with
      | some (core, m) => s.ownSram core m o.id
      | none => s) s
  match o.kind, o.epi with
  | .store w, _ => scratch s (rowLines (bits w.toNat 0 12) (bits w.toNat 12 12) (bits w.toNat 24 4))
  | _, some d =>
    if d.inScratch then scratch s (rowLines d.sbase d.pitch d.rot)
    else if s.rowsHere o d then (List.range 32).foldl (fun s i => s.ownVa c (d.rowAt i).1 o.id o.core t.pair) s
    else s
  | _, none => s

/-- Queues an operation; one whose batch has failed is discarded at once. -/
def State.queueMat (s : State) (e : Env) (t : Team) (kind : MatKind) (acc : Nat) (f : MatOp → MatOp) : State :=
  let (id, s) := s.takeId
  let o := f (e.newMat s t id kind acc)
  let s := { s with matOps := s.matOps ++ [o] }.takeRows t o
  if s.batchFailed o.q o.batch then (s.failRows o).dropMat id else s

/-- MZERO (R304). -/
def execMzero (t : BitVec 6) (s : State) : Host.Outcome State Fault Refusal :=
  matWord (.mzero t) true (fun e m s => .next (s.queueMat e m .zero t.toNat id)) s

/-- The checks of a tile word (R304). -/
def tileWordTrap (m : Team) (w : Word) (k : Kind) : Option TrapInfo :=
  let base := bits w.toNat 0 12
  let pitch := bits w.toNat 12 12
  let rot := bits w.toNat 24 4
  if bits w.toNat 28 4 ≠ 0 then some (trapOf 0x06)
  else if pitch = 0 then some (trapOf 0x2C)
  else if rot ≠ 0 && pitch % 16 ≠ 0 then some (trapOf 0x2F)
  else scratchTrap m k (rowLines base pitch rot)

/-- MLDA (R304). -/
def execMlda (t : BitVec 6) (a : BitVec 7) (s : State) : Host.Outcome State Fault Refusal :=
  matWord (.mlda t a) true (fun e m s =>
    let w := e.g.sreg a.toNat
    match tileWordTrap m w .engineRead with
    | some x => .trap x
    | none => .next (s.queueMat e m (.load w) t.toNat id)) s

/-- MSTA (R304). -/
def execMsta (t : BitVec 6) (a : BitVec 7) (s : State) : Host.Outcome State Fault Refusal :=
  matWord (.msta t a) true (fun e m s =>
    let w := e.g.sreg a.toNat
    match tileWordTrap m w .engineWrite with
    | some x => .trap x
    | none => .next (s.queueMat e m (.store w) t.toNat id)) s

/-- Line n of a core is in its share and in an allocation of the context (09 R198). -/
def State.clusterLine (s : State) (ctx core n : Nat) : Bool :=
  decide (n < carveLines (s.carveOf core)) && ((s.lineTeam core n).map fun t => decide (t.ctx = ctx)).getD false

/-- Step 3 of R269 for the steps of a loop. -/
def State.windowTrap (s : State) (e : Env) (w : DWord) (t k n : Nat) : Option TrapInfo :=
  if owRegs w then none
  else if 24 ≤ owCore w then some ((kindFault 2 0x5C .engineRead).trap (owCore w * 2 ^ 19) none)
  else
    ((operandLines w t k n).find? fun l => !s.clusterLine e.g.ctx (clusterCore (keyCore e.k) (owCore w)) l).map fun l =>
      (kindFault 2 0x5C .engineRead).trap (owCore w * 2 ^ 19 + l * 128) none

/-- The members whose registers a loop reads, with their places: those of the set, or the group alone (R271). -/
def State.memberGroups (s : State) (e : Env) : List (Nat × Group) :=
  match s.setOf e.g with
  | some c => c.members.filterMap fun n => s.groups.find? fun x => x.2.glint.isNone && x.2.team = e.g.team && x.2.num = n
  | none => [(e.k, e.g)]

/-- The members alone. -/
def State.members (s : State) (e : Env) : List Group := (s.memberGroups e).map (·.2)

/-- The register tiles that a loop of n steps reads, one for each step. -/
def regTiles (ms : List Group) (w : DWord) (n : Nat) : List (List Blk) :=
  (ms.take n).map fun g => (List.range 32).map fun i => g.regBlock (owCls w) (owReg w + i) (owSlice w)

/-- The checks of R271. -/
def regTrap (ms : List Group) (g : Group) (w : DWord) (n : Nat) : Option TrapInfo :=
  if !owRegs w then none
  else if owReg w % 32 ≠ 0 || decide (128 ≤ owReg w) || g.width = 16 || (owSlice w = 1 && g.width = 32) || decide (g.regs < owReg w + 32)
      || decide (ms.length < n) || (owCls w = 0 && (regTiles ms w n).any fun t => t.any fun b => b.tag = 2) then some (trapOf 0x28)
  else none

/-- Which group's registers each step of a loop of n steps reads; `ks` are the members' places (R271). -/
def regReadsOf (ks : List Nat) (w : DWord) (n : Nat) : List RegRead :=
  if owRegs w then (ks.take n).zipIdx.map fun x => ⟨x.2, x.1, owReg w⟩ else []

/-- Register tiles as an operation keeps them. No member's write to them lands before the step that reads them, so the values at issue are those that the step reads. -/
def keepTiles (ts : List (List Blk)) : List (List (Byte × BitVec 2 × List Nat)) := ts.map fun t => t.map fun b => (b.scale, b.tag, b.codes)

/-- The loop word's fields (R305). -/
def lwCount (w : DWord) : Nat := bits w.toNat 48 16 + 1
def lwTa (w : DWord) : Nat := bits w.toNat 42 6
def lwTb (w : DWord) : Nat := bits w.toNat 36 6
def lwTopk (w : DWord) : Bool := bit w.toNat 35
def lwKa (w : DWord) : Nat := bits w.toNat 16 16
def lwKb (w : DWord) : Nat := bits w.toNat 0 16

/-- The checks of a loop at issue, in order. -/
def State.loopTrap (s : State) (e : Env) (a b lw : DWord) (dist : Bool) : Option TrapInfo :=
  let n := lwCount lw
  let ms := s.members e
  match operandTrap a with
  | some x => some x
  | none =>
    match s.windowTrap e (rowWord a) (lwTa lw) (lwKa lw) n with
    | some x => some x
    | none =>
      match operandTrap b with
      | some x => some x
      | none =>
        match s.windowTrap e b (lwTb lw) (lwKb lw) n with
        | some x => some x
        | none =>
          if bits lw.toNat 32 3 ≠ 0 || (!dist && lwTopk lw) then some (trapOf 0x06)
          else
            match regTrap ms e.g a n with
            | some x => some x
            | none => regTrap ms e.g b n

/-- Queues a loop with its operands. -/
def State.queueLoop (s : State) (e : Env) (m : Team) (t : Nat) (a b lw : DWord) (dist : Bool) (d : Option EpiDesc) : State :=
  let ms := s.members e
  let n := lwCount lw
  s.queueMat e m (.loop a b lw dist) t fun o =>
    { o with desc := d.map EpiDesc.dw, topk := (d.map EpiDesc.topk).getD false,
             regsA := if owRegs a then keepTiles (regTiles ms a n) else [],
             regsB := if owRegs b then keepTiles (regTiles ms b n) else [],
             regReads := regReadsOf ((s.memberGroups e).map (·.1)) a n ++ regReadsOf ((s.memberGroups e).map (·.1)) b n }

/-- MLOOP (R305). -/
def execMloop (t p q : BitVec 6) (s : State) : Host.Outcome State Fault Refusal :=
  matWord (.mloop t p q) true (fun e m s =>
    let a := e.g.spair (2 * p.toNat)
    let b := e.g.spair (2 * q.toNat)
    let lw := e.g.spair (2 * q.toNat + 2)
    match s.loopTrap e a b lw false with
    | some x => .trap x
    | none => .next (s.queueLoop e m t.toNat a b lw false none)) s

/-- MDIST (R306). -/
def execMdist (t p q : BitVec 6) (s : State) : Host.Outcome State Fault Refusal :=
  matWord (.mdist t p q) true (fun e m s =>
    let a := e.g.spair (2 * p.toNat)
    let b := e.g.spair (2 * q.toNat)
    let lw := e.g.spair (2 * q.toNat + 2)
    match s.loopTrap e a b lw true with
    | some x => .trap x
    | none =>
      match s.descriptor m (e.g.sreg (2 * q.toNat + 4)).toNat (lwTopk lw) true with
      | .error (.inl h) => .hold h
      | .error (.inr x) => .trap x
      | .ok d => .next (s.queueLoop e m t.toNat a b lw true (some d))) s

/-- Queues an epilogue. -/
def State.queueEpilogue (s : State) (e : Env) (m : Team) (t : Nat) (a : BitVec 7) (topk : Bool) : Res :=
  match s.descriptor m (e.g.sreg a.toNat).toNat topk false with
  | .error (.inl h) => .hold h
  | .error (.inr x) => .trap x
  | .ok d => .next (s.queueMat e m .epilogue t fun o => { o with desc := some d.dw, topk, stepsDone := true })

/-- MTOPK (R308). -/
def execMtopk (t : BitVec 6) (a : BitVec 7) (s : State) : Host.Outcome State Fault Refusal :=
  matWord (.mtopk t a) true (fun e m s => s.queueEpilogue e m t.toNat a true) s

/-- MEPI (R307). -/
def execMepi (t : BitVec 6) (a : BitVec 7) (s : State) : Host.Outcome State Fault Refusal :=
  matWord (.mepi t a) true (fun e m s => s.queueEpilogue e m t.toNat a false) s

/-- MROUTE (R309). -/
def execMroute (a : BitVec 7) (s : State) : Host.Outcome State Fault Refusal :=
  matWord (.mroute a) true (fun e m s =>
    let w := (e.g.sreg a.toNat).toNat
    if bits w 6 25 ≠ 0 then .trap (trapOf 0x06)
    else .next (s.queueMat e m (.route (BitVec.ofNat 64 (w / 2 ^ 31 * 2 ^ 63 + w % 64))) 0 fun o => { o with stepsDone := true })) s

/-- MFENCE (R310): closes a batch, or waits while 16 are incomplete. -/
def execMfence (d : BitVec 7) (s : State) : Host.Outcome State Fault Refusal :=
  matWord (.mfence d) true (fun e _ s =>
    let m := s.matOf e.g
    if m.complete + 16 ≤ m.closed then .hold .batchRoom
    else
      .next ((s.mapMatCtx m.id fun m => { m with closed := m.closed + 1 }).mapGroup e.k fun g =>
        g.setS d.toNat (BitVec.ofNat 32 (m.closed % 2 ^ 16)))) s

/-- The most recently closed batch of a number: the model counts batches from the forming of the set. -/
def MatCtx.latest (m : MatCtx) (n : Nat) : Option Nat :=
  if m.closed = 0 then none
  else
    let last := m.closed - 1
    let back := (last + 2 ^ 16 - n) % 2 ^ 16
    if back ≤ last then some (last - back) else none

/-- MWAIT (R311). -/
def execMwait (a : BitVec 7) (s : State) : Host.Outcome State Fault Refusal :=
  matWord (.mwait a) false (fun e t s =>
    let m := s.matOf e.g
    match m.latest ((e.g.sreg a.toNat).toNat % 2 ^ 16) with
    | none => .trap (trapOf 0x7D)
    | some b => if b < m.complete then .next (s.acquire (keyCore e.k) t.pair .team) else .hold (.batch b)) s

/-! ### K-steps (13 R274, R277) -/

/-- Why an operation does not go on: it waits, or it fails with a qualifier of MATRIX_FAULT and a cause. -/
inductive MatStop where
  | blocked
  | fails (fault cause : Byte)
  deriving DecidableEq, Repr

/-- The key under which an operation keeps a line that it has read for a step. -/
def sourceKey (step core n : Nat) : Nat := step * 2 ^ 22 + core * 4096 + n

/-- A scratchpad line as a step of an operation reads it (R277). -/
def State.matLine (s : State) (o : MatOp) (step core n : Nat) : Except MatStop (List Byte) :=
  match alGet o.sources (sourceKey step core n) with
  | some b => .ok b
  | none =>
    if (s.lineSt core n).poisoned then .error (.fails 0x74 0x62)
    else if !(s.lineSt core n).present then .error .blocked
    else .ok (s.line (sramKey core n))

/-- The codebook of an operand (R270). -/
def State.matCodebook (s : State) (o : MatOp) (w : DWord) (step : Nat) : Except MatStop (List Byte) :=
  let core := clusterCore o.core (owCore w)
  if owBase w = 0 || !s.clusterLine o.ctx core (owBase w - 1) then .error (.fails 0x75 0x5E)
  else (s.matLine o step core (owBase w - 1)).map fun b => slice b 0 16

/-- The blocks of a list of places, each line read once. -/
def State.matBlocks (s : State) (o : MatOp) (w : DWord) (step : Nat) : List (Nat × Nat) → Except MatStop (List Blk)
  | [] => .ok []
  | (l, j) :: r =>
    match s.matLine o step (clusterCore o.core (owCore w)) l with
    | .error x => .error x
    | .ok b =>
      match s.matBlocks o w step r with
      | .error x => .error x
      | .ok bs => .ok (lineBlk (owCls w) b j :: bs)

/-- The codebook of an operand for a step that fetches a CB4 block: kept from the first such step on (R270). -/
def State.matBook (s : State) (o : MatOp) (w : DWord) (kept : Option (List Byte)) (bs : List Blk) : Except MatStop (Option (List Byte)) :=
  match kept with
  | some b => .ok (some b)
  | none => if owCls w = 0 && bs.any (fun b => b.tag = 2) then (s.matCodebook o w o.step).map some else .ok none

/-- The 32 blocks of one side of a step, and the operand's codebook from then on (R270 to R272). -/
def State.matSide (s : State) (o : MatOp) (w : DWord) (kept : Option (List Byte)) (regs : List (List (Byte × BitVec 2 × List Nat))) (t k : Nat) :
    Except MatStop (List ABlk × Option (List Byte)) :=
  if owRegs w then .ok ((regs.getD (o.step % regs.length) []).map fun b => ABlk.of (owCls w) [] ⟨b.1, b.2.1, b.2.2⟩, none)
  else
    match s.matBlocks o w o.step ((List.range 32).map (fetchPlace w t k)) with
    | .error x => .error x
    | .ok bs =>
      match s.matBook o w kept bs with
      | .error x => .error x
      | .ok book =>
        let cb := book.getD []
        if owColumn w then
          match (List.range 32).mapM (columnBlk (owCls w) cb bs) with
          | some xs => .ok (xs, book)
          | none => .error (.fails 0x75 0x29)
        else .ok (bs.map (ABlk.of (owCls w) cb), book)

/-- Rows 0 to n − 1 of a tile word's lines, as element patterns. -/
def State.tileRows (s : State) (o : MatOp) (t : Team) : List Nat → Except MatStop (List (List Byte))
  | [] => .ok []
  | l :: r =>
    match t.line l with
    | none => .error (.fails 0x75 0x5A)
    | some (core, n) =>
      match s.matLine o 0 core n with
      | .error x => .error x
      | .ok b =>
        match s.tileRows o t r with
        | .error x => .error x
        | .ok bs => .ok (b :: bs)

/-- The array's part of an operation is done. -/
def MatOp.arrayDone (o : MatOp) : Bool :=
  o.stepsDone || (match o.kind with
    | .epilogue | .route _ => true
    | _ => false)

/-- The operation retires a tile and has not converted it. -/
def MatOp.retiring (o : MatOp) : Bool := o.desc.isSome && !o.converted

/-- The operations queued before one. -/
def State.matBefore (s : State) (o : MatOp) : List MatOp := s.matOps.takeWhile fun x => x.id ≠ o.id

/-- The array may perform a step of the operation: every earlier operation of the core is past the array, and none is still to retire the tile (R267). -/
def State.arrayTurn (s : State) (o : MatOp) : Bool :=
  (s.matBefore o).all fun x => decide (x.core ≠ o.core) || (x.arrayDone && !(x.retiring && x.acc = o.acc))

/-- The context may go on in its engines: it is neither reported nor descheduled (13 R285, 16 R324). -/
def State.engineRuns (s : State) (ctx : Nat) : Bool :=
  match s.ctx? ctx with
  | some c => c.reported.isNone && !c.preempted
  | none => false

/-- What an engine of the context has begun may end: a reported context's operations drain (16 R324, R329). -/
def State.engineDrains (s : State) (ctx : Nat) : Bool :=
  match s.ctx? ctx with
  | some c => !c.preempted
  | none => false

/-- One K-step of a loop, or the whole of another array operation. -/
def State.arrayStep (s : State) (o : MatOp) : Except MatStop State :=
  match o.kind with
  | .zero => .ok ((s.mapTile o.core o.acc o.ctx fun _ _ _ => 0).endMat o)
  | .load w =>
    match s.team? o.team with
    | none => .error (.fails 0x75 0x5A)
    | some t =>
      match s.tileRows o t (rowLines (bits w.toNat 0 12) (bits w.toNat 12 12) (bits w.toNat 24 4)) with
      | .error x => .error x
      | .ok rows => .ok ((s.mapTile o.core o.acc o.ctx fun i j _ => BitVec.ofNat 32 (leAt (rows.getD i []) (4 * j) 4)).endMat o)
  | .store _ =>
    .ok (s.mapMat o.id fun x =>
      { x with stepsDone := true, converted := true,
               rows := (List.range 32).map fun i => ((s.accRow o.core o.acc i).flatMap fun v => natLe v.toNat 4, none) })
  | .loop a b lw dist =>
    match s.matSide o (rowWord a) o.bookA o.regsA (lwTa lw) (lwKa lw + o.step) with
    | .error x => .error x
    | .ok (xs, bookA) =>
      match s.matSide o b o.bookB o.regsB (lwTb lw) (lwKb lw + o.step) with
      | .error x => .error x
      | .ok (ys, bookB) =>
        match s.kStep o.core o.acc o.ctx (if dist then -2 else 1) xs ys with
        | none => .error (.fails 0x75 0x2A)
        | some s' =>
          if o.step + 1 < lwCount lw then
            .ok (s'.mapMat o.id fun x => { x with step := x.step + 1, bookA, bookB, sources := x.sources.filter fun e => (o.step + 1) * 2 ^ 22 ≤ e.1 })
          else if dist then .ok (s'.mapMat o.id fun x => { x with step := x.step + 1, stepsDone := true, sources := [] })
          else .ok (s'.endMat o)
  | .epilogue | .route _ => .ok s

/-- Epilogue steps of the queue that come before an operation have all been delivered, and every MROUTE before it has been performed (R284, 14 R309). -/
def State.epilogueTurn (s : State) (o : MatOp) : Bool :=
  (s.matBefore o).all fun x => decide (x.q ≠ o.q) || (x.desc.isNone && (match x.kind with
    | .route _ => false
    | _ => true))

/-- MATRIX_K_STEP (R274): one K-step of a queued operation, or its whole where it is no loop. -/
def execMatrixKStep (op : Nat) (s : State) : Host.Outcome State Fault Refusal :=
  match s.mat? op with
  | none => .next s
  | some o =>
    if !s.engineRuns o.ctx then .next s
    else
      match o.kind with
      | .route v =>
        if s.epilogueTurn o then .next ((s.mapMatCtx o.q fun m => { m with routing := v }).endMat o) else .next s
      | _ =>
        if o.arrayDone || !s.arrayTurn o then .next s
        else
          match s.arrayStep o with
          | .ok s' => .next s'
          | .error .blocked => .next s
          | .error (.fails fault cause) => .next (s.failMat o fault cause)

/-! ### Batches (13 R275, R278) -/

/-- BATCH_COMPLETION (R275): the oldest closed batch of a queue completes, with its flags and its failure. -/
def execBatchCompletion (queue : Nat) (s : State) : Host.Outcome State Fault Refusal :=
  match s.matCtx queue with
  | none => .next s
  | some m =>
    if m.complete < m.closed && s.matOps.all (fun o => !(o.q = queue && o.batch = m.complete)) then
      let here (q b : Nat) : Bool := q = queue && b = m.complete
      let flags := s.batchFlags.filter fun b => here b.q b.batch
      let fails := s.batchFails.filter fun b => here b.q b.batch
      let s := { s with batchFlags := s.batchFlags.filter fun b => !here b.q b.batch,
                        batchFails := s.batchFails.filter fun b => !here b.q b.batch }
      let s := s.mapMatCtx queue fun m => { m with complete := m.complete + 1 }
      let s := flags.foldl (fun s b => s.mapGroup b.key fun g => g.raise b.flags) s
      .next (fails.foldl (fun s b => s.raiseImprecise b.key
        { cause := b.fault, faddr := 0, origin := BitVec.ofNat 64 b.pc.toNat,
          detail := BitVec.ofNat 64 (b.cause.toNat * 2 ^ 48 + b.batch % 2 ^ 16), committed := false }) s)
    else .next s

end Sys2Proof.Machine
end

