-- ==== Sys2Proof/Machine/Epilogue.lean ====
section
/-! DEFINITION. Epilogues: the conversion of a retiring tile, top-k lists, and the delivery of rows to scratchpad, global memory and peers (13 R280 to R285, 14 R304, R307, R308, 19 R358). -/

namespace Sys2Proof.Machine

/-! ### Conversion (13 R282) -/

/-- An FP32 word of a line. -/
def lineFloat (b : List Byte) (i : Nat) : Fl := Fl.ofBits .f32 (leAt b (4 * i) 4)

/-- The lines that an epilogue reads: column biases, row norms, column norms; none where the bit leaves the term off. -/
structure EpiTerms where
  bias : Option (List Byte)
  rn : Option (List Byte)
  cn : Option (List Byte)
  deriving DecidableEq, Repr

/-- Adds a term to a sum; a term that is off is 0 (R282). -/
def addTerm (rm : BitVec 3) (z : Fl × Bool) (b : Option (List Byte)) (i : Nat) : Fl × Bool :=
  let r := flAdd rm z.1 (match b with
    | none => .fin false 0 0
    | some b => lineFloat b i)
  (r.1, z.2 || r.2)

/-- z of R282 for an element, and whether the operation is invalid. -/
def EpiDesc.z (d : EpiDesc) (x : EpiTerms) (acc : Word) (i j : Nat) : Fl × Bool :=
  let p := flMul (Fl.ofBits .f32 d.scale) (Fl.ofBits .f32 acc.toNat)
  addTerm d.rm (addTerm d.rm (addTerm d.rm p x.bias j) x.rn i) x.cn j

/-- A converted row: its bytes, for a block its tag, and its flags. -/
structure EpiRow where
  bytes : List Byte
  tag : Option (BitVec 2)
  flags : BitVec 8
  deriving DecidableEq, Repr

/-- Row i of the tile, converted (R282). The rows of a top-k step hold FP32 values. -/
def EpiDesc.row (d : EpiDesc) (x : EpiTerms) (acc : List Word) (i : Nat) : EpiRow :=
  let zs := (List.range 32).map fun j => d.z x (acc.getD j 0) i j
  let inf := flagIf (acc.any fun v => (Fl.ofBits .f32 v.toNat).isSpecial) fSTEPOVF
  if d.blocks then
    let r := quantiseBlock
      { cls := d.ocls, tag := d.otag, rule := d.rule, mode := d.rm, zc := !d.nzc, seed := 0, stream := 0, w := 32, cb := [] }
      (zs.map (·.1)) fun j => BitVec.ofNat 64 j
    ⟨r.blk.record d.ocls, some r.blk.tag,
      r.flags ||| inf ||| flagIf (zs.any fun z => z.2) fNV ||| flagIf (zs.any fun z => z.2 || z.1.isSpecial) fSTEPOVF⟩
  else
    let f : Fmt := if !d.topk && d.out = 1 then .bf16 else .f32
    let rs := zs.map (deliver f ⟨d.rm, 0, 32, !d.topk && d.sat, false⟩)
    ⟨rs.flatMap fun r => natLe r.bits (f.width / 8), none, rs.foldl (fun a r => a ||| r.flags) inf⟩

/-- A line that an epilogue reads, where its bit asks for it. -/
def State.termLine (s : State) (t : Team) (on : Bool) (n : Nat) : Except MatStop (Option (List Byte)) :=
  if !on then .ok none
  else
    match t.line n with
    | none => .error (.fails 0x75 0x5A)
    | some (core, m) =>
      if (s.lineSt core m).poisoned then .error (.fails 0x74 0x62)
      else if !(s.lineSt core m).present then .error .blocked
      else .ok (some (s.line (sramKey core m)))

/-- The terms of an epilogue. -/
def State.terms (s : State) (t : Team) (d : EpiDesc) : Except MatStop EpiTerms :=
  match s.termLine t d.bias d.bline with
  | .error x => .error x
  | .ok b =>
    match s.termLine t d.norm d.rline with
    | .error x => .error x
    | .ok r =>
      match s.termLine t d.norm d.cline with
      | .error x => .error x
      | .ok c => .ok ⟨b, r, c⟩

/-- Converts the tile of an operation; with CLR it is then set to +0 (R283). -/
def State.convert (s : State) (o : MatOp) (d : EpiDesc) (x : EpiTerms) : State :=
  let rows := (List.range 32).map fun i => d.row x (s.accRow o.core o.acc i) i
  let s := if d.clr then s.mapTile o.core o.acc o.ctx fun _ _ _ => 0 else s
  s.mapMat o.id fun y =>
    { y with converted := true, rows := rows.map fun r => (r.bytes, r.tag), flags := rows.foldl (fun f r => f ||| r.flags) y.flags }

/-- EPILOGUE_STEP (R282): the epilogue of an operation converts its tile, after every earlier operation on the tile and every earlier epilogue of its queue. -/
def execEpilogueStep (op : Nat) (s : State) : Host.Outcome State Fault Refusal :=
  match s.mat? op with
  | none => .next s
  | some o =>
    match o.epi, s.team? o.team with
    | some d, some t =>
      if o.converted || !o.stepsDone || !s.engineRuns o.ctx || !s.arrayTurn o || !s.epilogueTurn o then .next s
      else
        match s.terms t d with
        | .ok x => .next (s.convert o d x)
        | .error .blocked => .next s
        | .error (.fails fault cause) => .next (s.failMat o fault cause)
    | _, _ => .next s

/-! ### Top-k lists (13 R280) -/

/-- A candidate: the pattern of its value, its index, and whether it stands in the list already. -/
structure Cand where
  value : Nat
  index : Nat
  listed : Bool
  deriving DecidableEq, Repr

/-- One candidate is better than another. -/
def Cand.before (largest : Bool) (a b : Cand) : Bool :=
  let x := Fl.ofBits .f32 a.value
  let y := Fl.ofBits .f32 b.value
  let lt := if largest then flLt true y x else flLt true x y
  let gt := if largest then flLt true x y else flLt true y x
  if x.isNan && !y.isNan then false
  else if y.isNan && !x.isNan then true
  else if lt then true
  else if gt then false
  else if a.index ≠ b.index then decide (a.index < b.index)
  else a.listed && !b.listed

/-- Inserts a candidate in order, best first. -/
def insCand (largest : Bool) (c : Cand) : List Cand → List Cand
  | [] => [c]
  | x :: r => if Cand.before largest c x then c :: x :: r else x :: insCand largest c r

/-- A list line after the merge of a row of values. -/
def EpiDesc.mergeTopk (d : EpiDesc) (list row : List Byte) : List Byte :=
  let old := (List.range d.k).map fun e => Cand.mk (leAt list (8 * e) 4) (leAt list (8 * e + 4) 4) true
  let new := (List.range 32).map fun c => Cand.mk (leAt row (4 * c) 4) ((d.col0 + c) % 2 ^ 32) false
  let best := ((old ++ new).foldl (fun l c => insCand d.sel c l) []).take d.k
  overlay list 0 (best.flatMap fun c => natLe c.value 4 ++ natLe c.index 4)

/-! ### Delivery (13 R283) -/

/-- A row as a whole line over the line's old bytes: plain rows fill it, a block keeps the rest. -/
def rowLine (bytes : List Byte) (blk : Option (Nat × Nat × BitVec 2)) (old : List Byte) : List Byte :=
  match blk with
  | none => slice bytes 0 138
  | some (cls, slot, tag) => overlay (overlay old (slot * clsB cls) (slice bytes 0 (clsB cls))) 136 (natLe (setTag (leAt old 136 2) slot tag) 2)

/-- The bytes of converted row i, and for a block its class, slot and tag. -/
def MatOp.rowBytes (o : MatOp) (d : EpiDesc) (i slot : Nat) : List Byte × Option (Nat × Nat × BitVec 2) :=
  let r := o.rows.getD i ([], none)
  (r.1, r.2.map fun t => (d.ocls, slot, t))

/-- Everything that the operation delivers. -/
def MatOp.allRows (o : MatOp) : List Nat :=
  List.range 32 ++ (match o.epi with
    | some d => if d.chk then [32] else []
    | none => [])

/-- A row has been delivered; the operation ends with its last. -/
def State.rowDelivered (s : State) (id i : Nat) : State :=
  let s := s.mapMat id fun o => { o with delivered := o.delivered ++ [i], waits := smDel o.waits i }
  match s.mat? id with
  | some o => if o.allRows.all o.delivered.contains then s.endMat o else s
  | none => s

/-- How a delivery stands: it is made, it cannot be made now, it waits on a page, it fails. -/
inductive RowTry where
  | done (s : State)
  | blocked
  | waits
  | fails (cause : Byte)

/-- A row to a team-relative line of the scratchpad. -/
def State.scratchRow (s : State) (o : MatOp) (line : Nat) (f : List Byte → List Byte) (i : Nat) : RowTry :=
  match (s.team? o.team).bind fun t => t.line line with
  | none => .blocked
  | some (core, n) =>
    if s.ownerOf (sramOwn core n) ≠ some o.id then .blocked
    else .done ((((s.putLine (sramKey core n) (f (s.line (sramKey core n)))).finishLine core n o.id true).disown (sramOwn core n) o.id).rowDelivered o.id i)

/-- The rows of a block epilogue that share the line of row i. -/
def EpiDesc.sharing (d : EpiDesc) (i : Nat) : List Nat := (List.range 32).filter fun n => (d.rowAt n).1 = (d.rowAt i).1

/-- The rows of the epilogue cover the line of row i. -/
def EpiDesc.coversLine (d : EpiDesc) (i : Nat) : Bool :=
  !d.blocks || (((d.sharing i).map fun n => (d.rowAt n).2).eraseDups.length = clsRpl d.ocls)

/-- A row to a global line of this device, which the operation owns: a row of DEST 01, or of a push to class 0 to 2. -/
def State.globalRow (s : State) (o : MatOp) (d : EpiDesc) (i : Nat) : RowTry :=
  let c := (s.ctx? o.ctx).getD Context.blank
  let (va, slot) := d.rowAt i
  if !s.ownsVa c va o.id then .blocked
  else
    match s.engineLine c va .engineWrite (!d.coversLine i) with
    | .wait _ _ => .waits
    | .fail cause => .fails cause
    | .ready r =>
      let first := d.coversLine i && (d.sharing i).all fun n => !o.delivered.contains n
      let old := if first && d.blocks then blockLine d.ocls [] else s.line r.key
      let (bytes, blk) := o.rowBytes d i slot
      .done (((s.putLine r.key (rowLine bytes blk old)).disownVa c va o.id).rowDelivered o.id i)

/-- The reduction on the chunk counter, once every row has been delivered (R285). -/
def State.chunkAdd (s : State) (o : MatOp) (d : EpiDesc) : RowTry :=
  let c := (s.ctx? o.ctx).getD Context.blank
  if !d.chk || !(List.range 32).all o.delivered.contains then .blocked
  else
    match s.engineOutcome (if 2 ^ 56 ≤ d.caddr then .error (kindFault 2 0x44 .engineWrite) else s.resolveVa c d.caddr .engineWrite true) .engineWrite true with
    | .wait _ _ => .waits
    | .fail cause => .fails cause
    | .ready r =>
      if s.isOwned r then .blocked
      else
        let t := s.team? o.team
        let w : Doer := ⟨o.key, o.core, (t.map Team.pair).getD false, o.team, o.ctx, (t.map Team.grid).getD 0⟩
        .done ((s.rmw w r (d.caddr % 128) 1 RndCtl.rne [1, 0] .rel .dev).2.2.rowDelivered o.id 32)

/-- Writes a pushed row under ownership at its home slice (19 R358). -/
def State.pushWrite (s : State) (c : Context) (va : Nat) (bytes : List Byte) (blk : Option (Nat × Nat × BitVec 2)) : Except (Option Byte × Bool) State :=
  match s.engineLine c va .engineWrite blk.isSome with
  | .wait _ _ => .error (none, true)
  | .fail cause => .error (some cause, false)
  | .ready r =>
    if s.isOwned r then .error (none, false)
    else
      let s := if keyIsPrism r.key then s else s.recall r.ia
      .ok (s.putLine r.key (rowLine bytes blk (s.line r.key)))

/-- Wire bytes of a push row (19 R360). -/
def EpiDesc.wire (d : EpiDesc) : Nat := if d.blocks then clsB d.ocls else if d.out = 1 then 64 else 128
/-- Cost of a fabric operation of so many wire bytes. -/
def wireCost (w : Nat) : Nat := 1 + (w + 63) / 64

/-- The push of a row that is out. -/
def State.push? (s : State) (op row : Nat) : Option PushPass := s.pushes.find? fun p => p.op = op && p.row = row

/-- What sending a push row meets (R284, 19 R358, R361). -/
inductive PushTry where
  | sent (s : State)
  | waits (s : State)
  | noPort
  | fails (cause : Byte)

/-- Sends a push row to the peer that the routing register names now. -/
def State.sendPush (s : State) (o : MatOp) (d : EpiDesc) (i : Nat) : PushTry :=
  let reg := ((s.matCtx o.q).map MatCtx.routing).getD 0
  let cls := reg.toNat % 64
  let c := (s.ctx? o.ctx).getD Context.blank
  let route := c.route cls
  let cost := wireCost d.wire
  if !bit reg.toNat 63 then .fails 0x7E
  else if 3 ≤ cls && !bit route 63 then .fails 0xA1
  else if !s.mayIssue o.core cls cost (.push o.id i) then .waits (s.enterWait o.core cls (.push o.id i))
  else
    let s1 := (s.leaveWait o.core cls (.push o.id i)).debit o.core cls cost
    if cls < 3 then .sent { s1 with pushes := s1.pushes ++ [⟨o.core, o.id, i, cls, cost, none⟩] }
    else
      match s.portFor route with
      | none => .noPort
      | some port =>
        let (va, slot) := d.rowAt i
        let (bytes, blk) := o.rowBytes d i slot
        let row : PushRow :=
          { srcDev := s.devno.toNat, ctx := bits route 0 32, addr := BitVec.ofNat 64 va, bytes,
            block := blk.map fun b => (b.2.1, BitVec.ofNat 2 b.1, b.2.2) }
        .sent { s1 with pushes := s1.pushes ++ [⟨o.core, o.id, i, cls, cost, some port⟩], wire := s1.wire ++ [.push cls row] }

/-- An acknowledged push: a row to another die of this device is written here. -/
def State.ackPush (s : State) (o : MatOp) (d : EpiDesc) (i : Nat) (p : PushPass) : RowTry :=
  if 3 ≤ p.cls then .done ((s.endPush p).rowDelivered o.id i)
  else
    (s.endPush p).globalRow o d i

/-- A row of an operation waits from now on; a mirrored destination here is asked for (19 R370). -/
def State.noteRow (s : State) (id i : Nat) : State :=
  let s := match s.mat? id with
    | some o => match o.epi with
      | some d => s.mirrorHint o.ctx (if i = 32 then d.caddr else (d.rowAt i).1)
      | none => s
    | none => s
  s.mapMat id fun o => if o.waits.any fun w => w.1 = i then o else { o with waits := smIns o.waits i s.nanos }

/-- A converted operation of which row i is still to be delivered, with its descriptor. -/
def State.openRow (s : State) (op i : Nat) : Option (MatOp × EpiDesc) :=
  match s.mat? op with
  | none => none
  | some o =>
    match o.epi with
    | none => none
    | some d => if o.converted && o.allRows.contains i && !o.delivered.contains i && s.engineDrains o.ctx then some (o, d) else none

/-- A delivery that is no push: a row, or row 32, the chunk counter. -/
def State.tryRow (s : State) (o : MatOp) (d : EpiDesc) (i : Nat) : RowTry :=
  if i = 32 then s.chunkAdd o d
  else if d.inScratch then
    s.scratchRow o (tileLine d.sbase d.pitch d.rot i 0) (fun old =>
      if d.topk then d.mergeTopk old ((o.rows.getD i ([], none)).1)
      else let b := o.rowBytes d i d.slot0; rowLine b.1 b.2 old) i
  else s.globalRow o d i

/-- EPILOGUE_ROW_DELIVERY (R283): a converted row is written; a push row is sent, and at its next delivery acknowledged. Row 32 is the chunk counter of R285. -/
def execEpilogueRowDelivery (op row : Nat) (s : State) : Host.Outcome State Fault Refusal :=
  match s.openRow op row with
  | none => .next s
  | some (o, d) =>
    let t := if d.dest = 2 && row ≠ 32 then
        match s.push? op row with
        | some p => s.ackPush o d row p
        | none =>
          match s.sendPush o d row with
          | .sent s' => .done s'
          | .waits s' => .done s'
          | .noPort => .waits
          | .fails cause => .done (s.failMat o 0x77 cause)
      else s.tryRow o d row
    match t with
    | .done s' => .next s'
    | .blocked => .next s
    | .waits => .next (s.noteRow op row)
    | .fails _ => .next s

/-- A push row that still fails ENGWAIT after its first failure fails its operation (19 R358). -/
def State.pushTimeout (s : State) (op row : Nat) : State :=
  match s.openRow op row with
  | none => s
  | some (o, d) =>
    match alGet o.waits row with
    | none => s
    | some since =>
      if d.dest = 2 && row ≠ 32 && since + ((s.ctx? o.ctx).getD Context.blank).engwait ≤ s.nanos then
        let s := match s.push? op row with
          | some p => s.endPush p
          | none => s
        s.failMat o 0x77 0x8C
      else s

/-! ### The engine events on matrix operations -/

/-- A line of MSTA lands (14 R304). -/
def State.storeLanding (s : State) (o : MatOp) (i : Nat) : RowTry :=
  match o.kind with
  | .store w =>
    if !o.converted || o.delivered.contains i || 32 ≤ i then .blocked
    else
      s.scratchRow o (tileLine (bits w.toNat 0 12) (bits w.toNat 12 12) (bits w.toNat 24 4) i 0)
        (fun _ => slice (o.rows.getD i ([], none)).1 0 138) i
  | _ => .blocked

/-- A delivery that meets a fault fails its operation: a global row or the counter, a row that a peer refuses (19 R358). -/
def State.rowFailure (s : State) (op row : Nat) : State :=
  match s.openRow op row with
  | none => s
  | some (o, d) =>
    if d.dest = 2 && row ≠ 32 then
      match s.push? op row with
      | none => s
      | some p =>
        if 3 ≤ p.cls then (s.endPush p).failMat o 0x77 0x9D
        else
          match s.ackPush o d row p with
          | .fails _ => (s.endPush p).failMat o 0x77 0x9D
          | _ => s
    else
      match s.tryRow o d row with
      | .fails cause => s.failMat o 0x76 cause
      | _ => s

/-- A peer refuses a push row: the step fails with REMOTE_FAILED 0x9D, or with 0x9E or 0x9F where it timed out there or its context is gone (16 R331, 19 R358). -/
def State.pushRefused (s : State) (op row : Nat) (why : BitVec 2) : State :=
  match s.openRow op row, s.push? op row with
  | some (o, _), some p => if 3 ≤ p.cls && why ≠ 0 then (s.endPush p).failMat o 0x77 (BitVec.ofNat 8 (0x9C + why.toNat)) else s
  | _, _ => s

/-- A row, or the counter, that has waited ENGWAIT on a page fails its operation (12 R255; 16 R331). -/
def State.rowTimeout (s : State) (op row : Nat) : State :=
  match s.openRow op row with
  | none => s
  | some (o, d) =>
    match alGet o.waits row, (if d.dest = 2 && row ≠ 32 then RowTry.blocked else s.tryRow o d row) with
    | some since, .waits =>
      if since + ((s.ctx? o.ctx).getD Context.blank).engwait ≤ s.nanos then s.failMat o 0x76 (if row = 32 then 0x8D else 0x8B) else s
    | _, _ => s

/-- The lines of an operand that a step reads, its codebook among them, by core and line. -/
def MatOp.stepLines (o : MatOp) (step : Nat) : List (Nat × Nat) :=
  let side (w : DWord) (t k : Nat) : List (Nat × Nat) :=
    let core := clusterCore o.core (owCore w)
    ((operandLines w t k 1).map fun l => (core, l)) ++ (if owCls w = 0 && owBase w ≠ 0 && !owRegs w then [(core, owBase w - 1)] else [])
  match o.kind with
  | .loop a b lw _ => if step < lwCount lw then side (rowWord a) (lwTa lw) (lwKa lw + step) ++ side b (lwTb lw) (lwKb lw + step) else []
  | _ => []

/-- Reads an operand line before its step (R277); `line` is the key under which the operation keeps it. -/
def State.readAhead (s : State) (op line : Nat) : State :=
  match s.mat? op with
  | none => s
  | some o =>
    let step := line / 2 ^ 22
    let core := line % 2 ^ 22 / 4096
    let n := line % 4096
    let here := match o.kind with
      | .load w =>
        decide (step = 0) && (match s.team? o.team with
          | some t => (rowLines (bits w.toNat 0 12) (bits w.toNat 12 12) (bits w.toNat 24 4)).any fun l => t.line l = some (core, n)
          | none => false)
      | _ => decide (o.step ≤ step) && (o.stepLines step).contains (core, n)
    if !o.arrayDone && here && s.engineRuns o.ctx && (alGet o.sources line).isNone
        && (s.lineSt core n).present && !(s.lineSt core n).poisoned then
      s.mapMat op fun x => { x with sources := smIns x.sources line (s.line (sramKey core n)) }
    else s

end Sys2Proof.Machine
end

