-- ==== Sys2Proof/Machine/Convene.lean ====
section
/-! DEFINITION. Convened sets: CONV and DISB (07 R144, 08 R173, R174). -/

namespace Sys2Proof.Machine

/-- The group numbers that a mask names, rising. -/
def namedGroups (m : DWord) : List Nat := (List.range 64).filter m.getLsbD

/-- The place of group n of a team on a core; none when it is elsewhere or has ended. -/
def State.memberKey (s : State) (team core n : Nat) : Option Nat :=
  (s.groups.find? fun e => e.2.glint.isNone && keyCore e.1 = core && e.2.team = team && e.2.num = n && !e.2.splits.isEmpty).map (·.1)

/-- A mask that R144 refuses for a group. -/
def State.badSet (s : State) (t : Team) (e : Env) (m : DWord) : Bool :=
  let ns := namedGroups m
  !ns.contains e.g.num || decide (8 < ns.length)
  || ns.any (fun n => (s.memberKey t.id (keyCore e.k) n).isNone || t.sets.any fun c => c.members.contains n)

/-- Every member parked in a rendezvous is to trap CONVENE_STATE. -/
def State.breakRendezvous (s : State) (team : Nat) (r : Rendezvous) : State :=
  let s := s.mapTeam team fun t => { t with rendezvous := t.rendezvous.erase r }
  { s with groups := s.groups.map fun e =>
      if e.2.glint.isNone && e.2.team = team && r.arrived.contains e.2.num then
        (e.1, { e.2 with splits := e.2.splits.map fun p => if p.park = .convene then { p with park := .trapDue 0x0F } else p })
      else e }

/-- The rendezvous that name a group with another mask. -/
def Team.conflicts (t : Team) (num : Nat) (m : DWord) : List Rendezvous :=
  t.rendezvous.filter fun r => r.mask ≠ m && r.mask.getLsbD num

/-- The set forms: every other member resumes past its CONV; batches count from 0, the routing register is 0 (13 R275, R284). -/
def State.formSet (s : State) (team core num : Nat) (m : DWord) : State :=
  let (id, s) := s.takeId
  let s := s.mapTeam team fun t =>
    { t with rendezvous := t.rendezvous.filter fun r => r.mask ≠ m, sets := t.sets ++ [⟨namedGroups m, ⟨id, 0, 0, 0⟩, namedGroups m⟩] }
  { s with groups := s.groups.map fun e =>
      if e.2.glint.isNone && keyCore e.1 = core && e.2.team = team && e.2.num ≠ num && m.getLsbD e.2.num then
        (e.1, { e.2 with splits := e.2.splits.map fun p => if p.park = .convene then p.advance else p })
      else e }

/-- CONV (R173). -/
def execConv (p : BitVec 6) (s : State) : Host.Outcome State Fault Refusal :=
  issueWord (.conv p) .scalar (fun e s =>
    if 1 < e.g.splits.length then .trap (trapOf 0x0E)
    else
      match s.team? e.g.team with
      | none => .trap (trapOf 0x0F)
      | some t =>
        let m := e.g.spair (2 * p.toNat)
        match t.conflicts e.g.num m with
        | r :: rest => .fail ((r :: rest).foldl (fun s r => s.breakRendezvous t.id r) s) (trapOf 0x0F)
        | [] =>
          if s.badSet t e m then .trap (trapOf 0x0F)
          else
            let before := ((t.rendezvous.find? fun r => r.mask = m).map Rendezvous.arrived).getD []
            let arrived := if before.contains e.g.num then before else before ++ [e.g.num]
            if (namedGroups m).all arrived.contains then .next (s.formSet t.id (keyCore e.k) e.g.num m)
            else
              .park (s.mapTeam t.id fun t =>
                { t with rendezvous := (t.rendezvous.filter fun r => r.mask ≠ m) ++ [⟨m, arrived⟩] }) .convene) s

/-- The rendezvous of a team that name a group which has ended. -/
def State.endedMember (s : State) (team num : Nat) : State :=
  match s.team? team with
  | none => s
  | some t => (t.rendezvous.filter fun r => r.mask.getLsbD num).foldl (fun s r => s.breakRendezvous team r) s

/-- DISB (R174): the set ends once the array has read its members' registers. Its batches go on. -/
def execDisb (s : State) : Host.Outcome State Fault Refusal :=
  issueWord .disb .scalar (fun e s =>
    if 1 < e.g.splits.length then .trap (trapOf 0x0E)
    else
      match s.setOf e.g with
      | none => .trap (trapOf 0x0F)
      | some c =>
        if c.members.head? ≠ some e.g.num then .trap (trapOf 0x0F)
        else if s.holdDone e.k e.g .regReads then
          .next (s.mapTeam e.g.team fun t =>
            { t with sets := t.sets.map fun x => if x.mat.id = c.mat.id then { x with members := [] } else x })
        else .hold .regReads) s

end Sys2Proof.Machine
end

