-- ==== Sys2Proof/Machine/Launch.lean ====
section
/-! DEFINITION. Launches, the slot table, dispatch, the end of a team, events (07 R145 to R147, R151 to R157, 08 R175, R176, 05 R98, 09 R191, R192, 22 R399). -/

namespace Sys2Proof.Machine

/-! ### Launch records (07 R151) -/

/-- A launch record: its sixteen doublewords. -/
abbrev LaunchRec := List DWord

def LaunchRec.entry (r : LaunchRec) : Nat := dwField r 0 8
def LaunchRec.dimx (r : LaunchRec) : Nat := dwField r 8 4
def LaunchRec.dimy (r : LaunchRec) : Nat := dwField r 12 4
def LaunchRec.dimz (r : LaunchRec) : Nat := dwField r 16 4
def LaunchRec.gw (r : LaunchRec) : Nat := dwField r 20 1
def LaunchRec.regs (r : LaunchRec) : Nat := dwField r 21 1
def LaunchRec.gpt (r : LaunchRec) : Nat := dwField r 22 1
def LaunchRec.pcls (r : LaunchRec) : Nat := bits (dwField r 23 1) 6 2
def LaunchRec.pair (r : LaunchRec) : Bool := bit (dwField r 23 1) 5
def LaunchRec.carve (r : LaunchRec) : Nat := bits (dwField r 23 1) 2 3
def LaunchRec.lsi (r : LaunchRec) : Bool := bit (dwField r 23 1) 1
def LaunchRec.ind (r : LaunchRec) : Bool := bit (dwField r 23 1) 0
def LaunchRec.scr (r : LaunchRec) : Nat := dwField r 24 2
def LaunchRec.run (r : LaunchRec) : Nat := dwField r 26 2
def LaunchRec.lse (r : LaunchRec) : Nat := dwField r 28 1
def LaunchRec.lmine (r : LaunchRec) : Nat := dwField r 29 1
def LaunchRec.lmaxe (r : LaunchRec) : Nat := dwField r 30 1
def LaunchRec.wln (r : LaunchRec) : Nat := dwField r 31 1
def LaunchRec.argptr (r : LaunchRec) : Nat := dwField r 32 8
def LaunchRec.arglen (r : LaunchRec) : Nat := dwField r 40 2
def LaunchRec.wlptr (r : LaunchRec) : Nat := dwField r 48 8
def LaunchRec.done (r : LaunchRec) : Nat := dwField r 56 8
def LaunchRec.evbase (r : LaunchRec) : Nat := dwField r 64 8
def LaunchRec.cntptr (r : LaunchRec) : Nat := dwField r 72 8
def LaunchRec.kdesc (r : LaunchRec) : Nat := dwField r 80 8

/-- Lanes of a width code. -/
def gwLanes (gw : Nat) : Nat := if gw = 0 then 16 else if gw = 1 then 32 else 64

/-- A field lies outside its stated range (qualifier 0 of R331). -/
def LaunchRec.badField (r : LaunchRec) : Bool :=
  decide (2 ^ 56 ≤ r.entry) || r.entry % 4 ≠ 0 || r.dimx = 0 || r.dimy = 0 || r.dimz = 0 || decide (3 ≤ r.gw) || decide (16 ≤ r.regs)
  || decide (64 ≤ r.gpt) || decide (5 ≤ r.carve) || decide (4096 ≤ r.scr) || decide (9 ≤ r.wln) || r.argptr % 8 ≠ 0
  || decide (4096 < r.arglen) || r.wlptr % 16 ≠ 0 || r.done % 8 ≠ 0 || r.evbase % 8 ≠ 0 || r.kdesc % 32 ≠ 0

/-- A reserved byte is not zero (qualifier 1). -/
def LaunchRec.badByte (r : LaunchRec) : Bool := dwField r 42 6 ≠ 0 || (List.range 5).any fun i => r.getD (11 + i) 0 ≠ 0

/-- Slots that n groups of a width take on a core. -/
def slotsOf (width n : Nat) : Nat := if width = 64 then 2 * n else n

/-- Groups of a team of n on its core, or on one core of its pair: even the even ones, odd the odd ones (07 R132). -/
def groupsOn (pair odd : Bool) (n : Nat) : List Nat := (List.range n).filter fun g => !pair || (decide (g % 2 = 1) == odd)

/-- Bytes of vector registers of a group (07 R131). -/
def regBytes (width regs : Nat) : Nat := regs * width * 4

/-- A team with these needs fits a core, or a pair, that holds nothing else (qualifier 5; 07 R131, R132, R152). -/
def teamFits (width regs n : Nat) (pair : Bool) (scr : Nat) (carve : BitVec 3) : Bool :=
  let most := (groupsOn pair false n).length
  decide (slotsOf width most ≤ 32) && decide (most * regBytes width regs ≤ 524288) && decide (scrLines scr ≤ carveLines carve)

/-- The tests of R152 up to qualifier 3. -/
def LaunchRec.reject (r : LaunchRec) : Option Nat :=
  if r.badField then some 0x80
  else if r.badByte then some 0x81
  else if 2 ^ 32 < r.dimx * r.dimy * r.dimz then some 0x82
  else if 32 ≤ r.gpt && !r.pair then some 0x83
  else none

/-- The kernel descriptor's 32 bytes fail a comparison of R98. -/
def LaunchRec.badDescriptor (r : LaunchRec) (d : List Byte) : Bool :=
  leAt d 0 2 ≠ 0x4B44 || decide (wrap 64 ((r.kdesc : Int) + sext (leAt d 8 8) 64) ≠ r.entry) || leAt d 2 1 ≠ r.gw || leAt d 3 1 ≠ r.regs
  || leAt d 6 1 ≠ r.carve || decide (r.scr < leAt d 4 2)

/-- Qualifier 5. -/
def LaunchRec.tooLarge (r : LaunchRec) : Bool :=
  !teamFits (gwLanes r.gw) (8 * (r.regs + 1)) (r.gpt + 1) r.pair r.scr (BitVec.ofNat 3 r.carve)

/-- An address of the record that lies in a fixed window (09 R180). -/
def LaunchRec.fixedAddr (r : LaunchRec) (spawn : Bool) : Option TrapInfo :=
  let reads := (if r.arglen ≠ 0 then [r.argptr] else []) ++ (if r.wln ≠ 0 then [r.wlptr] else []) ++ (if r.ind then [r.cntptr] else [])
  let writes := (if spawn then [] else [r.done]) ++ (if r.evbase ≠ 0 then [r.evbase] else [])
  match reads.find? inFixed with
  | some a => some ((kindFault 2 0x44 .engineRead).trap a none)
  | none => (writes.find? inFixed).map fun a => (kindFault 2 0x44 .engineWrite).trap a none

/-! ### Acceptance -/

/-- The lines that `n` bytes from a virtual address lie in, by address of the first byte of each. -/
def linesOfRange (va n : Nat) : List Nat :=
  if n = 0 then [] else (List.range ((va + n - 1) / 128 + 1 - va / 128)).map fun i => (va / 128 + i) * 128

/-- What an acceptance reads through the windows, as a thread load would. -/
inductive ReadTry where
  | ok (bytes : List Byte) (s : State)
  | hold (h : Hold)
  | trap (t : TrapInfo)

/-- Reads whole lines for a launch of a context; `core` is the issuing core, none for the host, whose reads are the Lantern ROM's (22 R387). -/
def State.readLines (s : State) (c : Context) (core : Option Nat) : List Nat → ReadTry
  | [] => .ok [] s
  | va :: r =>
    match s.resolveScalar c va (if core.isSome then .load else .engineRead) false with
    | .error f => .trap (f.trap va none)
    | .ok l =>
      if s.isOwned l then .hold (.owned [l.own])
      else
        let x := match core with
          | some k => s.load k l 0 128 .die 0
          | none => (s.bytes l.key 0 128, s)
        match x.2.readLines c core r with
        | .ok bs s => .ok (x.1 ++ bs) s
        | y => y

/-- Reads `n` bytes from a virtual address. -/
def State.readRange (s : State) (c : Context) (core : Option Nat) (va n : Nat) : ReadTry :=
  match s.readLines c core (linesOfRange va n) with
  | .ok bs s => .ok (slice bs (va % 128) n) s
  | y => y

/-- A launch that has passed its checks: the argument block, and the state. -/
inductive AcceptTry where
  | ok (args : List Byte) (s : State)
  | hold (h : Hold)
  | trap (t : TrapInfo)

/-- The checks of R152 with the kernel descriptor, and the read of the argument block (R154). The spec does not place a fault on the descriptor among the qualifiers: here qualifiers 0 to 3 come first (log entry 58). A descriptor in a fixed window traps (09 R180). -/
def State.acceptRecord (s : State) (c : Context) (core : Option Nat) (r : LaunchRec) (spawn : Bool) : AcceptTry :=
  match r.reject with
  | some q => .trap (trapOf q)
  | none =>
    let kind : Kind := if core.isSome then .load else .engineRead
    match (if r.kdesc = 0 then ReadTry.ok [] s
      else if inFixed r.kdesc then .trap ((kindFault 2 0x44 kind).trap r.kdesc none)
      else s.readRange c core r.kdesc 32) with
    | .hold h => .hold h
    | .trap t => .trap t
    | .ok d s =>
      if r.kdesc ≠ 0 && r.badDescriptor d then .trap (trapOf 0x84)
      else if r.tooLarge then .trap (trapOf 0x85)
      else
        match r.fixedAddr spawn with
        | some t => .trap t
        | none =>
          match s.readRange c core r.argptr r.arglen with
          | .hold h => .hold h
          | .trap t => .trap t
          | .ok args s => .ok args s

/-- Queues an accepted launch in a context: the grid identifier (R153). -/
def State.queueLaunch (s : State) (ctx : Nat) (r : LaunchRec) (recIa : Nat) (args : List Byte) (origin : LaunchFrom) : Nat × State :=
  let (id, s) := s.takeId
  let grid := ((s.ctx? ctx).map Context.nextGrid).getD 1
  let s := s.mapCtx ctx fun c => { c with nextGrid := c.nextGrid + 1 }
  (grid, { s with launches := s.launches ++ [{ id, ctx, grid, record := r, recIa, args, origin, stage := .list, waiting := none }] })

/-- The remaining weight of a grid's team t (R155). -/
def teamWeight (weight teams t : Nat) : Nat := if t = 0 then weight - (teams - 1) * (weight / teams) else weight / teams

/-- The three launch forms (R175): `ind` is the IND they ask for, none for SPAWN. -/
def launchForm (i : Instr) (p : BitVec 6) (d : BitVec 7) (ind : Option Bool) (s : State) : Host.Outcome State Fault Refusal :=
  issueWord i .committing (fun e s =>
    let va := (e.g.spair (2 * p.toNat)).toNat
    let c := s.ctxOf e.g
    let core := keyCore e.k
    if va % 128 ≠ 0 then .trap ((kindFault 1 0x40 .load).trap va none)
    else
      match s.resolveScalar c va .load false with
      | .error f => .trap (f.trap va none)
      | .ok l =>
        match (s.flushCore core).readRange c (some core) va 128 with
        | .hold h => .hold h
        | .trap t => .trap t
        | .ok bs s =>
          let r : LaunchRec := dwords bs 16
          if (ind.map fun b => r.ind != b).getD false then .trap (trapOf 0x86)
          else
            match s.acceptRecord c (some core) r ind.isNone with
            | .hold h => .hold h
            | .trap t => .trap t
            | .ok args s =>
              match s.team? e.g.team with
              | none => .trap (trapOf 0x7F)
              | some t =>
                if ind.isNone && t.weight < 2 then .trap (trapOf 0x7F)
                else
                  let h := t.weight / 2
                  let root := ((s.grid? t.ctx t.grid).map Grid.root).getD 0
                  let s := if ind.isNone then s.mapTeam t.id fun t => { t with weight := t.weight - h } else s
                  let origin : LaunchFrom := if ind.isNone then .spawn e.k t.id e.pc root h else .group e.k t.id e.pc
                  let (grid, s) := s.queueLaunch e.g.ctx r (l.ia * 128) args origin
                  .next (s.mapGroup e.k fun g => g.setS d.toNat (BitVec.ofNat 32 grid))) s

/-- LAUNCH. -/
def execLaunch (p : BitVec 6) (d : BitVec 7) (s : State) : Host.Outcome State Fault Refusal := launchForm (.launch p d) p d (some false) s
/-- LAUNCHI. -/
def execLaunchi (p : BitVec 6) (d : BitVec 7) (s : State) : Host.Outcome State Fault Refusal := launchForm (.launchi p d) p d (some true) s
/-- SPAWN. -/
def execSpawn (p : BitVec 6) (d : BitVec 7) (s : State) : Host.Outcome State Fault Refusal := launchForm (.spawn p d) p d none s

/-! ### Events (R176) -/

/-- EVPUB. -/
def execEvpub (p q : BitVec 6) (s : State) : Host.Outcome State Fault Refusal :=
  issueWord (.evpub p q) .scalar (fun e s =>
    let va := (e.g.spair (2 * p.toNat)).toNat
    match s.reachScalar e va 8 .store false with
    | .error f => .trap (f.trap va none)
    | .ok l =>
      match storeEffects e s [{ line := l, va := BitVec.ofNat 64 va, kind := .store (va % 128) (natLe (e.g.spair (2 * q.toNat)).toNat 8) none,
                                order := .rel, scope := .dev, cp := 0, pc := e.pc }] .rel .dev with
      | .ok s => .next s
      | .error (.inl h) => .hold h
      | .error (.inr t) => .trap t) s

/-- EVWAIT. -/
def execEvwait (p q : BitVec 6) (s : State) : Host.Outcome State Fault Refusal :=
  issueWord (.evwait p q) .scalar (fun e s => waitForm e s (e.g.spair (2 * p.toNat)).toNat (e.g.spair (2 * q.toNat)) .dev) s

/-! ### Engine accesses to single words (R153, R156) -/

/-- How an engine's access to a word stands. -/
inductive WordTry where
  | ready (l : LineRef)
  | blocked
  | waits (cause : Byte)
  | fails (cause : Byte)
  deriving DecidableEq, Repr

/-- An engine access of a context to n bytes at a virtual address; a write of part of a line reads it. -/
def State.engineWord (s : State) (c : Context) (va n : Nat) (k : Kind) : WordTry :=
  if va % n ≠ 0 then .fails (kindCause 0x40 k)
  else if inFixed va then .fails (kindCause 0x44 k)
  else
    match s.engineLine c va k true with
    | .wait _ cause => .waits cause
    | .fail cause => .fails cause
    | .ready l => if s.isOwned l then .blocked else .ready l

/-- An engine writes bytes of a line at its home. -/
def State.engineBytes (s : State) (l : LineRef) (off : Nat) (bs : List Byte) : State :=
  (if keyIsPrism l.key then s else s.recall l.ia).putBytes l.key off bs

/-- Adds a weight to a root counter (R156). -/
def State.addWeight (s : State) (l : LineRef) (off w : Nat) : State :=
  let s := if keyIsPrism l.key then s else s.recall l.ia
  s.putBytes l.key off (natLe (leNat (s.bytes l.key off 8) + w) 8)

/-! ### An accepted launch proceeds (R153) -/

/-- How the wait list stands. -/
inductive ListTry where
  | satisfied
  | notYet
  | waits (cause : Byte) (va : Nat)
  | fails (cause : Byte) (va : Nat)
  deriving DecidableEq, Repr

/-- Reads the wait-list entries left. The spec does not say whether the entries are satisfied at one moment or each at its own: here one visit finds all of them satisfied (log entry 111). -/
def State.waitList (s : State) (c : Context) : List Nat → ListTry
  | [] => .satisfied
  | va :: r =>
    match s.engineWord c va 16 .engineRead with
    | .blocked => .notYet
    | .waits cause => .waits cause va
    | .fails cause => .fails cause va
    | .ready l =>
      let a := leNat (s.bytes l.key (va % 128) 8)
      let v := leNat (s.bytes l.key (va % 128 + 8) 8)
      match s.engineWord c a 8 .engineRead with
      | .blocked => .notYet
      | .waits cause => .waits cause a
      | .fails cause => .fails cause a
      | .ready m => if v ≤ leNat (s.bytes m.key (a % 128) 8) then s.waitList c r else .notYet

/-- A launch has ended without its grid. -/
def State.dropLaunch (s : State) (id : Nat) : State := { s with launches := s.launches.filter fun x => x.id ≠ id }

/-- Changes an accepted launch. -/
def State.mapLaunch (s : State) (id : Nat) (f : Launch → Launch) : State :=
  { s with launches := s.launches.map fun x => if x.id = id then f x else x }

/-- The launch has reached a stage; no access of it waits any more. -/
def State.launchAt (s : State) (x : Launch) (st : LaunchStage) : State := s.mapLaunch x.id fun x => { x with stage := st, waiting := none }

/-- Since when the access of the launch to that address waits. -/
def Launch.waitingOn (x : Launch) (va : Nat) : Option Nat := x.waiting.bind fun w => if w.1 = va then some w.2 else none

/-- An access of the launch begins to wait on a page, from now on; one that meets a mirrored page asks for its collapse. -/
def State.noteLaunch (s : State) (x : Launch) (va : Nat) : State :=
  (s.mirrorHint x.ctx va).mapLaunch x.id fun x => { x with waiting := some (va, s.nanos) }

/-- Reports a late rejection (R153): for a host command, with CAUSE alone (22 R386). -/
def State.lateReport (s : State) (x : Launch) (cause : Byte) (faddr : Nat) : State :=
  let toGroup (key team : Nat) (pc : Pc) : State :=
    if ((s.group? key).map fun g => decide (g.team = team)).getD false then
      s.raiseImprecise key { cause, faddr := BitVec.ofNat 64 faddr, origin := BitVec.ofNat 64 pc.toNat, detail := BitVec.ofNat 64 (cause.toNat * 2 ^ 48), committed := false }
    else s.report x.ctx { Frame.at cause faddr with origin := pc.toNat } 0xFFFFFFFF 0xFFFFFFFF 0xFFFFFFFF
  match x.origin with
  | .host _ => s.send (faultMessage x.ctx (Frame.only cause) 0xFFFFFFFF 0xFFFFFFFF 0xFFFFFFFF)
  | .group key team pc => toGroup key team pc
  | .spawn key team pc _ _ => toGroup key team pc

/-- Returns the weight that a SPAWN took, and says whether that is over: the access may have to wait. A fault of it, or the bound of its wait, reports the grid: R153 and R157 name no answer, and R156 gives this one to a team's own return of its weight (log entry 132). -/
def State.returnWeight (s : State) (x : Launch) (c : Context) (stage : LaunchStage) : State × Bool :=
  match x.origin with
  | .spawn _ _ _ root w =>
    match s.engineWord c root.toNat 8 .engineWrite with
    | .ready l => (s.addWeight l (root.toNat % 128) w, true)
    | .fails cause => (s.reportOnly x.ctx cause, true)
    | .blocked => (s.launchAt x stage, false)
    | .waits cause =>
      match x.waitingOn root.toNat with
      | none => ((s.launchAt x stage).noteLaunch x root.toNat, false)
      | some t => if t + c.engwait ≤ s.nanos then (s.reportOnly x.ctx cause, true) else (s, false)
  | _ => (s, true)

/-- A late rejection: the weight of a SPAWN is returned, and the cause reported. -/
def State.lateReject (s : State) (x : Launch) (c : Context) (cause : Byte) (faddr : Nat) : State :=
  match s.returnWeight x c (.reject cause faddr) with
  | (s, false) => s
  | (s, true) => (s.dropLaunch x.id).lateReport x cause faddr

/-- An access of a launch waits on a page; at the bound of R255 the launch is rejected. -/
def State.launchWaits (s : State) (x : Launch) (c : Context) (cause : Byte) (va : Nat) : State :=
  match x.waitingOn va with
  | none => s.noteLaunch x va
  | some t => if t + c.engwait ≤ s.nanos then s.lateReject x c cause va else s

/-! ### Bind records (R145, 22 R399) -/

/-- Doubleword i of a bind record of a die. -/
def State.slot (s : State) (die rec i : Nat) : Nat := (smGet 0 s.slots ((die * 128 + rec) * 8 + i)).toNat

/-- Writes doublewords of a bind record. -/
def State.setSlot (s : State) (die rec : Nat) (ws : List Nat) : State :=
  { s with slots := ws.zipIdx.foldl (fun m x => smPut 0 m ((die * 128 + rec) * 8 + x.2) (BitVec.ofNat 64 x.1)) s.slots }

/-- Units of a grid: 576 cores, or 288 pairs. -/
def Grid.units (g : Grid) : Nat := if LaunchRec.pair g.record then 288 else 576

/-- The first core of a unit. -/
def Grid.unitCore (g : Grid) (u : Nat) : Nat := if LaunchRec.pair g.record then 2 * u else u

/-- The teams of a unit: the first and how many. -/
def Grid.unitTeams (g : Grid) (u : Nat) : Nat × Nat :=
  if g.teams ≤ g.units then (u, if u < g.teams then 1 else 0)
  else
    let a := u * g.teams / g.units
    (a, (u + 1) * g.teams / g.units - a)

/-- The bind record of a unit. -/
def Grid.bindRecord (g : Grid) (u : Nat) : List Nat :=
  let r : LaunchRec := g.record
  let core := g.unitCore u
  let (first, n) := g.unitTeams u
  let mask := if r.pair then 2 ^ coreJ core + 2 ^ (coreJ core + 1) else 2 ^ coreJ core
  [2 ^ 63 + r.pcls * 2 ^ 60 + b2n r.pair * 2 ^ 59 + r.carve * 2 ^ 56 + r.gw * 2 ^ 54 + r.regs * 2 ^ 50 + r.gpt * 2 ^ 44 + r.scr * 2 ^ 32 + g.ctx,
   first * 2 ^ 32 + (first + n - 1), first * 2 ^ 32 + g.id, g.recIa, coreCluster core % 6 * 2 ^ 24 + mask, 0, 0, 0]

/-- The lowest record of a die for which a condition holds. -/
def State.findRec (s : State) (die : Nat) (f : Nat → Bool) : Option Nat := (List.range 128).find? fun n => f (s.slot die n 0)

/-- The record of a team that has been bound elsewhere than by dispatch: valid and BOUND (22 R399). A die without a free record reuses one that is BOUND; the team is not bound before there is one (`State.recordRoom`; log entry 113). -/
def State.recordTeam (s : State) (t : Team) : State :=
  match s.grid? t.ctx t.grid with
  | none => s
  | some g =>
    let core := if t.pair then evenCore t.core else t.core
    let die := coreDie core
    match (s.findRec die fun d => !bit d 63).orElse fun _ => s.findRec die fun d => bit d 63 && bit d 62 with
    | none => s
    | some rec =>
      let w := g.bindRecord (if t.pair then core / 2 else core)
      s.setSlot die rec ([w.getD 0 0 + 2 ^ 62, t.num * 2 ^ 32 + t.num, (t.num + 1) % 2 ^ 32 * 2 ^ 32 + g.id] ++ w.drop 3)

/-- Writes bind records in unit order while the dies have free ones. -/
def State.writeRecords (s : State) (ctx grid : Nat) : Nat → State
  | 0 => s
  | n + 1 =>
    match s.grid? ctx grid with
    | none => s
    | some g =>
      if g.units ≤ g.nextUnit || (g.unitTeams g.nextUnit).2 = 0 then s
      else
        let die := coreDie (g.unitCore g.nextUnit)
        match s.findRec die fun d => !bit d 63 with
        | none => s
        | some rec =>
          ((s.setSlot die rec (g.bindRecord g.nextUnit)).mapGrid ctx grid fun g => { g with nextUnit := g.nextUnit + 1 }).writeRecords ctx grid n

/-- The grid of a launch begins: its records are written. -/
def State.startGrid (s : State) (x : Launch) (teams : Nat) : State :=
  let (weight, root) := match x.origin with
    | .spawn _ _ _ root w => (w, root)
    | _ => (2 ^ 63, BitVec.ofNat 64 (LaunchRec.done x.record))
  let g : Grid := { ctx := x.ctx, id := x.grid, record := x.record, recIa := x.recIa, args := x.args, teams, weight, root, nextUnit := 0,
                    launch := x.id, done := 0 }
  State.writeRecords { (s.dropLaunch x.id) with grids := s.grids ++ [g] } x.ctx x.grid 577

/-- The launch is a SPAWN. -/
def Launch.isSpawn (x : Launch) : Bool :=
  match x.origin with
  | .spawn _ _ _ _ _ => true
  | _ => false

/-- Steps 3 and 4 of R153 for a grid of so many teams; a count of 0 completes at once (R157). -/
def State.launchTeams (s : State) (x : Launch) (c : Context) (teams : Nat) : State :=
  if x.isSpawn then
    if teams = 0 then
      match s.returnWeight x c (.place 0) with
      | (s, false) => s
      | (s, true) => s.dropLaunch x.id
    else s.startGrid x teams
  else
    let va := LaunchRec.done x.record
    match s.engineWord c va 8 .engineWrite with
    | .blocked => s.launchAt x x.stage
    | .waits cause => s.launchWaits x c cause va
    | .fails cause => s.lateReject x c cause va
    | .ready l =>
      let s := s.engineBytes l (va % 128) (natLe (if teams = 0 then 2 ^ 63 else 0) 8)
      if teams = 0 then s.dropLaunch x.id else s.startGrid x teams

/-- The launch goes on from another stage, with no access waiting. -/
def Launch.goesTo (x : Launch) (st : LaunchStage) : Launch := { x with stage := st, waiting := none }

/-- Steps 3 and 4 of R153, reached with the number of teams. -/
def State.placeLaunch (s : State) (x : Launch) (c : Context) (teams : Nat) : State :=
  (s.launchAt x (.place teams)).launchTeams (x.goesTo (.place teams)) c teams

/-- Step 2 of R153: an indirect launch reads its count. -/
def State.launchCount (s : State) (x : Launch) (c : Context) : State :=
  let r : LaunchRec := x.record
  if !r.ind then s.placeLaunch x c (r.dimx * r.dimy * r.dimz)
  else
    match s.engineWord c r.cntptr 4 .engineRead with
    | .blocked => s.launchAt x .count
    | .waits cause => s.launchWaits x c cause r.cntptr
    | .fails cause => s.lateReject x c cause r.cntptr
    | .ready l =>
      let n := leNat (s.bytes l.key (r.cntptr % 128) 4) * r.dimy * r.dimz
      if 2 ^ 32 < n then s.lateReject x c 0x82 0 else s.placeLaunch x c n

/-- Steps 1 and 2 of R153: once the wait list has been satisfied, the launch goes on to its count. -/
def State.launchList (s : State) (x : Launch) (c : Context) : State :=
  let r : LaunchRec := x.record
  match s.waitList c ((List.range (r.wln % 16)).map fun i => r.wlptr + 16 * i) with
  | .notYet => s.launchAt x .list
  | .waits cause va => s.launchWaits x c cause va
  | .fails cause va => s.lateReject x c cause va
  | .satisfied => (s.launchAt x .count).launchCount (x.goesTo .count) c

/-- WAIT_LIST_SATISFIED (R153): a launch whose wait list is satisfied reads its count, clears its root counter and has its teams placed. A step that has been taken is not taken again: a launch that waits goes on with the access that waits. -/
def execWaitListSatisfied (launch : Nat) (s : State) : Host.Outcome State Fault Refusal :=
  match s.launches.find? fun x => x.id = launch with
  | none => .next s
  | some x =>
    match s.ctx? x.ctx with
    | none => .next s
    | some c =>
      if c.reported.isSome || c.preempting.isSome || c.preempted then .next s
      else
        match x.stage with
        | .list => .next (s.launchList x c)
        | .count => .next (s.launchCount x c)
        | .place n => .next (s.launchTeams x c n)
        | .reject cause faddr => .next (s.lateReject x c cause faddr)

/-- SLOT_RECORD_REUSE (22 R399): a grid that waits for a bind record reuses one that is BOUND. -/
def execSlotRecordReuse (launch : Nat) (s : State) : Host.Outcome State Fault Refusal :=
  match s.grids.find? fun g => g.launch = launch with
  | none => .next s
  | some g =>
    if g.units ≤ g.nextUnit || (g.unitTeams g.nextUnit).2 = 0 then .next s
    else
      let die := coreDie (g.unitCore g.nextUnit)
      let s := match s.findRec die fun d => !bit d 63, s.findRec die fun d => bit d 63 && bit d 62 with
        | none, some rec => s.setSlot die rec [0, 0, 0, 0, 0, 0, 0, 0]
        | _, _ => s
      .next (s.writeRecords g.ctx g.id 577)

/-! ### Dispatch (R146, R147) -/

/-- A bind record's fields. -/
structure BindRec where
  pcls : Nat
  pair : Bool
  carve : Nat
  gw : Nat
  regs : Nat
  groups : Nat
  scr : Nat
  ctx : Nat
  first : Nat
  last : Nat
  next : Nat
  grid : Nat
  cl : Nat
  cmask : Nat
  deriving DecidableEq, Repr

/-- The record in a slot. -/
def State.bindRec (s : State) (die rec : Nat) : BindRec :=
  let w (i : Nat) := s.slot die rec i
  { pcls := bits (w 0) 60 2, pair := bit (w 0) 59, carve := bits (w 0) 56 3, gw := bits (w 0) 54 2, regs := 8 * (bits (w 0) 50 4 + 1),
    groups := bits (w 0) 44 6 + 1, scr := bits (w 0) 32 12, ctx := bits (w 0) 0 32, first := bits (w 1) 32 32, last := bits (w 1) 0 32,
    next := bits (w 2) 32 32, grid := bits (w 2) 0 32, cl := bits (w 4) 24 3, cmask := bits (w 4) 0 24 }

/-- The allowed cores, or the even cores of the allowed pairs, rising. -/
def BindRec.cores (b : BindRec) (die : Nat) : List Nat :=
  let base := die * 144 + b.cl * 24
  if b.pair then ((List.range 12).filter fun i => bit b.cmask (2 * i) && bit b.cmask (2 * i + 1)).map fun i => base + 2 * i
  else ((List.range 24).filter fun j => bit b.cmask j).map fun j => base + j

/-- A valid record that R146 rejects. -/
def State.badRec (s : State) (die rec : Nat) : Bool :=
  let b := s.bindRec die rec
  decide (5 ≤ b.carve) || b.gw = 3 || decide (6 ≤ b.cl) || bits (s.slot die rec 3) 52 12 ≠ 0 || bits (s.slot die rec 3) 0 7 ≠ 0
  || bits (s.slot die rec 4) 27 37 ≠ 0 || s.slot die rec 5 ≠ 0 || s.slot die rec 6 ≠ 0 || s.slot die rec 7 ≠ 0
  || decide (b.last < b.first) || (decide (32 < b.groups) && !b.pair)
  || (b.pair && (List.range 12).any fun i => bit b.cmask (2 * i + 1) && !bit b.cmask (2 * i))
  || (b.cores die).isEmpty || !teamFits (gwLanes b.gw) b.regs b.groups b.pair b.scr (BitVec.ofNat 3 b.carve)

/-- Teams that are resident on a core. -/
def State.residents (s : State) (core : Nat) : List Team :=
  s.teams.filter fun t => if t.pair then evenCore t.core = evenCore core else t.core = core

/-- What the groups of a core hold, those that have ended among them until their team is released (R130, R156). -/
def State.holders (s : State) (core : Nat) : List GoneGroup :=
  ((s.groups.filter fun e => keyCore e.1 = core && !keyIsGlint e.1).map fun e => ⟨e.1, e.2.width, e.2.regs, e.2.pslot⟩)
    ++ (s.teams.flatMap Team.gone).filter fun x => keyCore x.key = core

/-- Group slots of a core that are taken. -/
def State.takenSlots (s : State) (core : Nat) : List Nat :=
  (s.holders core).flatMap fun x => if x.width = 64 then [x.key % 64, x.key % 64 + 1] else [x.key % 64]

/-- Places n groups of a width in free slots, lowest first. -/
def placeSlots (width : Nat) : Nat → List Nat → Option (List Nat)
  | 0, _ => some []
  | n + 1, taken =>
    let free (i : Nat) : Bool := !taken.contains i
    match (if width = 64 then ((List.range 16).map fun i => 2 * i).find? fun i => free i && free (i + 1) else (List.range 32).find? free) with
    | none => none
    | some i => (placeSlots width n (if width = 64 then i :: (i + 1) :: taken else i :: taken)).map fun r => i :: r

/-- Vector register bytes in use on a core. -/
def State.regsInUse (s : State) (core : Nat) : Nat :=
  ((s.holders core).map fun x => regBytes x.width x.regs).foldl (· + ·) 0

/-- The first line of the lowest free run on a core (09 R192). -/
def State.freeRun (s : State) (core scr : Nat) (carve : BitVec 3) : Option Nat :=
  let n := scrLines scr
  let used := (s.residents core).map fun t => (if t.pair && core % 2 = 1 then t.base1 else t.base0, scrLines t.scr)
  if n = 0 then some 0
  else
    ((List.range (carveLines carve / 16)).map fun i => 16 * i).find? fun b =>
      decide (b + n ≤ carveLines carve) && used.all fun u => u.2 = 0 || decide (b + n ≤ u.1) || decide (u.1 + u.2 ≤ b)

/-- Where a team would go on a core: the slots of its groups there and the base of its lines. -/
structure CorePlace where
  slots : List Nat
  base : Nat
  deriving DecidableEq, Repr

/-- A core's free resources for its part of a team (R147, 09 R191); a core that holds no team takes the team's split. -/
def State.placeOn (s : State) (core : Nat) (b : BindRec) (odd : Bool) : Option CorePlace :=
  let carve := BitVec.ofNat 3 b.carve
  let width := gwLanes b.gw
  let gs := groupsOn b.pair odd b.groups
  if decide (32 ≤ (s.residents core).length) || (s.carveOf core ≠ carve && !(s.residents core).isEmpty)
      || decide (524288 < s.regsInUse core + gs.length * regBytes width b.regs) then none
  else
    match placeSlots width gs.length (s.takenSlots core), s.freeRun core b.scr carve with
    | some slots, some base => some ⟨slots, base⟩
    | _, _ => none

/-- The private slots of a context that are in use. -/
def State.usedPslots (s : State) (ctx : Nat) : List Nat :=
  ((s.groups.filter fun e => e.2.ctx = ctx && e.2.glint.isNone).map fun e => e.2.pslot)
    ++ ((s.teams.filter fun t => t.ctx = ctx).flatMap Team.gone).map GoneGroup.pslot

/-- The n lowest free private slots (09 R182). -/
def freePslots (nps : Nat) : Nat → List Nat → Option (List Nat)
  | 0, _ => some []
  | n + 1, used =>
    match (List.range (used.length + 1)).find? fun q => !used.contains q with
    | none => none
    | some q => if q < nps then (freePslots nps n (q :: used)).map fun r => q :: r else none

/-- The lines of an allocation read zero and are present (09 R192). -/
def State.clearLines (s : State) (core base n : Nat) : State :=
  { s with
    mem := memClear s.mem (sramKey core base * 256) (sramKey core (base + n) * 256)
    poison := s.poison.filter fun k => decide (k < sramKey core base) || decide (sramKey core (base + n) ≤ k)
    lineState := s.lineState.filter fun e => decide (e.1 < core * 4096 + base) || decide (core * 4096 + base + n ≤ e.1) }

/-- A group as it is bound (04 R69, 07 R154). -/
def bindGroup (g : Grid) (c : Context) (team num width regs pcls pslot now id : Nat) : Group :=
  let r : LaunchRec := g.record
  let word (b : Nat) : Word := BitVec.ofNat 32 (b * 2 ^ 23)
  let x := newGroup team num g.ctx width regs
  let x := if r.lsi then (((x.setLsmin (word r.lmine)).setLsmax (word r.lmaxe)).setLscale (word r.lse)).setLsclean (BitVec.ofNat 32 r.run) else x
  { x with seed := c.seed, pslot, pcls, readyAt := now, eligible := some now, mat := ⟨id, 0, 0, 0⟩,
           splits := [{ newSplit 0 (BitVec.ofNat 56 r.entry) (laneMask width) none with starts := true }] }

/-- Binds the groups of a team: their numbers, keys and private slots. -/
def State.bindGroups (s : State) (g : Grid) (c : Context) (b : BindRec) (team : Nat) : List (Nat × Nat × Nat) → State
  | [] => s
  | (num, key, q) :: r =>
    let (id, s) := s.takeId
    (s.putGroup key (bindGroup g c team num (gwLanes b.gw) b.regs b.pcls q s.cycles id)).bindGroups g c b team r

/-- A core that holds no team writes back and discards its L1 and adopts a new split (09 R191). -/
def State.repartition (s : State) (core : Nat) (carve : BitVec 3) : State :=
  let s := (s.flushCore core).dropClean core
  { s with carve := smPut 3 s.carve core carve }

/-- A core to which a team is bound has the team's split (R147, 09 R191). -/
def State.adopt (s : State) (core : Nat) (carve : BitVec 3) : State := if s.carveOf core = carve then s else s.repartition core carve

/-- Binds team `num` of a grid at places on a core, or on the two cores of a pair. -/
def State.bindTeam (s : State) (g : Grid) (c : Context) (b : BindRec) (num core : Nat) (p0 : CorePlace) (p1 : Option CorePlace)
    (qs : List Nat) : State :=
  let s := s.adopt core (BitVec.ofNat 3 b.carve)
  let s := if b.pair then s.adopt (core + 1) (BitVec.ofNat 3 b.carve) else s
  let (id, s) := s.takeId
  let t : Team :=
    { id, ctx := b.ctx, grid := b.grid, num, core, pair := b.pair, groups := b.groups, scr := b.scr, carve := BitVec.ofNat 3 b.carve,
      base0 := p0.base, base1 := (p1.map CorePlace.base).getD 0, weight := teamWeight g.weight g.teams num,
      barriers := List.replicate 16 (newBarrier b.groups), sets := [], rendezvous := [], ended := 0, gone := [], published := false, waitSince := none }
  let s := { s with teams := s.teams ++ [t] }.clearLines core p0.base (scrLines b.scr)
  let s := (s.acquire core b.pair .dev)
  let s := match p1 with
    | some p => (s.clearLines (core + 1) p.base (scrLines b.scr)).acquire (core + 1) b.pair .dev
    | none => s
  let even := (groupsOn b.pair false b.groups).zip (p0.slots.map fun x => core * 64 + x)
  let odd := match p1 with
    | some p => (groupsOn b.pair true b.groups).zip (p.slots.map fun x => (core + 1) * 64 + x)
    | none => []
  let keys := (List.range b.groups).filterMap fun n => (alGet even n).orElse fun _ => alGet odd n
  s.bindGroups g c b id ((List.range b.groups).zip (keys.zip qs))

/-- The first allowed core with free resources, with the places there. -/
def State.findCore (s : State) (b : BindRec) : List Nat → Option (Nat × CorePlace × Option CorePlace)
  | [] => none
  | core :: r =>
    match s.placeOn core b false, (if b.pair then s.placeOn (core + 1) b true else some ⟨[], 0⟩) with
    | some p0, some p1 => some (core, p0, if b.pair then some p1 else none)
    | _, _ => s.findCore b r

/-- Where dispatch would bind the next team of a record: the core, the places there, the private slots; none while the record waits. -/
def State.bindPlace (s : State) (die : Nat) (b : BindRec) : Option (Grid × Context × Nat × CorePlace × Option CorePlace × List Nat) :=
  match s.ctx? b.ctx, s.grid? b.ctx b.grid with
  | some c, some g =>
    if c.reported.isSome || c.preempting.isSome || c.preempted || c.freeing then none
    else
      match s.findCore b (b.cores die), freePslots c.nps b.groups (s.usedPslots b.ctx) with
      | some (core, p0, p1), some qs => some (g, c, core, p0, p1, qs)
      | _, _ => none
  | _, _ => none

/-- The record is valid and not BOUND, and dispatch rejects it or binds a team from it. -/
def State.dispatches (s : State) (die rec : Nat) : Bool :=
  let w0 := s.slot die rec 0
  bit w0 63 && !bit w0 62 && (s.badRec die rec || (s.bindPlace die (s.bindRec die rec)).isSome)

/-- The record at which a die's dispatch acts next: visits go in increasing index, round and round, from the one after the last that bound a team; a record that finds no room is passed over (R147). -/
def State.nextVisit (s : State) (die : Nat) : Option Nat :=
  let start := smGet 0 s.visits die
  ((List.range 128).map fun i => (start + i) % 128).find? fun rec => s.dispatches die rec

/-- TEAM_BIND (R147): dispatch binds the next team of the record that it visits, or rejects the record (R146). One visit binds one team (log entry 112). -/
def execTeamBind (die rec : Nat) (s : State) : Host.Outcome State Fault Refusal :=
  if 4 ≤ die || 128 ≤ rec || s.nextVisit die ≠ some rec then .next s
  else
    let w0 := s.slot die rec 0
    let b := s.bindRec die rec
    let s : State := { s with visits := smPut 0 s.visits die ((rec + 1) % 128) }
    if s.badRec die rec then
      let s := s.setSlot die rec [w0 - 2 ^ 63]
      .next (State.reportOnly { s with lantern := s.lantern ++ [⟨0x87, rec⟩] } b.ctx 0x87)
    else
      match s.bindPlace die b with
      | some (g, c, core, p0, p1, qs) =>
        let s := s.bindTeam g c b b.next core p0 p1 qs
        let w0 := if b.last ≤ b.next then w0 + 2 ^ 62 else w0
        .next (s.setSlot die rec [w0, s.slot die rec 1, (b.next + 1) % 2 ^ 32 * 2 ^ 32 + b.grid])
      | none => .next s

/-- REPARTITION (09 R191). -/
def execRepartition (core carve : Nat) (s : State) : Host.Outcome State Fault Refusal :=
  if !(s.residents core).isEmpty || 5 ≤ carve || s.carveOf core = BitVec.ofNat 3 carve then .next s
  else .next (s.repartition core (BitVec.ofNat 3 carve))

/-! ### The end of a team (R156) -/

/-- A team is released: its barriers, its scratchpad lines, and its place in the grid; a grid all of whose teams have ended is forgotten. -/
def State.freeTeam (s : State) (t : Team) : State :=
  let s := { s with teams := s.teams.filter fun x => x.id ≠ t.id }.mapGrid t.ctx t.grid fun g => { g with done := g.done + 1 }
  { s with grids := s.grids.filter fun g => !(g.ctx = t.ctx && g.id = t.grid && decide (g.teams ≤ g.done)) }

/-- The report of a completion action, and the release of the team. -/
def State.failTeam (s : State) (t : Team) (cause : Byte) (va : Nat) : State :=
  ((s.report t.ctx (Frame.at cause va) (if t.pair then evenCore t.core else t.core) 0xFFFFFFFF t.num).freeTeam t)

/-- A completion action waits on a page; at the bound of R255 it fails. -/
def State.teamWaits (s : State) (t : Team) (c : Context) (cause : Byte) (va : Nat) : State :=
  match t.waitSince with
  | none => (s.mirrorHint t.ctx va).mapTeam t.id fun t => { t with waitSince := some s.nanos }
  | some since => if since + c.engwait ≤ s.nanos then s.failTeam t cause va else s

/-- Everything that the groups of the team have begun has ended. -/
def State.teamQuiet (s : State) (t : Team) : Bool :=
  t.ended = t.groups && s.sliceReqs.all (fun q => q.team ≠ t.id) && s.held.all (fun h => h.team ≠ t.id)
  && s.copies.all (fun o => o.team ≠ t.id) && s.matOps.all (fun o => o.team ≠ t.id) && s.colls.all (fun c => c.team ≠ t.id)
  && s.commits.all fun c => c.discard || c.team ≠ t.id

/-- Releases the stores of a team's cores. -/
def State.releaseTeam (s : State) (t : Team) : State :=
  if t.pair then (s.flushCore (evenCore t.core)).flushCore (evenCore t.core + 1) else s.flushCore t.core

/-- The two completion actions. -/
def State.completeTeam (s : State) (t : Team) (c : Context) (g : Grid) : State :=
  let ev := LaunchRec.evbase g.record
  let va := (ev + 8 * t.num) % 2 ^ 64
  let root := g.root.toNat
  let second (s : State) (t : Team) : State :=
    match s.engineWord c root 8 .engineWrite with
    | .blocked => s.mapTeam t.id fun t => { t with waitSince := none }
    | .waits cause => s.teamWaits t c cause root
    | .fails cause => s.failTeam t cause root
    | .ready l => (s.addWeight l (root % 128) t.weight).freeTeam t
  if ev = 0 || t.published then second s t
  else
    match s.engineWord c va 8 .engineWrite with
    | .blocked => s.mapTeam t.id fun t => { t with waitSince := none }
    | .waits cause => s.teamWaits t c cause va
    | .fails cause => s.failTeam t cause va
    | .ready l =>
      let s := s.engineBytes l (va % 128) (natLe g.id 8)
      let t' := { t with published := true, waitSince := none }
      second (s.mapTeam t.id fun _ => t') t'

/-- TEAM_COMPLETION (R156): a team whose groups have ended performs its completion actions, after the last merge of its grid (11 R238). A team of a reported context is only released (16 R324). -/
def execTeamCompletion (team : Nat) (s : State) : Host.Outcome State Fault Refusal :=
  match s.team? team with
  | none => .next s
  | some t =>
    if !s.teamQuiet t then .next s
    else
      match s.ctx? t.ctx, s.grid? t.ctx t.grid with
      | some c, some g =>
        if c.reported.isSome then .next (s.freeTeam t)
        else
          let s := s.releaseTeam t
          let addrs := if g.done + 1 = g.teams then s.detAddrs t.ctx t.grid else []
          let late := match t.waitSince with
            | some since => decide (since + c.engwait ≤ s.nanos)
            | none => false
          let m := State.mergeList t.ctx t.grid late addrs ⟨s, none, none, none⟩
          match m.owned, m.waits, m.fails with
          | some _, _, _ => .next m.s
          | none, some (ia, cause), _ => .next ((m.s.mirrorIa t.ctx ia).teamWaits t c cause (2 ^ 56))
          | none, none, some (cause, va) => .next (m.s.failTeam t cause va.toNat)
          | none, none, none =>
            if addrs.isEmpty then .next (m.s.completeTeam t c g)
            else .next ((m.s.mapTeam t.id fun t => { t with waitSince := none }).completeTeam { t with waitSince := none } c g)
      | _, _ => .next (s.freeTeam t)

end Sys2Proof.Machine
end

