-- ==== Sys2Proof/Machine/System.lean ====
section
/-! DEFINITION. System instructions and the events of groups: regions, traps raised on purpose, ERET, the loss scale, the seed, the clock, completion flags, special registers, illegal words (17 R332 to R342, 16 R314 to R322, 04 R64, 07 R149). -/

namespace Sys2Proof.Machine

/-! ### Regions (17 R334, R335) -/

/-- The live mask of RBEG and SAFE: MV, and MS from an IMM hint (R334). -/
def liveMask (m : BitVec 16) (imm : Option (BitVec 21)) : BitVec 32 :=
  BitVec.ofNat 32 (((imm.map BitVec.toNat).getD 0) % 2 ^ 16 * 2 ^ 16 + m.toNat)

/-- RBEG (R314, R335). -/
def execRbeg (m : BitVec 16) (s : State) : Host.Outcome State Fault Refusal :=
  issueWord (.rbeg m) .scalar (fun e s =>
    if e.replay then .next s
    else if !e.g.flagsClear then .hold .flagsClear
    else if 1 < e.g.splits.length then .trap (trapOf 0x0E)
    else if e.g.region.isSome then .trap (trapOf 0xB1)
    else .next (s.openRegion e.k e.slot e.pc (liveMask m e.imm))) s

/-- The boundary at which a group stands. -/
def State.setEdge (s : State) (k : Nat) (x : Edge) : State := s.mapGroup k fun g => { g with edge := x }

/-- What closes the open region: the state after its commit, or what it waits for, or the trap of a poisoned line (R315). A line that keeps an effect waiting does not keep the group. -/
def State.closeRegion (s : State) (e : Env) : Except Res State :=
    match s.commitWait e.k e.g, s.poisonedEntry e.g with
    | none, none => .ok (s.commitRegion e.k)
    | some (.owned _), none | some (.lines _), none => .ok (s.handOver e.k)
    | none, some b | some (.owned _), some b | some (.lines _), some b => .error (.trap (trapAt 0x61 b.lineVa))
    | some h, _ => .error (.hold h)

/-- RCOM (R314, R315). -/
def execRcom (s : State) : Host.Outcome State Fault Refusal :=
  issueWord .rcom .scalar (fun e s =>
    if !e.g.flagsClear then .hold .flagsClear
    else if 1 < e.g.splits.length then .trap (trapOf 0x0E)
    else if e.g.region.isNone then .trap (trapOf 0xB1)
    else
      match s.closeRegion e with
      | .error r => r
      | .ok s => .next (s.setEdge e.k .rcom)) s

/-- SAFE (R314): RCOM when a region is open, then RBEG. -/
def execSafe (m : BitVec 16) (s : State) : Host.Outcome State Fault Refusal :=
  issueWord (.safe m) .scalar (fun e s =>
    if e.replay then .next (s.setEdge e.k .safe)
    else if !e.g.flagsClear then .hold .flagsClear
    else if 1 < e.g.splits.length then .trap (trapOf 0x0E)
    else
      match (if e.g.region.isNone then .ok s else s.closeRegion e) with
      | .error r => r
      | .ok s => .next ((s.openRegion e.k e.slot e.pc (liveMask m e.imm)).setEdge e.k .safe)) s

/-! ### Traps raised on purpose (17 R336), ERET (16 R326) -/

/-- A word that raises one cause with n in FADDR. -/
def raiseWord (i : Instr) (cause n : Nat) (s : State) : Host.Outcome State Fault Refusal :=
  issueWord i .scalar (fun _ _ => .trap (trapAt cause n)) s

/-- TRAP. -/
def execTrap (n : BitVec 3) (s : State) : Host.Outcome State Fault Refusal := raiseWord (.trap n) (0x18 + n.toNat) n.toNat s
/-- SVC. -/
def execSvc (n : BitVec 16) (s : State) : Host.Outcome State Fault Refusal := raiseWord (.svc n) 0xB2 n.toNat s
/-- HALT. -/
def execHalt (n : BitVec 16) (s : State) : Host.Outcome State Fault Refusal := raiseWord (.halt n) 0x16 n.toNat s
/-- BKPT. -/
def execBkpt (n : BitVec 16) (s : State) : Host.Outcome State Fault Refusal := raiseWord (.bkpt n) 0x12 n.toNat s

/-- RESUME is the address of the aborted region that was set aside, which the device has named itself (16 R318, R325). -/
def SetAside.replaysAt (a : SetAside) (resume : Nat) : Bool := (a.region.map fun r => r.replaying && r.rbeg.toNat = resume).getD false

/-- ERET: RESUME is read from the frame as a load at .acq.grp, and the split that trapped continues there. RESUME may be the word of an aborted region, which is issued again (16 R318); every other RESUME must be a clause header (16 R326). -/
def execEret (s : State) : Host.Outcome State Fault Refusal :=
  issueWord .eret .scalar (fun e s =>
    match e.g.handler with
    | none => .trap (trapOf 0x17)
    | some a =>
      let va := a.frame.toNat + 32
      match s.resolveScalar (s.ctxOf e.g) va .load false with
      | .error f => .trap (f.trap va none)
      | .ok l =>
        match s.linesWait [l] with
        | some h => .hold h
        | none =>
          let d := s.doer e.k e.g
          let (bs, s) := s.loadOrd d.core d.pair l (va % 128) 8 .acq .grp 0
          let resume := leNat bs
          if a.replaysAt resume then .placed (s.mapGroup e.k fun g => g.returnTrap a (BitVec.ofNat 56 resume))
          else if 2 ^ 56 ≤ resume then .trap (trapAt 0x0C resume)
          else
            s.atTarget e (BitVec.ofNat 56 resume) fun s => .placed (s.mapGroup e.k fun g => g.returnTrap a (BitVec.ofNat 56 resume))) s

/-! ### Loss scale, seed, clock, flags, special registers (17 R338 to R342) -/

/-- LSUPD. -/
def execLsupd (d : BitVec 7) (s : State) : Host.Outcome State Fault Refusal :=
  issueWord (.lsupd d) .scalar (fun e s =>
    if s.holdDone e.k e.g .quiet then
      let r := e.g.lossStep
      .next (s.putGroup e.k (r.1.setS d.toNat r.2))
    else .hold .quiet) s

/-- SEEDSET. -/
def execSeedset (p : BitVec 6) (s : State) : Host.Outcome State Fault Refusal :=
  issueWord (.seedset p) .scalar (fun e s =>
    if (s.ctxOf e.g).seedw then .next (s.putGroup e.k { e.g with seed := e.g.spair (2 * p.toNat) }) else .trap (trapOf 0x15)) s

/-- CLKRD. -/
def execClkrd (d : BitVec 6) (l : BitVec 1) (s : State) : Host.Outcome State Fault Refusal :=
  issueWord (.clkrd d l) .scalar (fun e s =>
    if s.holdDone e.k e.g .allDone then .next (s.putGroup e.k (e.g.setSPair (2 * d.toNat) (BitVec.ofNat 64 (if l = 0 then s.cycles else s.nanos))))
    else .hold .allDone) s

/-- FLRD. -/
def execFlrd (d : BitVec 7) (s : State) : Host.Outcome State Fault Refusal :=
  groupWord (.flrd d) .scalar (fun e =>
    e.g.setS d.toNat (BitVec.ofNat 32 ((List.range 12).foldl (fun a k => if e.g.flagClear k then a else a + 2 ^ k) 0))) s

/-- FLRD.cnt. -/
def execFlrdCnt (d : BitVec 7) (k : BitVec 4) (s : State) : Host.Outcome State Fault Refusal :=
  groupWord (.flrdCnt d k) .scalar (fun e => e.g.setS d.toNat (BitVec.ofNat 32 (e.g.flagCount k.toNat))) s

/-- The effect of WRS on a special register. -/
def Env.writeSpecial (e : Env) (n a : Nat) : Group :=
  let x := e.g.sreg a
  if n = 0x07 then e.g.setExec e.slot (e.g.spair a)
  else if n = 0x09 then e.g.setLscale x
  else if n = 0x0A then e.g.setLsmin x
  else if n = 0x0B then e.g.setLsmax x
  else if n = 0x0C then e.g.setLsclean x
  else if n = 0x0D then e.g.clearFlags x
  else e.g

/-- WRS. -/
def execWrs (n : BitVec 5) (a : BitVec 7) (s : State) : Host.Outcome State Fault Refusal :=
  groupWord (.wrs n a) .scalar (fun e => e.writeSpecial n.toNat a.toNat) s

/-! ### Illegal words (05 R78, R74) -/

/-- The cause of a word that is no instruction. -/
def illegalCause (g : Group) (h : Hints) (err : DecodeErr) : Nat :=
  match err with
  | .schedVer => 0x08
  | .major => 0x00
  | .function => 0x01
  | .reserved i =>
    if typeReserved i then 0x04
    else if unassignedFor i g then 0x01
    else if g.glint.isSome && Instr.glintBarred i then 0x10
    else if !bindsNothing i && h.imm.isSome && !i.takesImm then 0x03
    else if bindsNothing i then 0x05 else 0x04

/-- ILLEGAL_OPCODE and RESERVED_FIELD (R78): a word that matches no assigned encoding traps. A word that is an instruction is issued as such and never comes here. -/
def execIllegalOpcode (w : Word) (s : State) : Host.Outcome State Fault Refusal :=
  match s.focus with
  | none => .fault .noIssuer
  | some (k, slot) =>
    match s.group? k with
    | none => .fault .noIssuer
    | some g =>
      match g.split? slot with
      | none => .fault .noIssuer
      | some sp =>
        match decodeWord w with
        | .ok _ => .next s
        | .error err => .next (s.wordTrap k slot sp.pc (sp.exec &&& windowLanes g sp.hints) (trapOf (illegalCause g sp.hints err)))

/-! ### Events of groups -/

/-- The elements `x` that an operation delivers now; the rest of it. -/
def PendOp.deliverSome (o : PendOp) (x : Elements) (g : Group) : Group × PendOp :=
  let now (e : Nat × Word) : Bool := x.regs.getLsbD (e.1 / 64) && hasLane x.lanes (e.1 % 64)
  ({ g with v := (o.vals.filter now).foldl (fun v e => smPut 0 v e.1 e.2) g.v }, { o with vals := o.vals.filter fun e => !now e })

/-- LONG_LATENCY_COMPLETION (04 R64, R65): an operation delivers the elements of some registers in some lanes, or with `last` all that is left, and its flag count falls. A delivery into a register that the array has yet to read is held (13 R271). -/
def execLongLatencyCompletion (ag : AgentRef) (op : Nat) (x : Elements) (last : Bool) (s : State) : Host.Outcome State Fault Refusal :=
  let k := agentKey ag
  match s.group? k with
  | none => .next s
  | some g =>
    match g.pend.find? fun o => o.id = op && o.kind = .thread with
    | none => .next s
    | some o =>
      let (g', o') := o.deliverSome x g
      let s' := s.putGroup k
        (if last then { g.delivered o with pend := g.pend.filter fun x => x.id ≠ op }
         else { g' with pend := g.pend.map fun x => if x.id = op then o' else x })
      .next (if s.writeWaits s' k = [] then s' else s)

/-- SCHED_STALL_EXPIRY (05 R88): stalls whose cycle has come let their targets issue. -/
def execSchedStallExpiry (ag : AgentRef) (s : State) : Host.Outcome State Fault Refusal :=
  .next (s.mapGroup (agentKey ag) fun g =>
    { g with splits := g.splits.map fun p => if p.stallUntil ≤ s.cycles then { p with stallUntil := 0 } else p })

/-- AGEING_PROMOTION (07 R149): an agent that has been eligible for 128 cycles without issuing is treated as class 0. -/
def execAgeingPromotion (ag : AgentRef) (s : State) : Host.Outcome State Fault Refusal :=
  let k := agentKey ag
  match s.group? k with
  | none => .next s
  | some g => if s.eligible k g && g.aged s.cycles then .next (s.mapGroup k fun g => { g with promoted := true }) else .next s

/-- The split of an agent whose word is to be issued: the one in focus, or the next ready one. -/
def State.issueSlot (s : State) (k : Nat) (g : Group) : Option Nat :=
  match s.focus with
  | some (j, slot) => if j = k then some slot else s.readySlot k g
  | none => s.readySlot k g

/-- A trap in place of the agent's next word, when a condition on the agent and its split holds: at once, or once what it waits for has ended. -/
def State.insteadOfIssue (s : State) (ag : AgentRef) (when' : Group → Split → Bool) (cause : Nat) : State :=
  let k := agentKey ag
  match s.group? k with
  | none => s
  | some g =>
    match (s.issueSlot k g).bind g.split? with
    | none => s
    | some p =>
      if when' g p then
        match s.trapWait k (BitVec.ofNat 8 cause) with
        | some _ => s.mapSplit k p.slot fun p => { p with park := .trapDue (BitVec.ofNat 8 cause) }
        | none => s.agentTrap k p.slot p.pc (p.exec &&& windowLanes g p.hints) (trapOf cause)
      else s

/-- SAFEPOINT_OVERRUN (16 R320). -/
def execSafepointOverrun (ag : AgentRef) (s : State) : Host.Outcome State Fault Refusal :=
  .next (s.insteadOfIssue ag (fun g _ => g.glint.isNone && g.overLimit) 0xB0)

/-- GLINT_BUDGET (12 R264). -/
def execGlintBudget (ag : AgentRef) (s : State) : Host.Outcome State Fault Refusal :=
  .next (s.insteadOfIssue ag (fun g _ => g.glint.isSome && g.overLimit) 0x11)

/-- ABORT_LIMIT (16 R318). -/
def execAbortLimit (ag : AgentRef) (s : State) : Host.Outcome State Fault Refusal :=
  .next (s.insteadOfIssue ag (fun g p => g.replaysAt p.slot p.pc && decide (65536 ≤ g.aborts)) 0xB4)

/-- The cause for which a group of a context has parked after an abort is clear (16 R318, R319). -/
def State.replayClear (s : State) (c : Context) : ReplayCause → Bool
  | .page ia w =>
    match s.translate ia with
    | .ok e => !w || e.writable || !e.mirrored
    | .error f => decide (f ≠ .page)
  | .prism => !s.prismFull && s.prismReachable
  | .remote cls => (s.portFor (c.route cls)).isSome
  | .noCause => true

/-- REGION_REPLAY (16 R318): a group that parked after an abort may issue again once its cause has cleared. -/
def execRegionReplay (ag : AgentRef) (s : State) : Host.Outcome State Fault Refusal :=
  let k := agentKey ag
  match s.group? k with
  | none => .next s
  | some g =>
    match g.replay with
    | some c => if s.replayClear (s.ctxOf g) c then .next (s.mapGroup k fun g => { g with replay := none }) else .next s
    | none => .next s

/-- IMPRECISE_TRAP_DELIVERY (16 R322): at a safe point of the group its oldest imprecise trap is taken. -/
def execImpreciseTrapDelivery (ag : AgentRef) (s : State) : Host.Outcome State Fault Refusal :=
  let k := agentKey ag
  match s.group? k with
  | none => .next s
  | some g =>
    if g.impreciseDue && (s.entryWait g).isNone then
      .next (s.takeImprecise k)
    else .next s

end Sys2Proof.Machine
end

