-- ==== Sys2Proof/Machine/Fabric.lean ====
section
/-! DEFINITION. The fabric: remote loads, stores and atomics, staged stores, ports, allowances, chunk counters (19 R347 to R362, 20 R372 to R378, R381, R382). -/

namespace Sys2Proof.Machine

/-! ### Passes of a remote form (19 R353, 20 R375) -/

/-- Codes of a remote form's checks by whether it loads. -/
def remoteKind : RemoteKind → Kind
  | .rld => .load
  | .rst | .ratom => .store

/-- The address of a lane of a remote form: the pair v(4q). -/
def Env.quadAddr (e : Env) (q : BitVec 5) (l : Nat) : Nat := (e.g.vpair (4 * q.toNat) l).toNat

/-- The class of a lane: v(4q+2). -/
def Env.quadClass (e : Env) (q : BitVec 5) (l : Nat) : Nat := (e.g.vreg (4 * q.toNat + 2) l).toNat

/-- The trap of the lanes for which a check fails. -/
def Env.laneCheck (e : Env) (q : BitVec 5) (cause : Nat) (bad : Nat → Bool) : Option TrapInfo :=
  match e.lanes.filter bad with
  | [] => none
  | l :: r => some ⟨BitVec.ofNat 8 cause, BitVec.ofNat 64 (e.quadAddr q l), some (maskOf (l :: r)), 0, none⟩

/-- The checks of a remote form, in the order of 20 R375 and 19 R353. -/
def Env.remoteTrap (e : Env) (c : Context) (kind : RemoteKind) (q : BitVec 5) (n : Nat) : Option TrapInfo :=
  let w := (remoteKind kind).num
  (e.laneCheck q (0x40 + w) fun l => e.quadAddr q l % n ≠ 0).orElse fun _ =>
  (e.laneCheck q (0x44 + w) fun l => decide (2 ^ 56 ≤ e.quadAddr q l) || decide (bits (e.quadAddr q l) 48 8 = 0xFF)).orElse fun _ =>
  (e.laneCheck q 0xA0 fun l => 64 ≤ e.quadClass q l).orElse fun _ =>
  (e.laneCheck q 0xA1 fun l => 3 ≤ e.quadClass q l && !bit (c.route (e.quadClass q l)) 63).orElse fun _ =>
  e.laneCheck q 0xA3 fun l => e.quadClass q l < 3

/-- The distinct classes of the active lanes in increasing order. -/
def Env.remoteClasses (e : Env) (q : BitVec 5) : List Nat :=
  (List.range 64).filter fun c => e.lanes.any fun l => e.quadClass q l = c

/-- What the form fixes of its requests: kind, size code, op, order, operand words of a lane. -/
structure RemoteForm where
  kind : RemoteKind
  d : Nat
  z : Nat
  op : BitVec 4
  ord : BitVec 2
  words : Nat

/-- Bytes of one lane's access. -/
def RemoteForm.bytes (f : RemoteForm) : Nat :=
  match f.kind with
  | .ratom => atomSize f.op
  | .rld | .rst => sizeBytes f.z

/-- Cost of a pass of so many lanes (19 R360). -/
def RemoteForm.cost (f : RemoteForm) (n : Nat) : Nat :=
  match f.kind with
  | .rld => wireCost 0
  | .rst => wireCost (n * f.bytes)
  | .ratom => wireCost (8 * n)

/-- The pass of a class, with its cost: the lanes that name the class, in increasing order. -/
def Env.remotePass (e : Env) (c : Context) (f : RemoteForm) (q : BitVec 5) (cls : Nat) : Nat × RemoteReq :=
  let ls := e.lanes.filter fun l => e.quadClass q l = cls
  (f.cost ls.length,
    { srcDev := 0, pass := cls, ctx := bits (c.route cls) 0 32, kind := f.kind, size := f.bytes, op := f.op.toNat, ord := f.ord,
      mode := match f.kind with
        | .ratom => e.ctl.mode
        | .rld | .rst => 0
      staged := none,
      lanes := ls.map fun l => ⟨l, BitVec.ofNat 64 (e.quadAddr q l), (List.range f.words).map fun i => e.g.vreg (f.d + i) l⟩ })

/-! ### Sending a pass -/

/-- The lanes of a request. -/
def reqMask (q : RemoteReq) : Mask := maskOf (q.lanes.map (·.lane))

/-- The locations of a pass as the atomic log records them: the address with the class above it (16 R317). -/
def reqLocs (q : RemoteReq) (cls : Nat) : List (Nat × Nat) := q.lanes.map fun l => (l.lane, l.addr.toNat + 2 ^ 64 * cls)

/-- The staged lines of a pass as the region's buffer counts them (19 R356). -/
def reqStaged (q : RemoteReq) (cls run : Nat) (pc : Pc) : List BufEntry :=
  ((q.lanes.map fun l => l.addr.toNat / 128).eraseDups).map fun n =>
    { line := ⟨0, 0⟩, va := BitVec.ofNat 64 (n * 128), kind := .staged cls n run, order := memOrder q.ord, scope := .sys, cp := 0, pc }

/-- The next pass of a group's remote form waits on its class. -/
def State.queuePass (s : State) (k : Nat) (r : RemoteRun) : State :=
  match r.todo with
  | [] => s
  | (_, q) :: _ => s.enterWait (keyCore k) q.pass (.group k)

/-- The registers that a response delivers. -/
def Pass.delivers (p : Pass) (vals : List (Nat × List Word)) : SMap Word :=
  let word (l i : Nat) : Word := ((alGet vals l).getD []).getD i 0
  match p.req.kind with
  | .rst => []
  | .rld => loadValues p.d p.z (p.req.lanes.map fun l => (l.lane, natLe (word l.lane 0).toNat 4 ++ natLe (word l.lane 1).toNat 4))
  | .ratom => atomValues p.d (p.req.lanes.map fun l => (l.lane, (List.range (p.req.size / 4)).map (word l.lane)))

/-- The form of a pass still counts in its group: neither an abort nor a trap has ended it. -/
def State.passLive (s : State) (p : Pass) : Option Group :=
  match s.group? p.key with
  | some g => if g.pend.any fun o => o.kind = .remote p.run then some g else none
  | none => none

/-- Replaces a pass by `f` of it. -/
def State.mapPass (s : State) (id : Nat) (f : Pass → Pass) : State :=
  { s with passes := s.passes.map fun x => if x.id = id then f x else x }

/-- A list with its n-th element replaced by `f` of it. -/
def mapAt {α : Type} (n : Nat) (f : α → α) (l : List α) : List α := (l.take n) ++ ((l.drop n).take 1).map f ++ l.drop (n + 1)

/-- A group's remote form after a pass has been dealt with: outside a region it stays until every pass is answered, inside one until every pass is sent and every acquire pass answered (19 R352, R355). Its operation ends with its last response. -/
def State.settleRun (s : State) (k run : Nat) : State :=
  match s.group? k with
  | none => s
  | some g =>
    let out := s.passes.any fun p => p.run = run
    let rest := match g.remote with
      | some r => decide (r.id = run) && !r.todo.isEmpty
      | none => false
    s.mapGroup k fun g =>
      { g with
        remote := match g.remote with
          | some r => if r.id = run && r.todo.isEmpty && (if g.region.isSome then r.waiting.isEmpty else !out) then none else some r
          | none => none
        pend := if out || rest then g.pend else g.pend.filter fun o => o.kind ≠ .remote run }

/-- The atomic log with the values of a pass (16 R317). -/
def Pass.logged (p : Pass) (vals : List (Nat × List Word)) (log : List LogEntry) : List LogEntry :=
  let words : List (Nat × List Word) := p.req.lanes.map fun l => (l.lane, (List.range (p.req.size / 4)).map fun i => ((alGet vals l.lane).getD []).getD i 0)
  match p.logAt with
  | some n => mapAt n (fun e => { e with vals := words }) log
  | none => log

/-- What a pass writes when it ends: its results, its flags, and the acquire half of its order. -/
def State.landPass (s : State) (p : Pass) (vals : List (Nat × List Word)) (flags : BitVec 8) : State :=
  let s := s.mapGroup p.key fun g =>
    { g with
      v := (p.delivers vals).foldl (fun m e => smPut 0 m e.1 e.2) g.v
      xflags := if p.req.kind = .ratom then g.xflags ||| (flags &&& 0x7F) else g.xflags
      remote := g.remote.map fun r => { r with waiting := r.waiting.filter fun x => x ≠ p.id } }
  if (memOrder p.req.ord).acqs then s.acquire p.core ((s.team? p.team).map Team.pair |>.getD false) .sys else s

/-- A pass has its response: its cost is credited, its values logged, its results written, and its form goes on. Where the array has yet to read a register that it would write, the write is held until then (13 R271). -/
def State.endPass (s : State) (p : Pass) (vals : List (Nat × List Word)) (flags : BitVec 8) : State :=
  let s := s.credit p.core p.cls p.cost
  match s.passLive p with
  | none => { s with passes := s.passes.filter fun x => x.id ≠ p.id }
  | some _ =>
    let s := s.mapGroup p.key fun g => { g with log := p.logged vals g.log }
    let t := s.landPass p vals flags
    if (s.writeWaits t p.key).isEmpty then
      let t : State := { t with passes := t.passes.filter fun x => x.id ≠ p.id }
      let t := match (t.group? p.key).bind Group.remote with
        | some r => if r.id = p.run && r.waiting.isEmpty then t.queuePass p.key r else t
        | none => t
      t.settleRun p.key p.run
    else s.mapPass p.id fun x => { x with answer := some (vals, flags), port := none, cost := 0 }

/-- Held results are written once the array has read the registers (13 R271). -/
def State.sweepAnswers (s : State) : List Pass → State
  | [] => s
  | p :: r =>
    match p.answer with
    | some (vals, flags) => (s.endPass p vals flags).sweepAnswers r
    | none => s.sweepAnswers r

/-- Sends a pass that may issue: it debits its allowance and leaves by a port, or is replayed from the log (19 R348, R353, R356, R360, 16 R317). -/
def State.sendPass (s : State) (k : Nat) (g : Group) (r : RemoteRun) (cost : Nat) (q : RemoteReq) (rest : List (Nat × RemoteReq)) :
    Except TrapInfo State :=
  let core := keyCore k
  let cls := q.pass
  let r' := { r with todo := rest }
  let logged := q.kind = .ratom && g.region.isSome
  let step : LogStep := if logged then g.logStep (reqMask q) (reqLocs q cls) else .perform [] []
  let staged := if q.kind = .rst && g.region.isSome then reqStaged q cls r.id r.pc else []
  match step with
  | .overflow => .error (trapOf 0x68)
  | .deliver vals =>
    let (id, s) := (s.leaveWait core cls (.group k)).takeId
    let s := s.mapGroup k fun g => { g with replayPos := g.replayPos + 1, remote := some r' }
    let p : Pass :=
      { id, cls, cost := 0, core, key := k, run := r.id, team := g.team, ctx := g.ctx, pc := r.pc, req := q, port := none, waitSince := s.nanos,
        slot := r.slot, d := r.d, z := r.z, logAt := none, failed := none, answer := none }
    .ok ((State.endPass { s with passes := s.passes ++ [p] } p vals (loggedFlags (BitVec.ofNat 4 q.op) vals)).queuePass k r')
  | .perform keep later =>
    if !bufFits g.bufLimit g.buf staged then .error (trapOf 0x67)
    else
      let s := if (memOrder q.ord).rels && staged.isEmpty then s.flushCore core else s
      let (id, s) := (s.leaveWait core cls (.group k)).takeId
      let req : RemoteReq :=
        { q with srcDev := s.devno.toNat, pass := id,
                 staged := if q.kind = .rst then g.region.map fun x => ⟨s.devno.toNat, g.ctx, x.id⟩ else none }
      let port := s.portFor (((s.ctx? g.ctx).getD Context.blank).route cls)
      let p : Pass :=
        { id, cls, cost, core, key := k, run := r.id, team := g.team, ctx := g.ctx, pc := r.pc, req, port, waitSince := s.nanos,
          slot := r.slot, d := r.d, z := r.z, logAt := if logged then some keep.length else none, failed := none,
          answer := none }
      let s := s.debit core cls cost
      let s := { s with passes := s.passes ++ [p], wire := if port.isSome then s.wire ++ [FabricMsg.request cls req] else s.wire }
      let s := s.mapGroup k fun g =>
        let g := { g with buf := g.buf ++ staged, remote := some { r' with waiting := if (memOrder q.ord).acqs && staged.isEmpty then [id] else [] } }
        if logged then g.logged keep later ⟨(reqMask q), reqLocs q cls, [], false⟩ else g
      .ok ((if (memOrder q.ord).acqs && staged.isEmpty then s else s.queuePass k r').settleRun k r.id)

/-- A remote form: its checks, then its first pass; the later ones are sent as the group issues on. -/
def remoteForm (i : Instr) (f : RemoteForm) (q : BitVec 5) (long : Bool) (s : State) : Host.Outcome State Fault Refusal :=
  issueWord i ⟨.lane, some long, f.kind = .ratom && (memOrder f.ord).rels⟩ (fun e s =>
    let c := s.ctxOf e.g
    match e.remoteTrap c f.kind q f.bytes with
    | some t => .trap t
    | none =>
      match (e.remoteClasses q).map (e.remotePass c f q) with
      | [] => .next s
      | (cost, x) :: rest =>
        match s.sysWait e (memOrder f.ord) .sys with
        | some h => .hold h
        | none =>
          if !s.mayIssue (keyCore e.k) x.pass cost (.group e.k) then
            .park (s.enterWait (keyCore e.k) x.pass (.group e.k)) (.retry (.allowance x.pass cost))
          else
            let (id, s) := s.takeId
            let r : RemoteRun := { id, slot := e.slot, pc := e.pc, hints := e.sp.hints, d := f.d, z := f.z, todo := [], waiting := [] }
            let s := s.mapGroup e.k fun g =>
              { g with pend := g.pend ++ [{ id, pc := e.pc, flag := e.flag, kind := .remote id, vals := [], sides := [], xflags := 0 }] }
            match s.sendPass e.k e.g r cost x rest with
            | .ok s => .next s
            | .error t => .trap t) s

/-- RLD. -/
def execRld (d : BitVec 7) (q : BitVec 5) (r : BitVec 2) (z : BitVec 3) (s : State) : Host.Outcome State Fault Refusal :=
  remoteForm (.rld d q r z) ⟨.rld, d.toNat, z.toNat, 0, r, 0⟩ q true s

/-- RST. -/
def execRst (d : BitVec 7) (q : BitVec 5) (r : BitVec 2) (z : BitVec 3) (s : State) : Host.Outcome State Fault Refusal :=
  remoteForm (.rst d q r z) ⟨.rst, d.toNat, z.toNat, 0, r, if z = 5 then 2 else 1⟩ q false s

/-- RATOM. -/
def execRatom (d : BitVec 7) (q : BitVec 5) (o : BitVec 4) (r : BitVec 2) (s : State) : Host.Outcome State Fault Refusal :=
  remoteForm (.ratom d q o r) ⟨.ratom, d.toNat, 0, o, r, atomWords o⟩ q true s

/-- Sends the next pass of a group's remote form in an issue slot of its own (19 R353); one beyond the region's limit traps (16 R320). -/
def State.issuePass (s : State) (k : Nat) (g : Group) : State :=
  match g.remote with
  | none => s
  | some r =>
    match r.todo with
    | [] => s
    | (cost, q) :: rest =>
      if g.overLimit then s.wordTrap k r.slot r.pc (reqMask q) (trapOf 0xB0)
      else
        let s := s.mapGroup k Group.countWord
        match s.sendPass k g.countWord r cost q rest with
        | .ok s => s
        | .error t => s.wordTrap k r.slot r.pc (reqMask q) t

/-! ### Failures of passes (19 R355, 20 R375) -/

/-- A pass fails: its cost is credited back; its group learns it by `sweepPasses`, and later passes of its form wait for it no more. -/
def State.failPass (s : State) (p : Pass) (why : BitVec 2) (peer : Byte) : State :=
  let s := ((s.mapPass p.id fun x => { x with failed := some (why, peer), port := none }).credit p.core p.cls p.cost).mapGroup p.key fun g =>
    { g with remote := g.remote.map fun r => { r with waiting := r.waiting.filter fun x => x ≠ p.id } }
  match (s.group? p.key).bind Group.remote with
  | some r => if r.id = p.run && r.waiting.isEmpty then s.queuePass p.key r else s
  | none => s

/-- REMOTE_FAILED of a pass (16 R331): the kind above the low bits; the peer's cause in DETAIL. -/
def Pass.trap (p : Pass) (why : BitVec 2) (peer : Byte) : TrapInfo :=
  let kind := match p.req.kind with
    | .rld => 0
    | .rst => 1
    | .ratom => 2
  { cause := BitVec.ofNat 8 (0x90 + 4 * kind + why.toNat), faddr := (p.req.lanes.head?.map (·.addr)).getD 0, lanes := some (reqMask p.req),
    detail := BitVec.ofNat 64 (peer.toNat * 2 ^ 48), replay := some (.remote p.cls) }

/-- The form of a failed pass still has passes to send or to be answered: outside a region the group does nothing before they have ended (19 R355, 20 R376). -/
def State.formOpen (s : State) (p : Pass) (g : Group) : Bool :=
  g.region.isNone &&
    (((g.remote.map fun r => decide (r.id = p.run) && !r.todo.isEmpty).getD false) || s.passes.any fun x => x.run = p.run && x.failed.isNone)

/-- The state once a failed pass has left its group: its log entry keeps the place for a replay; outside a region the form ends with every pass of it, and the split stands at its word again. -/
def State.dropPass (s : State) (p : Pass) : State :=
  let whole := ((s.group? p.key).map fun g => g.region.isNone).getD false
  { s with passes := s.passes.filter fun x => if whole then x.run ≠ p.run else x.id ≠ p.id }.mapGroup p.key fun g =>
    match g.remote, g.region with
    | some r, none =>
      { g.mapSplit r.slot (fun x => { x with pc := r.pc, hints := r.hints }) with remote := none, pend := g.pend.filter fun o => o.kind ≠ PendKind.remote r.id }
    | _, _ =>
      match p.logAt with
      | some n => { g with log := mapAt n (fun e => { e with failed := true }) g.log }
      | none => g

/-- Groups take the failures of their passes: the region aborts and replays, or the group traps, outside a region with the first failure of the form once every pass has its response (19 R355). A descheduled context's wait for its resumption. -/
def State.sweepPasses (s : State) : List Pass → State
  | [] => s
  | p :: rest =>
    match p.failed with
    | none => s.sweepPasses rest
    | some (why, peer) =>
      match s.passLive p with
      | none =>
        if ((s.ctx? p.ctx).map Context.preempted).getD false then s.sweepPasses rest
        else State.sweepPasses { s with passes := s.passes.filter fun x => x.id ≠ p.id } rest
      | some g =>
        let t := p.trap why peer
        let s' := s.dropPass p
        match s'.trapWait p.key t.cause with
        | some _ => s.sweepPasses rest
        | none =>
          if g.stopped || s.formOpen p g || !s.passes.any fun x => x.id = p.id then s.sweepPasses rest
          else (s'.agentTrap p.key p.slot p.pc (reqMask p.req) t).sweepPasses rest

/-- Sends a message to another device. -/
def State.sendWire (s : State) (m : FabricMsg) : State := { s with wire := s.wire ++ [m] }

/-- The device that a context's class names (19 R349). -/
def Context.peerOf (c : Context) (cls : Nat) : Nat := bits (c.route cls) 53 10

/-- REMOTE_RESPONSE (R375): the response of a pass, its results or its failure. A remote atomic's response is acknowledged, and it does not fail with the link cause (R357). -/
def execRemoteResponse (pass : Nat) (resp : RemoteResp) (s : State) : Host.Outcome State Fault Refusal :=
  match s.passes.find? fun p => p.id = pass with
  | none => .next s
  | some p =>
    if p.port.isNone || p.failed.isSome then .next s
    else
      let s' := if p.req.kind = .ratom then s.sendWire (.received (((s.ctx? p.ctx).getD Context.blank).peerOf p.cls) pass) else s
      match resp with
      | .done vals flags => .next (s'.endPass p vals flags)
      | .failed why peer =>
        if why = 0 && p.req.kind = .ratom then .next s
        else
          let s := s'.failPass p why (if why = 1 then peer else 0)
          .next (s.sweepPasses s.passes)

/-! ### Requests of peers (19 R354, R356 to R358) -/

/-- How a peer's request stands at this device. -/
inductive PeerTry where
  | ready (ls : List (RemoteLane × LineRef))
  | page (ia : Nat)
  | blocked
  | fails (cause : Byte)

/-- The lines of a request's lanes, through the windows and the translation of its context. -/
def State.peerLines (s : State) (c : Context) (kind : RemoteKind) : List RemoteLane → PeerTry
  | [] => .ready []
  | l :: r =>
    let k := remoteKind kind
    let va := l.addr.toNat
    if 2 ^ 56 ≤ va then .fails (kindCause 0x44 k)
    else
      match s.resolveVa c va k (kind = .ratom) with
      | .error f =>
        match f.replay with
        | some (.page ia _) => .page ia
        | _ => .fails f.cause
      | .ok ln =>
        match s.poisonFault ln k with
        | .error f => .fails f.cause
        | .ok ln =>
          if s.isOwned ln then .blocked
          else
            match s.peerLines c kind r with
            | .ready ls => .ready ((l, ln) :: ls)
            | x => x

/-- Performs a request's lanes in increasing order at their home slices: values and flags. -/
def State.peerLanes (s : State) (q : RemoteReq) : List (RemoteLane × LineRef) → State × List (Nat × List Word) × BitVec 8
  | [] => (s, [], 0)
  | (l, ln) :: r =>
    let off := l.addr.toNat % 128
    match q.kind with
    | .rld =>
      let x := leNat (s.bytes ln.key off q.size)
      let (s, vs, f) := s.peerLanes q r
      (s, (l.lane, [BitVec.ofNat 32 x, BitVec.ofNat 32 (x / 2 ^ 32)]) :: vs, f)
    | .rst =>
      let x := (l.data.getD 0 0).toNat + 2 ^ 32 * (l.data.getD 1 0).toNat
      ((s.putBytes ln.key off (natLe x q.size)).noteMet ln.key).peerLanes q r
    | .ratom =>
      let op := BitVec.ofNat 4 q.op
      let old := leNat (s.bytes ln.key off q.size)
      let x := atomicNew op ⟨q.mode, 0, 32, false, false⟩ old l.data
      let (s, vs, f) := ((s.putBytes ln.key off (natLe x.1 q.size)).noteMet ln.key).peerLanes q r
      (s, (l.lane, valueWords op old) :: vs, atomFlags op (some old) x.2 ||| f)

/-- A request has been dealt with: it waits no more and its response is sent; that of a remote atomic, a failure too, is kept until the requester acknowledges it (19 R357). -/
def State.respond (s : State) (q : RemoteReq) (r : RemoteResp) : State :=
  { s with peerWaits := s.peerWaits.filter (fun w => !(w.req.srcDev = q.srcDev && w.req.pass = q.pass)),
           keptResponses := if q.kind = RemoteKind.ratom then s.keptResponses ++ [(q.srcDev, q.pass, r)] else s.keptResponses
  }.sendWire (.response q.srcDev q.pass r)

/-- A peer's request waits from now on. -/
def State.peerWait (s : State) (q : RemoteReq) : State :=
  if s.peerWaits.any fun w => w.req.srcDev = q.srcDev && w.req.pass = q.pass then s
  else { s with peerWaits := s.peerWaits ++ [⟨q, s.nanos⟩] }

/-- A peer's request waits for an owned line; a wait on a page counts only from then on. -/
def State.peerWaitLine (s : State) (q : RemoteReq) : State :=
  { s with peerWaits := s.peerWaits.filter fun w => !(w.req.srcDev = q.srcDev && w.req.pass = q.pass) }.peerWait q

/-- The lines staged here for all senders (19 R356). -/
def stagedLines (l : List RemoteReq) : List (Option StageKey × Nat) :=
  (l.flatMap fun q => q.lanes.map fun x => (q.staged, x.addr.toNat / 128)).eraseDups

/-- REMOTE_REQUEST_ARRIVAL (R375): a peer's pass is performed in its context, staged, or waits on a page, on an owned line or on room in the stage. -/
def execRemoteRequestArrival (req : RemoteReq) (s : State) : Host.Outcome State Fault Refusal :=
  match s.keptResponses.find? fun x => x.1 = req.srcDev && x.2.1 = req.pass with
  | some (d, n, r) => .next (s.sendWire (.response d n r))
  | none =>
    match s.ctx? req.ctx with
    | none => .next (s.respond req (.failed 3 0))
    | some c =>
      match s.peerLines c req.kind req.lanes with
      | .fails cause => .next (s.respond req (.failed 1 cause))
      | .blocked => .next (s.peerWaitLine req)
      | .page ia =>
        match s.peerWaits.find? fun w => w.req.srcDev = req.srcDev && w.req.pass = req.pass with
        | none => .next ((s.mirrorIa req.ctx ia).peerWait req)
        | some w => .next (if w.since + c.engwait ≤ s.nanos then s.respond req (.failed 2 0) else s)
      | .ready ls =>
        if req.staged.isSome && req.kind = .rst then
          if s.staged.contains req then .next (s.respond req (.done [] 0))
          else if 4096 < (stagedLines (s.staged ++ [req])).length then .next (s.peerWait req)
          else .next ({ s with staged := s.staged ++ [req] }.respond req (.done [] 0))
        else
          let (s, vals, flags) := s.peerLanes req ls
          .next (s.respond req (.done vals flags))

/-- The staged stores of a region can all be performed. -/
def State.stagedReady (s : State) (q : RemoteReq) : Option (List (RemoteLane × LineRef)) :=
  match s.peerLines ((s.ctx? q.ctx).getD Context.blank) .rst q.lanes with
  | .ready ls => some ls
  | _ => none

/-- Inserts a request by its sender's number: passes are numbered in program order. -/
def insRequest (q : RemoteReq) : List RemoteReq → List RemoteReq
  | [] => [q]
  | x :: r => if q.pass < x.pass then q :: x :: r else x :: insRequest q r

/-- STAGED_COMMIT (R356): the region's staged stores are performed in program order, once all their lines can be written; those of a context that is gone are dropped. -/
def execStagedCommit (src : StageKey) (s : State) : Host.Outcome State Fault Refusal :=
  let mine := (s.staged.filter fun q => q.staged = some src && (s.ctx? q.ctx).isSome).foldl (fun l q => insRequest q l) []
  if mine.any fun q => (s.stagedReady q).isNone then .next s
  else
    let s := mine.foldl (fun s q => (s.peerLanes q ((s.stagedReady q).getD [])).1) s
    .next ({ s with staged := s.staged.filter fun q => q.staged ≠ some src }.sendWire (.settled src))

/-- STAGED_DISCARD (R356): the region's staged stores are dropped. -/
def execStagedDiscard (src : StageKey) (s : State) : Host.Outcome State Fault Refusal :=
  .next ({ s with staged := s.staged.filter fun q => q.staged ≠ some src,
                  peerWaits := s.peerWaits.filter fun w => w.req.staged ≠ some src }.sendWire (.settled src))

/-- COMMIT_DELIVERY_TIMEOUT (R356): a commit not delivered within ENGWAIT reports the grid. -/
def execCommitDeliveryTimeout (commit : Nat) (s : State) : Host.Outcome State Fault Refusal :=
  match s.commits.find? fun c => c.id = commit with
  | none => .next s
  | some c =>
    if c.discard || decide (s.nanos < c.since + ((s.ctx? c.ctx).getD Context.blank).engwait) then .next s
    else
      let s := { s with commits := s.commits.filter fun x => x.id ≠ commit }
      let num := match s.team? c.team with
        | some t => t.num
        | none => 0xFFFFFFFF
      .next (s.report c.ctx { Frame.only 0x96 with attr := 4, origin := c.pc.toNat } c.core c.num num)

/-- PUSH_ROW_ARRIVAL (R358): a peer's row is written under ownership at its home slice and acknowledged, or its fault is reported; one that waits on a page does so up to the bound of its context. -/
def execPushRowArrival (push : PushRow) (s : State) : Host.Outcome State Fault Refusal :=
  let ack (c : Option (BitVec 2 × Byte)) (s : State) : State :=
    { s with pushWaits := s.pushWaits.filter fun w => w.1 ≠ push }.sendWire (.pushAck push.srcDev push.addr c)
  match s.ctx? push.ctx with
  | none => .next (ack (some (3, 0)) s)
  | some c =>
    match s.pushWrite c push.addr.toNat push.bytes (push.block.map fun b => (b.2.1.toNat, b.1, b.2.2)) with
    | .ok s => .next (ack none s)
    | .error (some cause, _) => .next (ack (some (1, cause)) s)
    | .error (none, true) =>
      match s.pushWaits.find? fun w => w.1 = push with
      | none => .next { s.mirrorHint push.ctx push.addr.toNat with pushWaits := s.pushWaits ++ [(push, s.nanos)] }
      | some w => .next (if w.2 + c.engwait ≤ s.nanos then ack (some (2, 0)) s else s)
    | .error (none, false) => .next s

/-! ### Ports (R348) -/

/-- Push rows that a port carried are to be sent again. -/
def State.dropPushes (s : State) : List PushPass → State
  | [] => s
  | p :: r => ((s.endPush p).noteRow p.op p.row).dropPushes r

/-- Fails the passes that a port carried, but remote atomics. -/
def State.failPasses (s : State) : List Pass → State
  | [] => s
  | p :: r => (s.failPass p 0 0).failPasses r

/-- The key under which a message of a collective that cannot be sent keeps its first failure. -/
def CollSend.waitKey (x : CollSend) : Nat :=
  2 ^ 66 * (1 + 4 * x.dst + (match x.kind with | .start => 0 | .sum => 1 | .result => 2)) + x.line

/-- A message of a collective goes back to the queue; its first failure is kept (R358). -/
def Coll.resend (o : Coll) (now : Nat) (y : CollSent) : Coll :=
  { o with sent := o.sent.erase y, queue := o.queue ++ [y.what],
           waits := if o.waits.any fun w => w.1 = y.what.waitKey then o.waits else smIns o.waits y.what.waitKey now }

/-- The messages of collectives that a port carries fail: their units come back, and they are sent again (R348, R358). -/
def State.dropColls (s : State) (n : Nat) : List Coll → State
  | [] => s
  | o :: r =>
    let lost := o.sent.filter fun y => y.port = some n
    let s := lost.foldl (fun s y => s.credit y.core y.cls y.cost) s
    let s : State := { s with colls := s.colls.map fun x => if x.id = o.id then lost.foldl (fun z y => z.resend s.nanos y) x else x }
    s.dropColls n r

/-- A port goes down: it fails what it carries, and responses of remote atomics that no requester has acknowledged are sent again (R357). -/
def State.portDown (s : State) (n : Nat) : State :=
  let s : State := { s with ports := smPut ⟨true⟩ s.ports n ⟨false⟩ }
  let s := s.failPasses (s.passes.filter fun p => p.port = some n && p.req.kind ≠ .ratom)
  let s := s.dropPushes (s.pushes.filter fun p => p.port = some n)
  let s := s.dropColls n s.colls
  let s := s.keptResponses.foldl (fun s r => s.sendWire (.response r.1 r.2.1 r.2.2)) s
  s.sweepPasses s.passes

/-- A port retrains: the Lantern core counts it under LINK_STATE (R348). -/
def State.retrain (s : State) (n : Nat) : State :=
  State.portDown (State.countUp { s with lantern := s.lantern ++ [⟨0xA8, n⟩] } (n / 4) (5 + n % 4)) n

/-- PORT_RETRAIN. -/
def execPortRetrain (port : Nat) (s : State) : Host.Outcome State Fault Refusal := .next (if port < 16 then s.retrain port else s)

/-- Requests that wait for a port of their peer leave by it; those whose form has been abandoned only give back their units. -/
def State.sendWaiting (s : State) : List Pass → State
  | [] => s
  | p :: r =>
    if p.answer.isSome then s.sendWaiting r
    else if p.port.isNone && (s.passLive p).isNone then
      ({ s with passes := s.passes.filter fun x => x.id ≠ p.id }.credit p.core p.cls (if p.failed.isSome then 0 else p.cost)).sendWaiting r
    else
    match p.port, p.failed, s.portFor (((s.ctx? p.ctx).getD Context.blank).route p.cls) with
    | none, none, some n =>
      ((s.mapPass p.id fun x => { x with port := some n }).sendWire (.request p.cls p.req)).sendWaiting r
    | _, _, _ => s.sendWaiting r

/-- PORT_UP. -/
def execPortUp (port : Nat) (s : State) : Host.Outcome State Fault Refusal :=
  let s := { s with ports := smPut ⟨true⟩ s.ports port ⟨true⟩ }
  .next (s.sendWaiting s.passes)

/-- PORT_WAIT_TIMEOUT: a request that no port has taken within ENGWAIT fails with the time-out cause. -/
def execPortWaitTimeout (pass : Nat) (s : State) : Host.Outcome State Fault Refusal :=
  match s.passes.find? fun p => p.id = pass with
  | none => .next s
  | some p =>
    if p.port.isNone && p.failed.isNone && p.answer.isNone && decide (p.waitSince + ((s.ctx? p.ctx).getD Context.blank).engwait ≤ s.nanos) then
      let s := s.failPass p 2 0
      .next (s.sweepPasses s.passes)
    else .next s

/-! ### Allowances, chunk counters, mirrored blocks (20 R377, R378, R381, R382) -/

/-- The word that ALWR delivers. -/
def Allowance.word (a : Allowance) : DWord := BitVec.ofNat 64 (a.cap.toNat * 2 ^ 32 + a.low.toNat * 2 ^ 16 + a.value.toNat)

/-- ALWR. -/
def execAlwr (d a : BitVec 7) (s : State) : Host.Outcome State Fault Refusal :=
  issueWord (.alwr d a) .scalar (fun e s =>
    let cls := (e.g.sreg a.toNat).toNat
    if 64 ≤ cls then .trap (trapOf 0xA2)
    else .next (s.putGroup e.k (e.g.setSPair d.toNat (s.allowance (keyCore e.k) cls).word))) s

/-- The state of a class (19 R361): 0 OPEN, 1 LOW, 2 SHORT. -/
def Allowance.level (a : Allowance) : Nat := if a.value.toNat < 17 then 2 else if a.low.toNat ≤ a.value.toNat then 0 else 1

/-- BALW. -/
def execBalw (a : BitVec 7) (c : BitVec 2) (o : BitVec 9) (s : State) : Host.Outcome State Fault Refusal :=
  issueWord (.balw a c o) .scalar (fun e s =>
    let cls := (e.g.sreg a.toNat).toNat
    if 64 ≤ cls then .trap (trapOf 0xA2)
    else
      let level := (s.allowance (keyCore e.k) cls).level
      if level = c.toNat || (c = 3 && level ≠ 0) then s.transfer e (wordsFrom e.pc (e.imm? 9 o.toNat)) else .next s) s

/-- CHUNKINC: RED.add.rel.dev.n64 of s[a] at the address in a pair. -/
def execChunkinc (p : BitVec 6) (a : BitVec 7) (s : State) : Host.Outcome State Fault Refusal :=
  issueWord (.chunkinc p a) ⟨.once, some false, true⟩ (fun e s =>
    let va := (e.g.spair (2 * p.toNat)).toNat
    match s.reachScalar e va 8 .store true with
    | .error f => .trap (f.trap va none)
    | .ok l =>
      storeForm e s [{ line := l, va := BitVec.ofNat 64 va, kind := .red (va % 128) 1 [e.g.sreg a.toNat, 0] 0 false false, order := .rel,
                       scope := .dev, cp := 0, pc := e.pc }] .rel .dev) s

/-- MIGHINT. -/
def execMighint (p : BitVec 6) (s : State) : Host.Outcome State Fault Refusal :=
  issueWord (.mighint p) .scalar (fun e s => .next (s.mirrorHint e.g.ctx (e.g.spair (2 * p.toNat)).toNat)) s

end Sys2Proof.Machine
end

