-- ==== Sys2Proof/Machine/Collective.lean ====
section
/-! DEFINITION. Collectives: COLL, CWAIT and the events of the collective engine (19 R358, R363 to R368, 20 R379, R380). -/

namespace Sys2Proof.Machine

/-! ### The parameter block (19 R363) -/

/-- Fields of a block of 128 bytes. -/
def cpOp (b : List Byte) : Nat := leAt b 0 1
def cpAlg (b : List Byte) : Nat := leAt b 1 1
def cpType (b : List Byte) : Nat := leAt b 2 1
def cpCtl (b : List Byte) : Nat := leAt b 3 1
def cpCls (b : List Byte) : Nat := cpCtl b % 4
def cpTag (b : List Byte) : Nat := cpCtl b / 4 % 4
def cpW8 (b : List Byte) : Bool := bit (cpCtl b) 4
def cpChunk (b : List Byte) : Bool := bit (cpCtl b) 5
def cpCollid (b : List Byte) : Nat := leAt b 4 4
def cpMask (b : List Byte) : Nat := leAt b 8 8
def cpSrc (b : List Byte) : Nat := leAt b 16 8
def cpDst (b : List Byte) : Nat := leAt b 24 8
def cpCount (b : List Byte) : Nat := leAt b 32 8
def cpCbase (b : List Byte) : Nat := leAt b 40 8
def cpChunkb (b : List Byte) : Nat := leAt b 48 4
def cpTarget (b : List Byte) : Nat := leAt b 52 4
def cpRoot (b : List Byte) : Nat := leAt b 56 2

/-- Elements, or blocks, in a line. -/
def cpPer (b : List Byte) : Nat := if cpType b = 0 then 32 else if cpType b = 1 then 64 else clsRpl (cpCls b)

/-- L, the lines of the vector (R364). -/
def cpLines (b : List Byte) : Nat := (cpCount b + cpPer b - 1) / cpPer b

/-- Elements, or blocks, of the vector in a line. -/
def cpIn (b : List Byte) (line : Nat) : Nat := min (cpPer b) (cpCount b - line * cpPer b)

/-- A field holds a reserved value (R363). -/
def cpReserved (b : List Byte) : Bool :=
  decide (4 < cpOp b) || decide (3 < cpAlg b) || decide (2 < cpType b) || (cpType b = 2 && cpCls b = 3) || cpTag b = 3
  || decide (cpCtl b / 64 ≠ 0) || cpCount b = 0 || (cpChunk b && cpChunkb b = 0) || (slice b 58 70).any fun x => x ≠ 0

/-- n is a power of two. -/
def isPow2 (n : Nat) : Bool := decide (n = 2 ^ Nat.log2 n)

/-- The order of the sums: 0 ring, 1 tree, 2 halving-doubling (R365). -/
def cpOrder (b : List Byte) (n : Nat) : Nat := if cpAlg b = 3 then (if isPow2 n then 2 else 0) else cpAlg b

/-- A forbidden combination of fields (R365, R366, R368, R364). R363 and R364 state no check of ROOT: here a ROOT that is the rank of no member traps as the forbidden combinations do (log entry 137). -/
def cpForbidden (b : List Byte) (n : Nat) : Bool :=
  (cpOrder b n = 1 && (cpOp b = 1 || cpOp b = 2)) || (cpOrder b n = 2 && !isPow2 n) || (cpW8 b && cpType b ≠ 2)
  || (cpChunk b && 3 ≤ cpOp b) || (3 ≤ cpOp b && decide (n ≤ cpRoot b))

/-! ### Members (R364) -/

/-- The place of a member in the order of ranks: device, then die. -/
def CollMember.place (m : CollMember) : Nat := m.dev * 4 + m.die

/-- Inserts a member, (device, die) rising, one class after a lower one. -/
def insMember (x : CollMember) : List CollMember → List CollMember
  | [] => [x]
  | y :: r => if x.place < y.place || (x.place = y.place && x.cls < y.cls) then x :: y :: r else y :: insMember x r

/-- The members of a collective issued on a die, in rank order; none when a class has no routing entry. No field names the die of a member behind a routing entry: it is a free value (log entry 65). -/
def State.collMembers (s : State) (c : Context) (die mask collid : Nat) : Option (List CollMember) :=
  let dev := s.devno.toNat
  if (List.range 61).any fun i => bit mask (i + 3) && !bit (c.route (i + 3)) 63 then none
  else
    some (((List.range 64).filter fun cls => bit mask cls).foldl (fun l cls =>
      let r := c.route cls
      insMember (if cls < 3 then ⟨dev, (die + 1 + cls) % 4, cls⟩
        else ⟨bits r 53 10, Config.peerDie (bits r 53 10) (bits r 0 32) collid % 4, cls⟩) l) [⟨dev, die, 64⟩])

/-- The number of members. -/
def Coll.n (o : Coll) : Nat := o.members.length

/-- The order of the sums of a collective. -/
def Coll.order (o : Coll) : Nat := cpOrder o.block o.n

/-- The segment that holds a line (R364). -/
def Coll.segment (o : Coll) (line : Nat) : Nat :=
  let l := cpLines o.block
  ((List.range o.n).find? fun r => decide (r * l / o.n ≤ line) && decide (line < (r + 1) * l / o.n)).getD 0

/-- The ranks whose contributions a line of the result takes. -/
def Coll.terms (o : Coll) (line : Nat) : List Nat :=
  if cpOp o.block = 2 then [o.segment line] else if cpOp o.block = 3 then [cpRoot o.block] else List.range o.n

/-- The ranks that write a line of DST. -/
def Coll.writers (o : Coll) (line : Nat) : List Nat :=
  if cpOp o.block = 1 then [o.segment line] else if cpOp o.block = 4 then [cpRoot o.block] else List.range o.n

/-- The lines that this member writes. -/
def Coll.dstLines (o : Coll) : List Nat := (List.range (cpLines o.block)).filter fun l => (o.writers l).contains o.rank

/-- The lines that this member contributes. -/
def Coll.srcLines (o : Coll) : List Nat := (List.range (cpLines o.block)).filter fun l => (o.terms l).contains o.rank

/-- This member's contribution to a line. -/
def Coll.part (o : Coll) (line : Nat) : Option (List Byte) := alGet o.parts line

/-- The partial sum of a line that has come from a rank. -/
def Coll.sumFrom (o : Coll) (rank line : Nat) : Option (List Byte) :=
  (o.sums.find? fun p => p.1 = rank && p.2.1 = line).map (·.2.2)

/-- The collective adds. -/
def cpAdds (b : List Byte) : Bool := cpOp b = 0 || cpOp b = 1 || cpOp b = 4

/-- The rank at which a line of the result arises: the segment's own (ring, halving-doubling, all-gather), rank 0 of a tree's sums, or ROOT of a broadcast. -/
def Coll.origin (o : Coll) (line : Nat) : Nat :=
  if cpOp o.block = 3 then cpRoot o.block
  else if cpOp o.block ≠ 2 && o.order = 1 then 0 else o.segment line

/-- The lowest bit in which two ranks differ; 64 when they are equal. -/
def lowDiff (k r : Nat) : Nat := ((List.range 64).find? fun b => bit k b ≠ bit r b).getD 64

/-- The ranks whose partial sums rank k adds, in the order of the additions, where the sum arises at rank r of n (R365). -/
def sumSources (order n r k : Nat) : List Nat :=
  if order = 0 then (if k = (r + 1) % n then [] else [(k + n - 1) % n])
  else if order = 1 then [2 * k + 1, 2 * k + 2].filter fun c => decide (c < n)
  else (List.range (min (lowDiff k r) (Nat.log2 n))).map fun b => k ^^^ 2 ^ b

/-- The rank to which rank k sends its partial sum. -/
def sumTarget (order n r k : Nat) : Nat :=
  if order = 0 then (k + 1) % n else if order = 1 then (k - 1) / 2 else k ^^^ 2 ^ lowDiff k r

/-- The ranks to which a rank passes a line of the result on, once it holds it: along the ring, back over the halving exchanges, down the tree (R365); the result of a reduce goes straight to ROOT (log entry 67). -/
def Coll.forwards (o : Coll) (line : Nat) : List Nat :=
  let k := o.rank
  let r := o.origin line
  if cpOp o.block = 1 then []
  else if cpOp o.block = 4 then (if k = r && r ≠ cpRoot o.block then [cpRoot o.block] else [])
  else if o.order = 0 then [(k + 1) % o.n].filter fun x => x ≠ r && x ≠ k
  else if o.order = 1 then
    ((if k = r then [0] else []) ++ [2 * k + 1, 2 * k + 2]).filter fun x => decide (x < o.n) && x ≠ r
  else ((List.range (Nat.log2 o.n)).filter fun b => decide (k ^^^ r < 2 ^ b)).map fun b => k ^^^ 2 ^ b

/-! ### Sums (R365, R366) -/

/-- Elements of a line, exact. -/
abbrev Terms := List Fl

/-- The codebook of a CB4 contribution or result: the spec names none for a collective, so its bytes are free values (log entry 66). -/
def collBook : List Byte := (List.range 16).map (Config.freeByte 0)

/-- The collective quantises into CB4 with an invalid codebook (03 R48; log entry 66). -/
def cpBookInvalid (b : List Byte) : Bool := cpAdds b && cpType b = 2 && cpCls b = 0 && cpTag b = 2 && cbInvalid collBook

/-- The exact values of a contribution of a line. -/
def cpValues (b bytes : List Byte) : Terms :=
  if cpType b = 0 then (List.range 32).map fun i => Fl.ofBits .f32 (leAt bytes (4 * i) 4)
  else if cpType b = 1 then (List.range 64).map fun i => Fl.ofBits .bf16 (leAt bytes (2 * i) 2)
  else (List.range (clsRpl (cpCls b))).flatMap fun j =>
    (List.range 32).map fun i => (lineBlk (cpCls b) bytes j).value (cpCls b) collBook i

/-- add(s, t) of R365, element by element. -/
def addTerms (s t : Terms) : Terms :=
  List.zipWith (fun x y => Fl.ofBits .f32 (deliver .f32 RndCtl.rne (flAdd 0 x y)).bits) s t

/-- The quantisation of a collective. -/
def collQuant (cls tag : Nat) (xs : Terms) : Blk := (quantiseBlock ⟨cls, tag, false, 0, true, 0, 0, 32, collBook⟩ xs fun _ => 0).blk

/-- The 32 values of block j of a line. -/
def blockTerms (xs : Terms) (j : Nat) : Terms := (List.range 32).map fun i => xs.getD (32 * j + i) (.fin false 0 0)

/-- The blocks of W8 E4M3 in which a partial sum leaves a member under .w8. -/
def sumBlocks (xs : Terms) : List Blk := (List.range (xs.length / 32)).map fun j => collQuant 2 0 (blockTerms xs j)

/-- A partial sum as its receiver reads it: exact, or the decoded values of its blocks under .w8 (R366). -/
def sendSum (b : List Byte) (xs : Terms) : Terms :=
  if cpW8 b then (sumBlocks xs).flatMap fun q => (List.range 32).map fun i => q.value 2 [] i else xs

/-- The 32-bit words of values. -/
def wordsOf (xs : Terms) : List Byte := xs.flatMap fun x => natLe (deliver .f32 RndCtl.rne (x, false)).bits 4

/-- The values of 32-bit words. -/
def termsOf (bytes : List Byte) : Terms := (List.range (bytes.length / 4)).map fun i => Fl.ofBits .f32 (leAt bytes (4 * i) 4)

/-- The values of the partial sum that came from rank q: a member that adds nothing sends its contribution, exact under .fp32 (log entry 67). -/
def Coll.sumTerms (o : Coll) (q line : Nat) (bytes : List Byte) : Terms :=
  if (sumSources o.order o.n (o.origin line) q).isEmpty && !cpW8 o.block then cpValues o.block bytes else termsOf bytes

/-- One addition at a member: under halving-doubling the lower half comes first. -/
def Coll.addFrom (o : Coll) (q : Nat) (s t : Terms) : Terms :=
  if o.order = 0 then addTerms t s else if o.order = 1 then addTerms s t else if q < o.rank then addTerms t s else addTerms s t

/-- Adds what has come from each rank in turn; none while something is missing. -/
def Coll.addAll (o : Coll) (line : Nat) : List Nat → Terms → Option Terms
  | [], s => some s
  | q :: r, s =>
    match o.sumFrom q line with
    | none => none
    | some bytes => o.addAll line r (o.addFrom q s (o.sumTerms q line bytes))

/-- This member's partial sum of a line (R365); none while a term is missing. -/
def Coll.sumHere (o : Coll) (line : Nat) : Option Terms :=
  match o.part line with
  | none => none
  | some bytes => o.addAll line (sumSources o.order o.n (o.origin line) o.rank) (cpValues o.block bytes)

/-- A line of the result in the destination format: a sum rounded or quantised (R366), or bits as they came, zero blocks canonical (R367). -/
def sumLine (b : List Byte) (xs : Terms) : List Byte :=
  if cpType b = 2 then blockLine (cpCls b) ((List.range (clsRpl (cpCls b))).map fun j => collQuant (cpCls b) (cpTag b) (blockTerms xs j))
  else
    let f : Fmt := if cpType b = 0 then .f32 else .bf16
    xs.flatMap (fun x => natLe (deliver f RndCtl.rne (x, false)).bits (128 / cpPer b)) ++ List.replicate 10 0

/-- A line that is passed on as bits. -/
def passedLine (b src : List Byte) : List Byte :=
  if cpType b = 2 then
    blockLine (cpCls b) ((List.range (clsRpl (cpCls b))).map fun j =>
      let x := lineBlk (cpCls b) src j
      if x.isZero then Blk.zero else x)
  else slice src 0 128 ++ List.replicate 10 0

/-- A line of the result, where this member holds it. -/
def Coll.held (o : Coll) (line : Nat) : Option (List Byte) :=
  if o.rank = o.origin line then
    (if cpAdds o.block then (o.sumHere line).map (sumLine o.block) else (o.part line).map (passedLine o.block))
  else alGet o.results line

/-- A line of DST over what it held: elements beyond COUNT keep their bytes (R364). -/
def Coll.result (o : Coll) (line : Nat) (new old : List Byte) : List Byte :=
  let b := o.block
  let m := cpIn b line
  if cpType b = 2 then
    (List.range m).foldl (fun l j => putBlk (cpCls b) l j (lineBlk (cpCls b) new j)) (if m = cpPer b then blockLine (cpCls b) [] else slice old 0 138)
  else overlay (slice old 0 128) 0 (slice new 0 (m * (128 / cpPer b))) ++ List.replicate 10 0

/-! ### Failure (R358, R364, 20 R380) -/

/-- Replaces a collective by `f` of it. -/
def State.mapColl (s : State) (id : Nat) (f : Coll → Coll) : State := { s with colls := s.colls.map fun o => if o.id = id then f o else o }

/-- The collective of a number. -/
def State.coll? (s : State) (id : Nat) : Option Coll := s.colls.find? fun o => o.id = id

/-- Ends every ownership of an operation. -/
def State.disownAll (s : State) (op : Nat) : State := { s with owned := s.owned.filter fun x => x.2 ≠ op }

/-- Credits back what a collective has sent. -/
def State.creditSent (s : State) : List CollSent → State
  | [] => s
  | m :: r => (s.credit m.core m.cls m.cost).creditSent r

/-- A collective fails here: its lines are released and it sends no more. -/
def State.collFails (s : State) (o : Coll) (cause : Byte) : State :=
  if o.failed.isSome then s
  else
    (((s.disownAll o.id).creditSent o.sent).leaveOp o.id).mapColl o.id fun x =>
      { x with failed := some cause, queue := [], sent := [] }

/-- The other members on this device of a collective. -/
def State.collPeers (s : State) (o : Coll) : List Coll :=
  s.colls.filter fun x => x.ctx = o.ctx && cpCollid x.block = cpCollid o.block && x.id ≠ o.id

/-- A message of a collective to a member on another device. -/
def State.sendColl (s : State) (o : Coll) (x : CollMember) (m : CollMsg) : State :=
  let route := ((s.ctx? o.ctx).getD Context.blank).route x.cls
  s.sendWire (.coll x.dev x.die (bits route 0 32) (cpCollid o.block) m)

/-- A member behind a routing entry. -/
def CollMember.far (m : CollMember) : Bool := decide (3 ≤ m.cls) && decide (m.cls < 64)

/-- A collective fails at this member, and every other member learns it. -/
def State.failColl (s : State) (o : Coll) (cause other : Byte) (m : CollMsg) : State :=
  if o.failed.isSome then s
  else
    let s := s.collFails o cause
    let s := (s.collPeers o).foldl (fun s x => s.collFails x other) s
    (o.members.filter CollMember.far).foldl (fun s x => s.sendColl o x m) s

/-! ### COLL (20 R379) -/

/-- The parameters that every member must share (R364). -/
def cpShared (b : List Byte) : List Nat :=
  [cpOp b, cpAlg b, cpType b, cpCtl b, cpCount b, cpChunkb b, cpTarget b, cpRoot b]

/-- The parameters and the members that a member compares with its own. -/
def Coll.shared (o : Coll) : List Nat := cpShared o.block ++ o.members.map CollMember.place

/-- Checks 3 to 6 of R379 on a block, with the members. An operand in a fixed window traps (09 R180). -/
def State.collCheck (s : State) (e : Env) (c : Context) (b : List Byte) : Except TrapInfo (List CollMember) :=
  let die := coreDie (keyCore e.k)
  if cpReserved b then .error (trapOf 0x07)
  else
    match s.collMembers c die (cpMask b) (cpCollid b) with
    | none => .error (trapOf 0xA1)
    | some ms =>
      let n := 128 * cpLines b
      if cpForbidden b ms.length then .error (trapOf 0x2D)
      else if cpBookInvalid b then .error (trapOf 0x24)
      else if s.colls.any fun o => o.ctx = e.g.ctx && o.die = die && cpCollid o.block = cpCollid b then .error (trapOf 0xA4)
      else if cpSrc b ≠ cpDst b && decide (cpSrc b < cpDst b + n) && decide (cpDst b < cpSrc b + n) then .error (trapOf 0xA7)
      else if cpSrc b % 128 ≠ 0 then .error ((kindFault 1 0x40 .engineRead).trap (cpSrc b) none)
      else if cpDst b % 128 ≠ 0 then .error ((kindFault 1 0x40 .engineWrite).trap (cpDst b) none)
      else if cpChunk b && cpCbase b % 8 ≠ 0 then .error ((kindFault 1 0x40 .engineRead).trap (cpCbase b) none)
      else if inFixed (cpSrc b) then .error ((kindFault 2 0x44 .engineRead).trap (cpSrc b) none)
      else if inFixed (cpDst b) then .error ((kindFault 2 0x44 .engineWrite).trap (cpDst b) none)
      else if cpChunk b && inFixed (cpCbase b) then .error ((kindFault 2 0x44 .engineRead).trap (cpCbase b) none)
      else .ok ms

/-- What a member has to send: its parameters to every other member, its partial sums, and the lines of the result that it passes on. -/
def Coll.sends (o : Coll) : List CollSend :=
  let lines := List.range (cpLines o.block)
  ((List.range o.n).filter fun r => r ≠ o.rank).map (fun r => ⟨r, 0, .start⟩)
    ++ (if cpAdds o.block then
          (lines.filter fun l => o.rank ≠ o.origin l).map fun l => ⟨sumTarget o.order o.n (o.origin l) o.rank, l, .sum⟩ else [])
    ++ lines.flatMap fun l => (o.forwards l).map fun r => ⟨r, l, .result⟩

/-- Starts a collective: its DST lines are taken, and what it will send is queued. -/
def State.startColl (s : State) (e : Env) (b : List Byte) (ms : List CollMember) (d : Nat) : State :=
  let (id, s) := s.takeId
  let core := keyCore e.k
  let handle := e.g.collCount % 2 ^ 16
  let o : Coll :=
    { id, ctx := e.g.ctx, core, die := coreDie core, key := e.k, team := e.g.team, handle, pc := e.pc, block := b, members := ms,
      rank := (ms.findIdx? fun x => x.cls = 64).getD 0, met := [], parts := [], sums := [], results := [], ready := [], since := s.nanos,
      written := [], queue := [], sent := [], waits := [], failed := none }
  let o := { o with queue := o.sends }
  let c := s.ctxOf e.g
  let pair := ((s.team? e.g.team).map Team.pair).getD false
  let s := o.dstLines.foldl (fun s l => s.ownVa c (cpDst b + 128 * l) id core pair) s
  let s : State := { s with colls := s.colls ++ [o] }
  s.mapGroup e.k fun g =>
    { (g.setS d (BitVec.ofNat 32 handle)) with
      collCount := g.collCount + 1, colls := (g.colls ++ [(handle, id)]).drop (g.colls.length - 7),
      pend := g.pend ++ [{ id, pc := e.pc, flag := e.flag, kind := .coll id, vals := [], sides := [], xflags := 0 }] }

/-- The collectives of a group that are in flight, oldest first. -/
def Group.collsOut (g : Group) : List Nat :=
  g.pend.filterMap fun o => match o.kind with
    | .coll id => some id
    | _ => none

/-- COLL: the block is read at its home slice, after the core's own dirty bytes of the line (09 R201). -/
def execColl (p : BitVec 6) (d : BitVec 7) (s : State) : Host.Outcome State Fault Refusal :=
  issueWord (.coll p d) ⟨.once, some false, true⟩ (fun e s =>
    let va := (e.g.spair (2 * p.toNat)).toNat
    match s.reachScalar e va 128 .load false with
    | .error f => .trap (f.trap va none)
    | .ok l =>
      if s.isOwned l then .hold (.owned [l.own])
      else
        let b := s.homeBytes (keyCore e.k) l 0 128
        match s.collCheck e (s.ctxOf e.g) b with
        | .error t => .trap t
        | .ok ms =>
          match e.g.collsOut with
          | id :: rest =>
            if 7 ≤ rest.length then .hold (.collRoom id)
            else .next ((s.flushVa (keyCore e.k) (s.ctxOf e.g) va).startColl e b ms d.toNat)
          | [] => .next ((s.flushVa (keyCore e.k) (s.ctxOf e.g) va).startColl e b ms d.toNat)) s

/-- The status word of CWAIT (R380). -/
def collStatus (f : Option Byte) : Word :=
  match f with
  | none => 0
  | some c => BitVec.ofNat 32 (256 + c.toNat)

/-- CWAIT. -/
def execCwait (d a : BitVec 7) (s : State) : Host.Outcome State Fault Refusal :=
  issueWord (.cwait d a) .scalar (fun e s =>
    match e.g.colls.find? fun x => x.1 = (e.g.sreg a.toNat).toNat % 2 ^ 16 with
    | none => .trap (trapOf 0x06)
    | some (_, id) =>
      match s.collsDone.find? fun c => c.id = id with
      | none => .hold (.coll id)
      | some c =>
        let dr := s.doer e.k e.g
        let s := s.putGroup e.k (e.g.setS d.toNat (collStatus c.failed))
        .next (if c.failed.isNone then s.acquire dr.core dr.pair .dev else s)) s

/-! ### The collective engine -/

/-- A collective that goes on. -/
def State.openColl (s : State) (id : Nat) : Option Coll :=
  match s.coll? id with
  | some o => if o.failed.isNone && s.engineRuns o.ctx then some o else none
  | none => none

/-- The chunk of a line has been taken up. -/
def Coll.lineReady (o : Coll) (line : Nat) : Bool := !cpChunk o.block || o.ready.contains (line / cpChunkb o.block)

/-- How a line of a collective stands: it is done in a new state, it waits for another engine or for data, for a page, or it fails. -/
inductive CollTry where
  | done (s : State)
  | blocked
  | waits
  | fails (cause : Byte)

/-- Reads a line of SRC, once. -/
def State.collRead (s : State) (o : Coll) (line : Nat) : CollTry :=
  if !o.srcLines.contains line || (o.part line).isSome || !o.lineReady line then .blocked
  else
    match s.engineLine ((s.ctx? o.ctx).getD Context.blank) (cpSrc o.block + 128 * line) .engineRead true with
    | .wait _ _ => .waits
    | .fail cause => .fails cause
    | .ready r =>
      if s.readWaits r.own o.id then .blocked
      else .done (s.mapColl o.id fun x => { x with parts := x.parts ++ [(line, s.line r.key)], waits := smDel x.waits (2 * line) })

/-- Writes a line of DST, its result at hand. -/
def State.collWrite (s : State) (o : Coll) (line : Nat) : CollTry :=
  let c := (s.ctx? o.ctx).getD Context.blank
  let va := cpDst o.block + 128 * line
  if !o.dstLines.contains line || o.written.contains line || !s.ownsVa c va o.id then .blocked
  else
    match o.held line with
    | none => .blocked
    | some new =>
      match s.engineLine c va .engineWrite (decide (cpIn o.block line ≠ cpPer o.block)) with
      | .wait _ _ => .waits
      | .fail cause => .fails cause
      | .ready r =>
        .done (((s.putLine r.key (o.result line new (s.line r.key))).disownVa c va o.id).mapColl o.id fun x =>
          { x with written := x.written ++ [line], waits := smDel x.waits (2 * line + 1) })

/-- An access of a collective waits from now on; a mirrored destination is asked for (19 R370). -/
def State.noteColl (s : State) (o : Coll) (line : Nat) (writes : Bool) : State :=
  let s := if writes then s.mirrorHint o.ctx (cpDst o.block + 128 * line) else s
  let k := 2 * line + b2n writes
  s.mapColl o.id fun x => if x.waits.any fun w => w.1 = k then x else { x with waits := smIns x.waits k s.nanos }

/-- A line of a collective lands (19 R364). -/
def State.collLanding (s : State) (id line : Nat) : State :=
  match s.openColl id with
  | none => s
  | some o =>
    match s.collWrite o line with
    | .done s => s
    | .waits => s.noteColl o line true
    | _ => s

/-- A read of SRC proceeds. -/
def State.collRetry (s : State) (id line : Nat) : State :=
  match s.openColl id with
  | none => s
  | some o =>
    match s.collRead o line with
    | .done s => s
    | .waits => s.noteColl o line false
    | _ => s

/-- A line that meets a fault fails its collective. -/
def State.collFailure (s : State) (id line : Nat) : State :=
  match s.openColl id with
  | none => s
  | some o =>
    match s.collRead o line, s.collWrite o line with
    | .fails cause, _ => s.failColl o cause 0xA6 .abort
    | _, .fails cause => s.failColl o cause 0xA6 .abort
    | _, _ => s

/-- A line that has waited ENGWAIT on a page fails its collective (R358): 0x8E for a read, 0x8F for a write. -/
def State.collTimeout (s : State) (id line : Nat) : State :=
  match s.openColl id with
  | none => s
  | some o =>
    let late (k : Nat) : Bool :=
      ((alGet o.waits k).map fun t => decide (t + ((s.ctx? o.ctx).getD Context.blank).engwait ≤ s.nanos)).getD false
    match s.collRead o line, s.collWrite o line with
    | .waits, _ => if late (2 * line) then s.failColl o 0x8E 0xA6 .abort else s
    | _, .waits => if late (2 * line + 1) then s.failColl o 0x8F 0xA6 .abort else s
    | _, _ => s

/-! ### Messages (R360, R361, R365, R367) -/

/-- Wire bytes of records of so many slots a line: two tag bytes a line, and the records that are not zero blocks (R367). -/
def blocksWire (cls : Nat) (bs : List Blk) : Nat :=
  2 * ((bs.length + clsRpl cls - 1) / clsRpl cls) + clsB cls * (bs.filter fun x => !x.isZero).length

/-- Wire bytes of a line that travels as bits. -/
def cpWire (b bytes : List Byte) : Nat :=
  if cpType b = 2 then blocksWire (cpCls b) ((List.range (clsRpl (cpCls b))).map fun j => lineBlk (cpCls b) bytes j) else 128

/-- What a send carries, with its wire bytes, once it is at hand: a partial sum as FP32, as W8 blocks under .w8, or as the contribution of a member that adds nothing (R366, log entry 67). -/
def Coll.payload (o : Coll) (x : CollSend) : Option (CollMsg × Nat) :=
  match x.kind with
  | .start => some (.start o.rank o.shared, 0)
  | .result => (o.held x.line).map fun l => (.result o.rank x.line l, cpWire o.block l)
  | .sum =>
    (o.sumHere x.line).map fun xs =>
      if cpW8 o.block then (.sum o.rank x.line (wordsOf (sendSum o.block xs)), blocksWire 2 (sumBlocks xs))
      else if (sumSources o.order o.n (o.origin x.line) o.rank).isEmpty then
        (.sum o.rank x.line ((o.part x.line).getD []), cpWire o.block ((o.part x.line).getD []))
      else (.sum o.rank x.line (wordsOf xs), 4 * xs.length)

/-- Units of a message (R360). The comparison of parameters is none of R360's messages and costs nothing (log entry 67). -/
def CollSend.cost (x : CollSend) (wire : Nat) : Nat := if x.kind = .start then 0 else wireCost wire

/-- Sends one message, if what it carries is at hand, its class allows it and a port of its peer is up. -/
def State.sendPart (s : State) (id : Nat) (x : CollSend) : State :=
  match s.openColl id with
  | none => s
  | some o =>
    match o.payload x, o.members[x.dst]? with
    | some (msg, wire), some m =>
      let cost := x.cost wire
      let port := s.portFor (((s.ctx? o.ctx).getD Context.blank).route m.cls)
      let me : Waiter := .coll id x.waitKey
      if cost ≠ 0 && !s.mayIssue o.core m.cls cost me then s.enterWait o.core m.cls me
      else if m.far && port.isNone then
        s.mapColl id fun y => if y.waits.any fun w => w.1 = x.waitKey then y else { y with waits := smIns y.waits x.waitKey s.nanos }
      else
        let s := ((s.leaveWait o.core m.cls me).debit o.core m.cls cost).mapColl id fun y =>
          { y with queue := y.queue.erase x, sent := y.sent ++ [⟨x, o.core, m.cls, cost, if m.far then port else none⟩] }
        if m.far then s.sendColl o m msg else s
    | _, _ => s

/-- The message is one of the flow of the collective, and this member expects it. -/
def Coll.expects (o : Coll) (rank line : Nat) (kind : CollKind) : Bool :=
  match kind with
  | .start => decide (rank < o.n) && rank ≠ o.rank
  | .sum => cpAdds o.block && decide (line < cpLines o.block) && (sumSources o.order o.n (o.origin line) o.rank).contains rank
  | .result => decide (line < cpLines o.block) && (Coll.forwards { o with rank := rank } line).contains o.rank

/-- A member takes up what another has sent. Parameters that differ fail every member (R364). -/
def State.takeMsg (s : State) (id : Nat) (msg : CollMsg) : State :=
  match s.coll? id, msg with
  | some o, .start rank shared =>
    if shared = o.shared then s.mapColl id fun x => { x with met := if x.met.contains rank then x.met else x.met ++ [rank] }
    else s.failColl o 0xA5 0xA5 .mismatch
  | some o, .sum rank line bytes =>
    if (o.sumFrom rank line).isSome then s else s.mapColl id fun x => { x with sums := x.sums ++ [(rank, line, bytes)] }
  | some o, .result _ line bytes =>
    if (alGet o.results line).isSome then s else s.mapColl id fun x => { x with results := x.results ++ [(line, slice bytes 0 138)] }
  | _, _ => s

/-- The receiver has a message: its units come back. -/
def State.collAcked (s : State) (id rank line : Nat) (kind : CollKind) : State :=
  match s.coll? id with
  | none => s
  | some o =>
    match o.sent.find? fun y => y.what = ⟨rank, line, kind⟩ with
    | none => s
    | some y =>
      (s.credit y.core y.cls y.cost).mapColl id fun z => { z with sent := z.sent.erase y, waits := smDel z.waits y.what.waitKey }

/-- A message to another die of this device is taken up there, once the member has started. -/
def State.takeLocal (s : State) (id : Nat) (y : CollSent) : State :=
  match s.openColl id with
  | none => s
  | some o =>
    match o.members[y.what.dst]?, o.payload y.what with
    | some m, some (msg, _) =>
      if m.far then s
      else
        match (s.collPeers o).find? fun z => z.die = m.die with
        | none => s
        | some z => (s.takeMsg z.id msg).collAcked id y.what.dst y.what.line y.what.kind
    | _, _ => s

/-- Sends what each collective can send. -/
def State.sweepColls (s : State) : List Coll → State
  | [] => s
  | o :: r =>
    let s := o.queue.foldl (fun s x => s.sendPart o.id x) s
    (((s.coll? o.id).map Coll.sent).getD [] |>.foldl (fun s y => s.takeLocal o.id y) s).sweepColls r

/-- COLLECTIVE_MESSAGE (R365): a message of a member arrives and is acknowledged; a message of this member is acknowledged or its link has failed; another member has failed. -/
def execCollectiveMessage (coll : Nat) (msg : CollMsg) (s : State) : Host.Outcome State Fault Refusal :=
  match s.coll? coll with
  | none => .next s
  | some o =>
    let arrives (rank line : Nat) (kind : CollKind) : State :=
      match o.members[rank]? with
      | none => s
      | some m => if m.far && o.expects rank line kind then (s.takeMsg coll msg).sendColl o m (.acknowledged o.rank line kind) else s
    if o.failed.isSome then .next s
    else
      match msg with
      | .start rank _ => .next (arrives rank 0 .start)
      | .sum rank line _ => .next (arrives rank line .sum)
      | .result rank line _ => .next (arrives rank line .result)
      | .acknowledged rank line kind => .next (s.collAcked coll rank line kind)
      | .abort => .next (s.failColl o 0xA6 0xA6 .abort)
      | .mismatch => .next (s.failColl o 0xA5 0xA5 .mismatch)
      | .linkFailed rank line kind cause =>
        match o.sent.find? fun y => y.what = ⟨rank, line, kind⟩ with
        | none => .next s
        | some y =>
          if 0x9D ≤ cause.toNat && cause.toNat ≤ 0x9F then .next (s.failColl o cause 0xA6 .abort)
          else .next ((s.credit y.core y.cls y.cost).mapColl coll fun z => z.resend s.nanos y)

/-- A message that has failed with the link cause, or has found no port, for ENGWAIT fails its collective (R348, R358): 0x8E for a message that brings a term, 0x8F for one that brings a line of the result (log entry 67). -/
def State.collResendTimeout (s : State) (id : Nat) : State :=
  match s.openColl id with
  | none => s
  | some o =>
    let wait := ((s.ctx? o.ctx).getD Context.blank).engwait
    match (o.queue ++ o.sent.map CollSent.what).find? fun x => ((alGet o.waits x.waitKey).map fun t => decide (t + wait ≤ s.nanos)).getD false with
    | some x => s.failColl o (if x.kind = .result then 0x8F else 0x8E) 0xA6 .abort
    | none => s

/-! ### Chunks (R368) -/

/-- The value of a chunk's counter, read with acquire at .dev. -/
def State.chunkValue (s : State) (o : Coll) (chunk : Nat) : Option Nat :=
  let va := cpCbase o.block + 8 * chunk
  match s.engineLine ((s.ctx? o.ctx).getD Context.blank) va .engineRead true with
  | .ready r => if s.isOwned r then none else some (leNat (s.bytes r.key (va % 128) 8))
  | _ => none

/-- The chunk exists and has not been taken up. -/
def Coll.openChunk (o : Coll) (chunk : Nat) : Bool :=
  cpChunk o.block && decide (chunk * cpChunkb o.block < cpLines o.block) && !o.ready.contains chunk

/-- CHUNK_READY: a counter that has reached TARGET lets the engine take up its chunk; while the context is descheduled the step is held (16 R329). -/
def execChunkReady (coll chunk : Nat) (s : State) : Host.Outcome State Fault Refusal :=
  match s.openColl coll with
  | none => .next s
  | some o =>
    if !o.openChunk chunk || ((s.ctx? o.ctx).bind Context.preempting).isSome then .next s
    else
      match s.chunkValue o chunk with
      | some v => .next (if cpTarget o.block ≤ v then s.mapColl coll fun x => { x with ready := x.ready ++ [chunk] } else s)
      | none => .next s

/-- CHUNK_COUNTER_TIMEOUT: a counter below TARGET for ENGWAIT fails the collective. -/
def execChunkCounterTimeout (coll chunk : Nat) (s : State) : Host.Outcome State Fault Refusal :=
  match s.openColl coll with
  | none => .next s
  | some o =>
    if o.openChunk chunk && decide (o.since + ((s.ctx? o.ctx).getD Context.blank).engwait ≤ s.nanos)
        && ((s.chunkValue o chunk).map fun v => decide (v < cpTarget o.block)).getD true then
      .next (s.failColl o 0x8D 0xA6 .abort)
    else .next s

/-! ### Completion (20 R379) -/

/-- Nothing of a collective is left to do: its lines stand, its messages are acknowledged, and every member has named the same parameters. -/
def Coll.finished (o : Coll) : Bool :=
  o.failed.isSome || (o.dstLines.all (fun l => o.written.contains l) && o.queue.isEmpty && o.sent.isEmpty
    && (List.range o.n).all fun r => r = o.rank || o.met.contains r)

/-- COLLECTIVE_COMPLETION: the outcome is kept for CWAIT, the flag's count falls, and COLL_STATE 0xA5 or 0xA6 is raised to the group. -/
def execCollectiveCompletion (coll : Nat) (s : State) : Host.Outcome State Fault Refusal :=
  match s.coll? coll with
  | none => .next s
  | some o =>
    if !o.finished || !s.engineRuns o.ctx then .next s
    else
      let s : State := { s with colls := s.colls.filter fun x => x.id ≠ coll, collsDone := s.collsDone ++ [⟨coll, o.failed⟩] }
      let s := s.mapGroup o.key fun g => { g with pend := g.pend.filter fun p => p.kind ≠ PendKind.coll coll }
      .next (match o.failed with
        | some c =>
          if c = 0xA5 || c = 0xA6 then
            s.raiseImprecise o.key { cause := c, faddr := 0, origin := BitVec.ofNat 64 o.pc.toNat, detail := 0, committed := false }
          else s
        | none => s)

end Sys2Proof.Machine
end

