-- ==== Sys2Proof/Machine/EngineEvents.lean ====
section
/-! DEFINITION. The events that every engine has: a line lands, fails, is read again, times out; a fabric step's resend time-out. Each names an operation of the copy unit, of the matrix array or of the collective engine (09 R196, 12 R255, 19 R358). -/

namespace Sys2Proof.Machine

/-- ENGINE_LINE_LANDING: a destination line of a copy, a row of MSTA, or a line of a collective's DST is written. -/
def execEngineLineLanding (op line : Nat) (s : State) : Host.Outcome State Fault Refusal :=
  match s.mat? op with
  | some o =>
    match s.storeLanding o line with
    | .done s => .next s
    | _ => .next s
  | none => if (s.coll? op).isSome then .next (s.collLanding op line) else .next (s.copyLanding op line)

/-- ENGINE_LINE_FAILURE: a line, or a row of an epilogue, that meets a fault fails. -/
def execEngineLineFailure (op line : Nat) (s : State) : Host.Outcome State Fault Refusal :=
  if (s.mat? op).isSome then .next (s.rowFailure op line)
  else if (s.coll? op).isSome then .next (s.collFailure op line)
  else .next (s.copyFailure op line)

/-- ENGINE_ACCESS_RETRY: an access that could not proceed is made again; an engine reads a source line. -/
def execEngineAccessRetry (op line : Nat) (s : State) : Host.Outcome State Fault Refusal :=
  if (s.mat? op).isSome then .next (s.readAhead op line)
  else if (s.coll? op).isSome then .next (s.collRetry op line)
  else .next (s.copyRetry op line)

/-- ENGINE_WAIT_TIMEOUT: an access that has waited ENGWAIT on a page fails with ENGINE_TIMEOUT. -/
def execEngineWaitTimeout (op line : Nat) (s : State) : Host.Outcome State Fault Refusal :=
  if (s.mat? op).isSome then .next (s.rowTimeout op line)
  else if (s.coll? op).isSome then .next (s.collTimeout op line)
  else .next (s.copyTimeout op line)

/-- PUSH_RESEND_TIMEOUT (19 R358): a push row or a message of a collective that still fails ENGWAIT after its first failure fails its operation. -/
def execPushResendTimeout (op row : Nat) (s : State) : Host.Outcome State Fault Refusal :=
  if (s.coll? op).isSome then .next (s.collResendTimeout op) else .next (s.pushTimeout op row)

end Sys2Proof.Machine
end

