-- ==== Sys2Proof/Machine/Mirror.lean ====
section
/-! DEFINITION. Page tables as the firmware writes them: MAP and UNMAP of one entry, the table pool, the collapse of mirrored blocks (09 R185 to R188, 19 R369 to R371, 22 R387). -/

namespace Sys2Proof.Machine

/-! ### The pool of tables (19 R370) -/

/-- Zeroes `n` lines of a die from a physical address. -/
def State.zeroLines (s : State) (die pa n : Nat) : State :=
  let k := hbmKey die pa
  { s with mem := memClear s.mem (k * 256) ((k + n) * 256), poison := s.poison.filter fun x => decide (x < k) || decide (k + n ≤ x) }

/-- Takes a zeroed table of a level from a die's pool: a frame, or for level 3 a sixteenth of a frame. -/
def State.takeTable (s : State) (die lev : Nat) : Option (Nat × State) :=
  if lev = 3 then
    match s.smallTables.find? fun x => x.1 = die with
    | some x => some (x.2, { s with smallTables := s.smallTables.erase x }.zeroLines die x.2 2)
    | none =>
      match s.pool.find? fun x => x.1 = die with
      | none => none
      | some x =>
        let rest := (List.range 15).map fun i => (die, x.2 + 256 * (i + 1))
        some (x.2, { s with pool := s.pool.erase x, smallTables := s.smallTables ++ rest }.zeroLines die x.2 2)
  else
    match s.pool.find? fun x => x.1 = die with
    | none => none
    | some x => some (x.2, { s with pool := s.pool.erase x }.zeroLines die x.2 32)

/-- Writes entry i of a table. -/
def State.setPte (s : State) (die t i e : Nat) : State :=
  let (k, o) := pteKey die t i
  s.putBytes k o (natLe e 8)

/-- The index of an intermediate address in a table of a level. -/
def ptIndex (lev ia : Nat) : Nat := bits ia (levelBits lev).1 (levelBits lev).2

/-- An entry that points to a table. -/
def ptPointer (t : Nat) : Nat := 2 ^ 63 + t

/-- The physical address of a die's level-0 table. -/
def State.rootTable (s : State) (die : Nat) : Nat := bits (smGet 0 s.ptroot die).toNat 14 23 * 2 ^ 14

/-! ### One entry of MAP and UNMAP (22 R387) -/

/-- Writes an entry of a level on the path of an intermediate address, from the table of level `lev` at `t`; `n` levels are left to go. The cause of a failure: a leaf on the path, a pool too small. -/
def State.mapFrom (s : State) (die ia e : Nat) : Nat → Nat → Nat → Except Byte State
  | 0, lev, t => .ok (s.setPte die t (ptIndex lev ia) e)
  | n + 1, lev, t =>
    let i := ptIndex lev ia
    let x := s.pte die t i
    if !bit x 63 then
      match s.takeTable die (lev + 1) with
      | none => .error 0xB8
      | some (u, s) => (s.setPte die t i (ptPointer u)).mapFrom die ia e n (lev + 1) u
    else if bit x 62 then .error 0x53
    else s.mapFrom die ia e n (lev + 1) (pteAddr x)

/-- The checks of an entry that concern no table: its level, its reserved bits, reserved memory, the format rules of its level (09 R185 to R187). The spec gives no answer to bits [63:52] of the entry's intermediate address: here they are not used (log entry 77). -/
def mapCheck (lev e : Nat) : Option Byte :=
  if 4 ≤ lev || pteReserved e || (bit e 63 && decide (pteAddr e < 2 ^ 22)) then some 0x07
  else if !bit e 63 then none
  else if bit e 62 then (if lev = 0 || pteAddr e % pageSize lev ≠ 0 then some 0x53 else none)
  else if lev = 3 || pteAddr e % tableSize (lev + 1) ≠ 0 then some 0x53
  else none

/-- Writes entries in turn, each an intermediate address, a level and a word. -/
def State.mapAll (s : State) : List (Nat × Nat × Nat) → Except Byte State
  | [] => .ok s
  | (ia, lev, e) :: r =>
    let die := bits ia 50 2
    match s.mapFrom die ia e lev 0 (s.rootTable die) with
    | .error c => .error c
    | .ok s => s.mapAll r

/-- Clears V of the entry of a level on the path of an intermediate address; the cause of a failure. -/
def State.unmapFrom (s : State) (die ia : Nat) : Nat → Nat → Nat → Except Byte State
  | 0, lev, t =>
    let i := ptIndex lev ia
    .ok (s.setPte die t i (s.pte die t i % 2 ^ 63))
  | n + 1, lev, t =>
    let x := s.pte die t (ptIndex lev ia)
    if !bit x 63 then .error 0x4F else if bit x 62 then .error 0x53 else s.unmapFrom die ia n (lev + 1) (pteAddr x)

/-! ### The collapse of a mirrored block (19 R370) -/

/-- V, LEAF, W and MIR of leaves: mirrored, writable. -/
def leafMirrored (pa : Nat) : Nat := 13 * 2 ^ 60 + pa
def leafWritable (pa : Nat) : Nat := 14 * 2 ^ 60 + pa

/-- Fills a table with n mirrored leaves of a size. -/
def State.fillMirrored (s : State) (die t pa size : Nat) : Nat → State
  | 0 => s
  | n + 1 => (s.setPte die t n (leafMirrored (pa + n * size))).fillMirrored die t pa size n

/-- The leaf of an intermediate address: its level, its table, its entry. -/
def State.leafOf (s : State) (die ia : Nat) : List Nat → Nat → Option (Nat × Nat × Nat)
  | [], _ => none
  | lev :: r, t =>
    let x := s.pte die t (ptIndex lev ia)
    if !bit x 63 || pteReserved x then none else if bit x 62 then some (lev, t, x) else s.leafOf die ia r (pteAddr x)

/-- The new leaf of the block: writable for its owner, invalid on every other device. -/
def blockLeaf (owner : Bool) (pa : Nat) : Nat := if owner then leafWritable pa else 0

/-- Splits a 2 MiB mirrored leaf, entry of table t, about the block of `ia`. -/
def State.splitTwo (s : State) (die ia t pa : Nat) (owner : Bool) : Option State :=
  match s.takeTable die 3 with
  | none => none
  | some (u, s) =>
    let s := s.fillMirrored die u pa (2 ^ 16) 32
    let i := ptIndex 3 ia
    some ((s.setPte die u i (blockLeaf owner (pa + i * 2 ^ 16))).setPte die t (ptIndex 2 ia) (ptPointer u))

/-- Collapses the 64 KiB block of `ia`; none when the pool is empty. An address whose leaf is not mirrored is left as it is. -/
def State.collapse (s : State) (ia : Nat) (owner : Bool) : Option State :=
  let die := bits ia 50 2
  match s.leafOf die ia [0, 1, 2, 3] (s.rootTable die) with
  | none => some s
  | some (lev, t, x) =>
    if !bit x 60 || bit x 61 then some s
    else
      let pa := pteAddr x
      let r := if lev = 3 then some (s.setPte die t (ptIndex 3 ia) (blockLeaf owner pa))
        else if lev = 2 then s.splitTwo die ia t pa owner
        else
          match s.takeTable die 2 with
          | none => none
          | some (u, s) =>
            let s := s.fillMirrored die u pa (2 ^ 21) 512
            match s.splitTwo die ia u (pa + ptIndex 2 ia * 2 ^ 21) owner with
            | none => none
            | some s => some (s.setPte die t (ptIndex 1 ia) (ptPointer u))
      r.map fun s => { s with tlb := [] }

/-- MIRROR_COLLAPSE (R370): once every other device of the set has given the block up, the owner's leaf is split and made writable, and the host is told. An empty pool reports the writer's grid. -/
def execMirrorCollapse (request : Nat) (s : State) : Host.Outcome State Fault Refusal :=
  match s.mirrorReqs.find? fun r => r.id = request with
  | none => .next s
  | some r =>
    if !r.released then .next s
    else
      let s := { s with mirrorReqs := s.mirrorReqs.filter fun x => x.id ≠ request }
      match s.collapse r.ia true with
      | none => .next (s.reportOnly r.ctx 0xB8)
      | some s =>
        let (t, s) := s.takeTick
        .next (s.send { opc := Config.freeByte t 0, status := 0, seq := 0, ctx := 0, cause := 0, payload := natLe r.ia 8 })

/-- The other devices of the set have answered: the block is this device's, or the writer's grid is reported (R370). -/
def State.mirrorPeers (s : State) (request : Nat) (released : Bool) : State :=
  match s.mirrorReqs.find? fun r => r.id = request with
  | none => s
  | some r =>
    if released then { s with mirrorReqs := s.mirrorReqs.map fun x => if x.id = request then { x with released := true } else x }
    else State.reportOnly { s with mirrorReqs := s.mirrorReqs.filter fun x => x.id ≠ request } r.ctx 0xB8

/-- Steps 1 and 2 of R370 on this device, for a block that another device claims: the lowest device number becomes the owner. This device gives the block up, and no core keeps a copy of it (R371); with no table for the split nothing changes, and the owner is told. -/
def State.mirrorRelease (s : State) (ia owner : Nat) : State :=
  let block := ia / 2 ^ 16
  if decide (s.devno.toNat < owner) && s.mirrorReqs.any fun r => r.ia / 2 ^ 16 = block then s
  else
    let s : State := { s with mirrorReqs := s.mirrorReqs.filter fun r => r.ia / 2 ^ 16 ≠ block }
    match s.collapse ia false with
    | none => { s with wire := s.wire ++ [.mirrorAnswer owner (block * 2 ^ 16) false] }
    | some s =>
      { s with
        l1 := s.l1.filter fun e => decide (e.1 % 2 ^ 45 / 512 ≠ block)
        wire := s.wire ++ [.mirrorAnswer owner (block * 2 ^ 16) true] }

end Sys2Proof.Machine
end

