-- ==== Sys2Proof/Machine/Preempt.lean ====
section
/-! DEFINITION. Pre-emption, context save and resumption, and the release of a reported context (16 R324, R328 to R330, R362, 22 R389, R399). -/

namespace Sys2Proof.Machine

/-! ### Stop points (16 R328) -/

/-- Where a group stops. -/
inductive StopPoint where
  /-- As it stands; it keeps the registers of its open region's mask, or all. -/
  | here
  /-- After its region has aborted. -/
  | abort
  deriving DecidableEq, Repr

/-- The split waits on an absent scratchpad line. -/
def Split.waitsLine (p : Split) : Bool :=
  match p.park with
  | .retry (.lines _) => true
  | _ => false

/-- The split waits at TBAR, BARWAIT, CONV, EVWAIT or WAITGE. -/
def Split.waitsEvent (p : Split) : Bool := p.midWord && !p.midLanes

/-- The split waits at a CWAIT, or for room for a collective (20 R379, R380). -/
def Split.waitsColl (p : Split) : Bool :=
  match p.park with
  | .retry (.coll _) | .retry (.collRoom _) => true
  | _ => false

/-- A collective in flight: it is held while its context is descheduled (16 R329, 20 R379). -/
def PendOp.held (o : PendOp) : Bool :=
  match o.kind with
  | .coll _ => true
  | _ => false

/-- The group waits on an allowance (19 R361). -/
def State.waitsAllowance (s : State) (k : Nat) (g : Group) : Bool :=
  match g.remote with
  | some r =>
    match r.todo with
    | [] => false
    | (cost, q) :: _ =>
      r.waiting.isEmpty && (decide (q.ord.toNat < 2) || !s.passes.any fun p => p.key = k && p.failed.isNone)
        && !s.mayIssue (keyCore k) q.pass cost (.group k)
  | none => g.allowanceSlot.isSome && (s.readySlot k g).isNone

/-- The group has committed its region and has stopped before the committing word (16 R328). -/
def Group.committedStop (g : Group) : Bool := g.splits.any fun p => p.park = .retry .preempted

/-- The first stop point of R328 and R362 that applies to a group; none when it goes on. Traps that are due come first (16 R327). Collectives in flight do not keep a group from stopping, and a CWAIT stops at once, to be issued again (20 R379, R380); inside a region it aborts the region (log entry 116). -/
def State.stopPoint (s : State) (k : Nat) (g : Group) : Option StopPoint :=
  let idle := (s.readySlot k g).isNone && g.splits != []
  let atOnce : Option StopPoint := if g.region.isNone then some .here else if s.atomicsOut k then none else some .abort
  if g.preciseDue || g.impreciseDue || (s.finishWait k g).isSome || g.splits.any Split.midLanes then none
  else if g.replay.isSome then some .here
  else if s.waitsAllowance k g then atOnce
  else if g.remote.isSome then none
  else if g.handler.isSome then some .here
  else if idle && g.splits.any Split.waitsLine then atOnce
  else if idle && g.splits.any Split.waitsEvent then some .here
  else if idle && g.splits.any Split.waitsColl then atOnce
  else if g.region.isNone && g.splits.any Split.midWord then none
  else if g.committedStop || { g with pend := g.pend.filter fun o => !o.held }.atSafePoint then some .here
  else none

/-- The registers of a group that stops: all of them in its handler, else those of the mask of an open region; the others read zero when it resumes. -/
def Group.keepMask (g : Group) : Group :=
  match g.region, g.handler with
  | none, _ | _, some _ => g
  | some r, none =>
    { g with v := g.v.filter fun e => inMaskV r.mask (e.1 / 64), side := g.side.filter fun e => inMaskV r.mask (e.1 / 2),
             s := g.s.filter fun e => inMaskS r.mask e.1 }

/-- GROUP_PREEMPT_STOP (R328): a group of a context that is being pre-empted stops at its stop point. Its own accesses complete, and its core's dirty lines are written back. -/
def execGroupPreemptStop (ag : AgentRef) (s : State) : Host.Outcome State Fault Refusal :=
  let k := agentKey ag
  match s.group? k with
  | none => .next s
  | some g =>
    if g.glint.isSome || g.stopped || (s.ctxOf g).preempting.isNone then .next s
    else
      match s.stopPoint k g with
      | none => .next s
      | some p =>
        let s := match p with
          | .here => s.mapGroup k Group.finishThreads
          | .abort => s.abortRegion k (some .noCause)
        .next (((s.leaveWaits (.group k)).flushCore (keyCore k)).mapGroup k fun g => { g.keepMask with stopped := true })

/-! ### The save (R329, 22 R389) -/

/-- The groups of a context, glints aside. -/
def State.groupsOf (s : State) (ctx : Nat) : List (Nat × Group) := s.groups.filter fun e => e.2.ctx = ctx && e.2.glint.isNone

/-- The copies, bulk reads and glints of a context have ended, and the entries of ATOM.DET that it has sent (R329). -/
def State.copiesDrained (s : State) (ctx : Nat) : Bool :=
  s.copies.all (fun o => o.ctx ≠ ctx) && s.held.all (fun h => h.ctx ≠ ctx) && s.sliceReqs.all (fun q => q.ctx ≠ ctx)
  && s.groups.all fun e => !(e.2.ctx = ctx && (e.2.glint.isSome || e.2.handing || e.2.splits.any Split.midLanes))

/-- A converted push operation that waits on its send allowance (R329, 19 R361). -/
def State.pushWaitsUnits (s : State) (o : MatOp) : Bool :=
  match o.epi with
  | none => false
  | some d =>
    let cls := (((s.matCtx o.q).map MatCtx.routing).getD 0).toNat % 64
    let l := s.waitersOf o.core cls
    d.dest = 2 && l.any (Waiter.ofOp o.id)
      && !((l.head?.map (Waiter.ofOp o.id)).getD false && decide (wireCost d.wire ≤ (s.allowance o.core cls).value.toNat))

/-- Every converted epilogue of a context has been delivered, but pushes that wait on their send allowance (R329). -/
def State.epiloguesDrained (s : State) (ctx : Nat) : Bool :=
  (s.matOps.all fun o => o.ctx ≠ ctx || !o.converted || s.pushWaitsUnits o)
  && s.pushes.all fun p => ((s.mat? p.op).map fun o => decide (o.ctx ≠ ctx)).getD true

/-- No line of a collective can be read or written now: what is left waits on peers, on counters or on other engines (20 R379, R329). -/
def State.collHeld (s : State) (o : Coll) : Bool :=
  let stands (t : CollTry) : Bool := match t with
    | .blocked => true
    | _ => false
  o.failed.isSome || (o.srcLines.all (fun l => stands (s.collRead o l)) && o.dstLines.all fun l => stands (s.collWrite o l))

/-- The engines of a context are at rest and its groups have stopped. -/
def State.atRest (s : State) (ctx : Nat) : Bool :=
  (s.groupsOf ctx).all (fun e => e.2.stopped) && s.copiesDrained ctx && s.epiloguesDrained ctx
  && s.colls.all (fun o => o.ctx ≠ ctx || s.collHeld o) && s.passes.all fun p => (s.passLive p).isNone || p.ctx ≠ ctx || p.failed.isSome

/-- The scratchpad lines of a team, core by core: the core, the first line, how many. -/
def Team.spans (t : Team) : List (Nat × Nat × Nat) :=
  if t.pair then [(evenCore t.core, t.base0, scrLines t.scr), (evenCore t.core + 1, t.base1, scrLines t.scr)]
  else [(t.core, t.base0, scrLines t.scr)]

/-- Bytes of memory in a team's lines. -/
def State.spanCells (s : State) (x : Nat × Nat × Nat) : List Host.Cell :=
  memRange s.mem (sramKey x.1 x.2.1 * 256) (sramKey x.1 (x.2.1 + x.2.2) * 256)

/-- States of a team's lines; of their latest writers only queued matrix operations go on (09 R196). -/
def State.spanBits (s : State) (x : Nat × Nat × Nat) : List (Nat × LineState) :=
  (s.lineState.filter fun e => decide (x.1 * 4096 + x.2.1 ≤ e.1) && decide (e.1 < x.1 * 4096 + x.2.1 + x.2.2)).map
    fun e => (e.1, { e.2 with writer := if s.matOps.any fun o => o.id = e.2.writer then e.2.writer else 0 })

/-- The scratchpad lines that a context's queued matrix operations own, in order (09 R196). -/
def State.ownedBy (s : State) (ctx : Nat) : List (Nat × Nat) :=
  s.owned.filter fun x => decide (2 ^ 61 ≤ x.1) && s.matOps.any fun o => o.id = x.2 && decide (o.ctx = ctx)

/-- The accumulator tiles whose most recent writer is a context. -/
def State.tilesOf (s : State) (ctx : Nat) : List Nat := (s.accOwner.filter fun e => e.2 = ctx).map (·.1)

/-- What the save of a context holds. -/
def State.savedOf (s : State) (ctx : Nat) : Saved :=
  let ts := s.teams.filter fun t => t.ctx = ctx
  let spans := ts.flatMap Team.spans
  let tiles := s.tilesOf ctx
  { groups := s.groupsOf ctx, teams := ts, lines := spans.flatMap s.spanCells, lineBits := spans.flatMap s.spanBits,
    accWords := s.acc.filter (fun e => tiles.contains (e.1 / 1024)), tiles, matOps := s.matOps.filter (fun o => o.ctx = ctx),
    owned := s.ownedBy ctx }

/-- SAVEMAX (R389). -/
def Saved.max (x : Saved) : Nat :=
  65536
  + (x.groups.map fun e => 8192 + 2 * e.2.regs * (4 * e.2.width + 4) + 16 * (32 + 16 * e.2.width)).foldl (· + ·) 0
  + (x.teams.map fun t => 144 * scrLines t.scr * (if t.pair then 2 else 1) + 4096).foldl (· + ·) 0
  + 4160 * x.tiles.length + 4352 * (x.matOps.filter fun o => o.converted).length + 64 * x.matOps.length

/-- The 32 bytes of the header. -/
def Saved.header (x : Saved) (used : Nat) : List Byte :=
  natLe Config.firmwareVersion.toNat 4 ++ [0xB3, 0, 0, 0] ++ natLe x.groups.length 4 ++ natLe x.teams.length 4 ++ natLe used 8 ++ natLe 0 8

/-- Writes bytes at an intermediate address, line by line; none when a line cannot be written. -/
def State.writeIa (s : State) (c : Context) (ia : Nat) (bs : List Byte) : Nat → Option State
  | 0 => some s
  | n + 1 =>
    match s.writeIa c ia bs n with
    | none => none
    | some s =>
      match s.resolveIa c (ia + 128 * n) .engineWrite with
      | .error _ => none
      | .ok l =>
        let s := if keyIsPrism l.key then s else s.recall l.ia
        some (s.putBytes l.key 0 (slice bs (128 * n) (min 128 (bs.length - 128 * n))))

/-- The groups and the engine steps of a context leave the wait orders of the allowances: their places are not kept (19 R362). -/
def State.leaveSteps (s : State) (ctx : Nat) : State :=
  let s := s.leaveGroups ctx
  let s := (s.matOps.filter fun o => o.ctx = ctx).foldl (fun s o => s.leaveOp o.id) s
  (s.colls.filter fun o => o.ctx = ctx).foldl (fun s o => s.leaveOp o.id) s

/-- The cores of a team. -/
def Team.cores (t : Team) : List Nat := if t.pair then [evenCore t.core, evenCore t.core + 1] else [t.core]

/-- The cores of a context's teams write their dirty lines back: effects that its groups handed over, and those of its glints, may have been performed since the groups stopped (10 R207, R218). -/
def State.flushTeams (s : State) (ctx : Nat) : State :=
  ((s.teams.filter fun t => t.ctx = ctx).flatMap Team.cores).foldl State.flushCore s

/-- The state once a context's teams and what they hold have left the cores. -/
def State.unload (s : State) (ctx : Nat) : State :=
  let lost := s.ownedBy ctx
  let s := (s.leaveSteps ctx).flushTeams ctx
  { s with owned := s.owned.filter (fun x => !lost.contains x), groups := s.groups.filter (fun e => e.2.ctx ≠ ctx), teams := s.teams.filter (fun t => t.ctx ≠ ctx),
           matOps := s.matOps.filter (fun o => o.ctx ≠ ctx), accOwner := s.accOwner.filter fun e => e.2 ≠ ctx }

/-- CONTEXT_SAVE_WRITE (R329): the core state of a context whose engines are at rest is written to its save area, and the context is pre-empted. How many bytes it takes, and those behind the header, are free values. -/
def execContextSaveWrite (ctx : Nat) (s : State) : Host.Outcome State Fault Refusal :=
  match s.ctx? ctx with
  | none => .next s
  | some c =>
    match c.preempting with
    | none => .next s
    | some q =>
      if !s.atRest ctx then .next s
      else
        let x := s.savedOf ctx
        let (t, s) := s.takeTick
        let used := 32 + Config.freeNat t % (x.max - 31)
        if c.savesize < used then .next (s.reportOnly ctx 0xB5)
        else
          match s.writeIa c c.savebase (x.header used ++ (List.range (used - 32)).map (Config.freeByte t)) ((used + 127) / 128) with
          | none => .next (s.reportOnly ctx 0xB5)
          | some s =>
            let s := (s.unload ctx).mapCtx ctx fun c => { c with preempting := none, preempted := true, saved := some x }
            .next (s.send { opc := 0x86, status := 0, seq := q, ctx := BitVec.ofNat 32 ctx, cause := 0, payload := [] })

/-! ### Resumption (R330, R399) -/

/-- The clusters that saved teams occupied, rising. -/
def Saved.clusters (x : Saved) : List Nat := (List.range 24).filter fun c => x.teams.any fun t => coreCluster t.core = c

/-- Core `core` moved to another cluster. -/
def moveCore (target core : Nat) : Nat := target * 24 + coreJ core

/-- The groups of a saved team on the even core or only core, or on the odd core, with their keys. -/
def Saved.groupsOn (x : Saved) (t : Team) (core : Nat) : List (Nat × Group) := x.groups.filter fun e => e.2.team = t.id && keyCore e.1 = core

/-- The saved teams that used a core. -/
def Saved.teamsOn (x : Saved) (core : Nat) : List Team := x.teams.filter fun t => t.spans.any fun p => p.1 = core

/-- The saved groups of a core. -/
def Saved.groupsAt (x : Saved) (core : Nat) : List (Nat × Group) := x.groups.filter fun e => keyCore e.1 = core

/-- Places groups of their widths in free slots. -/
def placeGroups : List (Nat × Group) → List Nat → Option (List (Nat × Nat))
  | [], _ => some []
  | (k, g) :: r, taken =>
    match placeSlots g.width 1 taken with
    | some [i] => (placeGroups r (if g.width = 64 then i :: (i + 1) :: taken else i :: taken)).map fun m => (k, i) :: m
    | _ => none

/-- A saved core fits a core of a target cluster: slots, registers, the same lines, free tiles, the same CARVE unless the core holds no team (09 R191), at most 32 teams. -/
def State.coreFits (s : State) (x : Saved) (core target : Nat) : Bool :=
  let n := moveCore target core
  let ts := x.teamsOn core
  let gs := x.groupsAt core
  let used := (s.residents n).map fun t => (if t.pair && n % 2 = 1 then t.base1 else t.base0, scrLines t.scr)
  decide ((s.residents n).length + ts.length ≤ 32)
  && ((s.residents n).isEmpty || ts.all fun t => decide (t.carve = s.carveOf n))
  && decide (s.regsInUse n + (gs.map fun e => regBytes e.2.width e.2.regs).foldl (· + ·) 0 ≤ 524288)
  && (placeGroups gs (s.takenSlots n)).isSome
  && ts.all (fun t => t.spans.all fun p => p.1 ≠ core || used.all fun u => u.2 = 0 || p.2.2 = 0 || decide (p.2.1 + p.2.2 ≤ u.1) || decide (u.1 + u.2 ≤ p.2.1))
  && (x.tiles.filter fun i => i / 64 = core).all fun i =>
      match alGet s.accOwner (n * 64 + i % 64) with
      | none => true
      | some o => (s.residents n).all fun t => t.ctx ≠ o

/-- The saved cores of a cluster. -/
def Saved.coresOf (x : Saved) (c : Nat) : List Nat :=
  (List.range 24).filterMap fun j =>
    let core := c * 24 + j
    if !(x.teamsOn core).isEmpty || x.tiles.any (fun i => i / 64 = core) then some core else none

/-- The clusters to which something saved returns: teams, or tiles alone (R330). -/
def Saved.places (x : Saved) : List Nat :=
  (List.range 24).filter fun c => x.clusters.contains c || x.tiles.any fun i => coreCluster (i / 64) = c

/-- Every core of a saved cluster fits a target. -/
def State.clusterFits (s : State) (x : Saved) (c target : Nat) : Bool := (x.coresOf c).all fun core => s.coreFits x core target

/-- Chooses the target of each saved cluster (R399): the one that RESUME names, the same cluster, the lowest that fits and that no other has taken or is named for. -/
def State.chooseTargets (s : State) (x : Saved) (named : List Nat) : List Nat → List (Nat × Nat) → Option (List (Nat × Nat))
  | [], m => some m
  | c :: r, m =>
    let taken (t : Nat) : Bool := (m.any fun p => p.2 = t) || r.any fun d => named.getD d 255 = t
    let want := named.getD c 255
    let pick := if want < 24 then (if s.clusterFits x c want && !taken want then some want else none)
      else if s.clusterFits x c c && !taken c then some c
      else (List.range 24).find? fun t => !taken t && s.clusterFits x c t
    match pick with
    | none => none
    | some t => s.chooseTargets x named r (m ++ [(c, t)])

/-- Where a core goes under a choice of targets. -/
def newCore (m : List (Nat × Nat)) (core : Nat) : Nat := moveCore ((alGet m (coreCluster core)).getD (coreCluster core)) core

/-- The keys that saved groups move to. -/
def State.newKeys (s : State) (x : Saved) (m : List (Nat × Nat)) : List (Nat × Nat) :=
  (x.places.flatMap x.coresOf).flatMap fun core =>
    let n := newCore m core
    ((placeGroups (x.groupsAt core) (s.takenSlots n)).getD []).map fun p => (p.1, n * 64 + p.2)

/-- A group as it resumes: it issues again; a word that waited on a condition is issued again, an arrival stands (R328). -/
def Group.resumed (g : Group) (now : Nat) : Group :=
  let wake (p : Split) : Split :=
    match p.park with
    | .retry _ | .word _ => { p with park := .running }
    | _ => p
  { g with stopped := false, splits := g.splits.map wake, readyAt := now, eligible := none, promoted := false, yielded := none }

/-- Puts saved groups in their new places. -/
def State.restoreGroups (s : State) (keys : List (Nat × Nat)) : List (Nat × Group) → State
  | [] => s
  | (k, g) :: r =>
    let n := (alGet keys k).getD k
    let g := g.resumed s.cycles
    let s := s.putGroup n g
    let s := match g.remote with
      | some x => s.queuePass n x
      | none => s
    s.restoreGroups keys r

/-- Puts saved cells back, a core's lines moved to another core. -/
def restoreCells (m : List (Nat × Nat)) : List Host.Cell → Memory → Memory
  | [], mem => mem
  | (a, b) :: r, mem =>
    let n := a / 256 - 2 ^ 33
    restoreCells m r (memPut mem (sramKey (newCore m (n / 4096)) (n % 4096) * 256 + a % 256) b)

/-- A queued matrix operation on its new core. -/
def MatOp.moved (m keys : List (Nat × Nat)) (o : MatOp) : MatOp :=
  { o with core := newCore m o.core, key := (alGet keys o.key).getD o.key,
           regReads := o.regReads.map fun r => { r with key := (alGet keys r.key).getD r.key },
           sources := o.sources.map fun e => (e.1 / 2 ^ 22 * 2 ^ 22 + newCore m (e.1 % 2 ^ 22 / 4096) * 4096 + e.1 % 4096, e.2) }

/-- The launch names its group by the new place. -/
def LaunchFrom.moved (ctx : Nat) (keys : List (Nat × Nat)) (x : Launch) : Launch :=
  if x.ctx ≠ ctx then x
  else
    match x.origin with
    | .host _ => x
    | .group k t pc => { x with origin := .group ((alGet keys k).getD k) t pc }
    | .spawn k t pc root w => { x with origin := .spawn ((alGet keys k).getD k) t pc root w }

/-- The cores that saved teams are bound to adopt their split where it differs (09 R191). -/
def State.adoptCarve (s : State) (t : Team) : State :=
  t.spans.foldl (fun s p => if s.carveOf p.1 = t.carve then s else s.repartition p.1 t.carve) s

/-- Restores what a save holds on the chosen clusters, and writes a bind record for each team (22 R399). -/
def State.restore (s : State) (ctx : Nat) (x : Saved) (m : List (Nat × Nat)) : State :=
  let keys := s.newKeys x m
  let key (k : Nat) : Nat := (alGet keys k).getD k
  let ts := x.teams.map fun t => { t with core := newCore m t.core, gone := [] }
  let s := ts.foldl State.adoptCarve s
  let s := ts.foldl (fun s t => t.spans.foldl (fun s p => (s.clearLines p.1 p.2.1 p.2.2).acquire p.1 t.pair .dev) s) s
  let mine (q : Nat) : Bool := x.matOps.any (fun o => o.q = q) || x.groups.any (fun e => e.2.mat.id = q)
    || x.teams.any fun t => t.sets.any fun c => c.mat.id = q
  let s : State :=
    { s with
      teams := s.teams ++ ts
      mem := restoreCells m x.lines s.mem
      owned := s.owned ++ x.owned.map fun e =>
        let n := e.1 - sramOwn 0 0
        (sramOwn (newCore m (n / 4096)) (n % 4096), e.2)
      lineState := x.lineBits.foldl (fun a e => smPut LineState.fresh a (newCore m (e.1 / 4096) * 4096 + e.1 % 4096) e.2) s.lineState
      acc := x.accWords.foldl (fun a e => smPut 0 a ((newCore m (e.1 / 65536) * 64 + e.1 / 1024 % 64) * 1024 + e.1 % 1024) e.2)
        (x.tiles.foldl (fun a i => let t := newCore m (i / 64) * 64 + i % 64
          a.filter fun e => e.1 / 1024 ≠ t) s.acc)
      accOwner := x.tiles.foldl (fun a i => smPut 0 a (newCore m (i / 64) * 64 + i % 64) ctx) s.accOwner
      matOps := s.matOps ++ x.matOps.map (MatOp.moved m keys)
      batchFails := s.batchFails.map fun f => if mine f.q then { f with key := key f.key } else f
      batchFlags := s.batchFlags.map fun f => if mine f.q then { f with key := key f.key } else f
      colls := s.colls.map fun o => if o.ctx = ctx then { o with key := key o.key, core := newCore m o.core } else o
      passes := s.passes.map fun p => if p.ctx = ctx && p.failed.isSome then { p with key := key p.key, core := newCore m p.core } else p
      launches := s.launches.map (LaunchFrom.moved ctx keys) }
  (ts.foldl State.recordTeam (s.restoreGroups keys x.groups)).mapCtx ctx fun c => { c with preempted := false, saved := none, resuming := none }

/-- VERSION of the header in the save area, where it can be read. -/
def State.savedVersion (s : State) (c : Context) : Option Word :=
  match s.resolveIa c c.savebase .engineRead with
  | .error _ => none
  | .ok l => if s.isPoisoned l.key then none else some (BitVec.ofNat 32 (leNat (s.bytes l.key 0 4)))

/-- Every die that a saved team moves to has a bind record that is free or may be reused (22 R399). -/
def State.recordRoom (s : State) (x : Saved) (m : List (Nat × Nat)) : Bool :=
  x.teams.all fun t => (s.findRec (coreDie (newCore m t.core)) fun d => !bit d 63 || bit d 62).isSome

/-- Binds the saved teams of a context that is to resume, if a placement fits them and its dies have bind records for them. -/
def State.tryResume (s : State) (ctx : Nat) : State :=
  match s.ctx? ctx with
  | none => s
  | some c =>
    match c.resuming, c.saved with
    | some named, some x =>
      if c.reported.isSome then s
      else
        match s.chooseTargets x named x.places [] with
        | none => s
        | some m => if s.recordRoom x m then s.restore ctx x m else s
    | _, _ => s

/-- A placement fits the saved teams of a context that is to resume, and only bind records are wanting (22 R399). -/
def State.waitsRecord (s : State) (c : Context) : Bool :=
  match c.resuming, c.saved with
  | some named, some x => c.reported.isNone && ((s.chooseTargets x named x.places []).map fun m => !s.recordRoom x m).getD false
  | _, _ => false

/-- Tries again every resumption that waits for a placement. -/
def State.sweepResumes (s : State) : List (Nat × Context) → State
  | [] => s
  | (n, _) :: r => (s.tryResume n).sweepResumes r

/-! ### The release of a reported context (R324) -/

/-- The engines of a reported context have drained. -/
def State.drained (s : State) (ctx : Nat) : Bool := s.copiesDrained ctx && s.epiloguesDrained ctx

/-- Drops the staged stores of open regions at their peers (19 R356). -/
def State.discardStaged (s : State) : List (Nat × Group) → State
  | [] => s
  | (k, g) :: r =>
    match g.region with
    | some x => (s.sendCommits k g x.id x.rbeg true (stagedClasses g.buf)).discardStaged r
    | none => s.discardStaged r

/-- The bind records of a context. -/
def recordsOf (m : SMap DWord) (ctx : Nat) : List Nat :=
  (m.filter fun e => e.1 % 8 = 0 && bit e.2.toNat 63 && bits e.2.toNat 0 32 = ctx).map fun e => e.1 / 8

/-- A reported context holds no resources any more. -/
def State.release? (s : State) (ctx : Nat) : State :=
  let s := (s.discardStaged (s.groupsOf ctx)).unload ctx
  let rs := recordsOf s.slots ctx
  let s := { s with slots := s.slots.filter fun e => !rs.contains (e.1 / 8) }
  { s with launches := s.launches.filter (fun x => x.ctx ≠ ctx), grids := s.grids.filter (fun g => g.ctx ≠ ctx),
           colls := s.colls.filter (fun o => o.ctx ≠ ctx), pushes := s.pushes.filter fun p => (s.mat? p.op).isSome }

/-- A context is freed: its record and the entries of ATOM.DET that were never merged are gone (11 R237, 22 R387). -/
def State.freeCtx (s : State) (ctx : Nat) : State :=
  { s with ctxs := smDel s.ctxs ctx, detBufs := s.detBufs.filter (fun b => b.ctx ≠ ctx), detRuns := s.detRuns.filter fun r => r.ctx ≠ ctx }

/-- Tells the members on other devices of a context's collectives that their peer is gone (19 R364, 20 R380). -/
def State.abortColls (s : State) (ctx : Nat) : List Coll → State
  | [] => s
  | o :: r => (if o.ctx = ctx then s.failColl o 0xA6 0xA6 .abort else s).abortColls ctx r

/-- Releases the resources of each reported context whose engines have drained, and forgets those that the host has aborted (22 R387). -/
def State.sweepReported (s : State) : List (Nat × Context) → State
  | [] => s
  | (n, c) :: r =>
    if c.reported.isSome && s.drained n then
      let s := (s.abortColls n s.colls).release? n
      let s := s.mapCtx n fun c => { c with preempted := false, saved := none, resuming := none }
      (if c.freeing then s.freeCtx n else s).sweepReported r
    else s.sweepReported r

end Sys2Proof.Machine
end

