-- ==== Sys2Proof/Machine/Host.lean ====
section
/-! DEFINITION. The host port, boot, patches, attestation, error counting, trips, and the events of the device that no agent issues (16 R321, R331, 22 R386 to R394, 23 R396 to R398). -/

namespace Sys2Proof.Machine

/-! ### Messages (22 R386) -/

/-- A response to a command. -/
def reply (m : HostMsg) (status : Nat) (cause : Byte) (payload : List Byte) : HostOut :=
  { opc := m.opc ||| 0x80, status := BitVec.ofNat 8 status, seq := m.seq, ctx := m.ctx, cause, payload }

/-- The device answers. -/
def State.reply (s : State) (m : HostMsg) (status : Nat) : State := s.send (Machine.reply m status 0 [])
/-- It rejects with a cause. -/
def State.reject (s : State) (m : HostMsg) (cause : Byte) : State := s.send (Machine.reply m 3 cause [])
/-- It answers with a payload. -/
def State.answer (s : State) (m : HostMsg) (payload : List Byte) : State := s.send (Machine.reply m 0 0 payload)

/-- A header that is malformed: a reserved byte, or a LEN that is not the payload's or exceeds 65,536. -/
def badHeader (m : HostMsg) : Bool := m.cause ≠ 0 || m.rsv ≠ 0 || decide (m.len.toNat ≠ m.payload.length) || decide (65536 < m.payload.length)

/-- What a command names. -/
inductive Names where
  | device | context | either
  deriving DecidableEq, Repr

/-- The header names what the command asks for. -/
def Names.ok (n : Names) (ctx : Word) : Bool :=
  match n with
  | .device => ctx = 0
  | .context => ctx ≠ 0
  | .either => true

/-- A command that names the context is under way (R387): it is being freed, or pre-empted. -/
def Context.busy (c : Context) : Bool := c.freeing || c.preempting.isSome

/-- Carries out a command with its OPC. Commands are not seen before boot; commands that name one context are performed one at a time. -/
def State.command (s : State) (m : HostMsg) (opc : Byte) (n : Names) (body : State → State) : State :=
  if !s.booted || m.opc ≠ opc then s
  else if ((s.ctx? m.ctx.toNat).map Context.busy).getD false then s
  else if badHeader m || !n.ok m.ctx then s.reply m 1
  else body s

/-- A command on a context whose record exists; a reported context refuses new work with the cause of its report (16 R324). -/
def State.onContext (s : State) (m : HostMsg) (refuses : Bool) (body : Context → State) : State :=
  match s.ctx? m.ctx.toNat with
  | none => s.reply m 2
  | some c =>
    match c.reported with
    | some cause => if refuses then s.reject m cause else body c
    | none => body c

/-- A little-endian field of a payload. -/
def msgLe (m : HostMsg) (off n : Nat) : Nat := leAt m.payload off n

/-! ### LOAD, MAP, UNMAP (22 R387) -/

/-- The intermediate line addresses that n bytes from `ia` lie in. -/
def iaLines (ia n : Nat) : List Nat := linesOfRange ia n

/-- The line of an intermediate address by its die's table alone. R387 names no answer to a LOAD of memory that is out of service: here STATUS 3 with MEMORY_OFFLINE 0x6A, as an access of a context would meet (log entry 138). -/
def State.plainIa (s : State) (ia : Nat) : Except Byte LineRef :=
  if 2 ^ 52 ≤ ia then .error 0x4F
  else if s.offlineSlices.contains (homeSlice ia) then .error 0x6A
  else
    match s.translate ia with
    | .error f => .error (walkCause f .engineWrite)
    | .ok e => if s.offlineStacks.contains (bits ia 50 2 * 2 + bits (e.phys ia) 7 1) then .error 0x6A else .ok ⟨hbmKey (bits ia 50 2) (e.phys ia), ia / 128⟩

/-- The lines of a list of intermediate addresses. -/
def State.plainLines (s : State) : List Nat → Except Byte (List (Nat × LineRef))
  | [] => .ok []
  | ia :: r =>
    match s.plainIa ia with
    | .error c => .error c
    | .ok l =>
      match s.plainLines r with
      | .error c => .error c
      | .ok ls => .ok ((ia, l) :: ls)

/-- Writes the bytes of LOAD line by line; a partly covered poisoned line is left. -/
def State.loadLines (s : State) (ia : Nat) (bs : List Byte) : List (Nat × LineRef) → State
  | [] => s
  | (a, l) :: r =>
    let start := max a ia
    let stop := min (a + 128) (ia + bs.length)
    let part := slice bs (start - ia) (stop - start)
    let s := if s.isPoisoned l.key then (if stop - start = 128 then s.putLine l.key (part ++ List.replicate 10 0) else s)
      else s.putBytes l.key (start - a) part
    s.loadLines ia bs r

/-- LOAD. -/
def execLoad (msg : HostMsg) (s : State) : Host.Outcome State Fault Refusal :=
  .next (s.command msg 0x01 .device fun s =>
    if msg.payload.length < 8 then s.reply msg 1
    else
      let ia := msgLe msg 0 8
      let bs := msg.payload.drop 8
      match s.plainLines (iaLines ia bs.length) with
      | .error cause => s.reject msg cause
      | .ok ls =>
        if ls.any fun x => s.isOwned x.2 then s
        else
          let partly := ls.any fun x => s.isPoisoned x.2.key && (decide (x.1 < ia) || decide (ia + bs.length < x.1 + 128))
          let s := s.loadLines ia bs ls
          if partly then s.reject msg 0x63 else s.reply msg 0)

/-- The entries of a MAP: intermediate address, level, word. -/
def mapEntries (m : HostMsg) : List (Nat × Nat × Nat) :=
  let n := m.payload.length / 24
  (List.range n).map fun i => (msgLe m (16 * i) 8, msgLe m (16 * i + 8) 1, msgLe m (16 * n + 8 * i) 8)

/-- LEN is that of whole entries, and their zero bytes are zero. -/
def mapShape (m : HostMsg) : Bool :=
  m.payload.length % 24 = 0 && (List.range (m.payload.length / 24)).all fun i => msgLe m (16 * i + 9) 7 = 0

/-- MAP. -/
def execMap (msg : HostMsg) (s : State) : Host.Outcome State Fault Refusal :=
  .next (if msg.flags.getLsbD 0 then s
  else s.command msg 0x02 .device fun s =>
    if !mapShape msg then s.reply msg 1
    else
      match (mapEntries msg).findSome? fun e => mapCheck e.2.1 e.2.2 with
      | some cause => s.reject msg cause
      | none =>
        match s.mapAll (mapEntries msg) with
        | .error cause => s.reject msg cause
        | .ok t => State.reply { t with tlb := [] } msg 0)

/-- A pool frame's checks: its die alone in the address, level 0, a multiple of 4 KiB beyond the reserved memory. -/
def poolCheck (e : Nat × Nat × Nat) : Bool :=
  e.1 % 2 ^ 50 = 0 && decide (e.1 < 2 ^ 52) && e.2.1 = 0 && e.2.2 % 4096 = 0 && decide (e.2.2 < 2 ^ 37) && decide (2 ^ 22 ≤ e.2.2)

/-- MAP with FLAGS bit 0: frames join the pools of their dies. -/
def execMapPoolFrames (msg : HostMsg) (s : State) : Host.Outcome State Fault Refusal :=
  .next (if !msg.flags.getLsbD 0 then s
  else s.command msg 0x02 .device fun s =>
    if !mapShape msg then s.reply msg 1
    else if (mapEntries msg).any fun e => !poolCheck e then s.reject msg 0x07
    else State.reply { s with pool := s.pool ++ (mapEntries msg).map fun e => (bits e.1 50 2, e.2.2) } msg 0)

/-- UNMAP. -/
def execUnmap (msg : HostMsg) (s : State) : Host.Outcome State Fault Refusal :=
  .next (s.command msg 0x03 .device fun s =>
    if msg.payload.length ≠ 16 || msgLe msg 9 7 ≠ 0 then s.reply msg 1
    else
      let ia := msgLe msg 0 8 % 2 ^ 52
      let lev := msgLe msg 8 1
      let die := bits ia 50 2
      if 4 ≤ lev then s.reject msg 0x07
      else
        match s.unmapFrom die ia lev 0 (s.rootTable die) with
        | .error cause => s.reject msg cause
        | .ok t => State.reply { t with tlb := [] } msg 0)

/-! ### CTX, LAUNCH, PREEMPT, RESUME, ABORT (22 R387, R388) -/

/-- A reserved byte of a context record is not zero. -/
def ctxReserved (b : List Byte) : Bool := leAt b 60 4 ≠ 0 || (slice b 824 200).any fun x => x ≠ 0

/-- A field of a context record is out of range. -/
def ctxRange (b : List Byte) : Bool :=
  decide (1 < leAt b 4 1) || decide (15 < leAt b 5 1) || leAt b 24 8 % 64 ≠ 0 || leAt b 32 8 % 128 ≠ 0
  || leAt b 40 4 % 128 ≠ 0 || decide (2 ^ 24 < leAt b 40 4) || decide (18432 < leAt b 44 4) || leAt b 48 8 % 128 ≠ 0
  || leAt b 56 4 % 384 ≠ 0 || leAt b 808 8 % 4096 ≠ 0 || decide (2 ^ 52 ≤ leAt b 808 8)

/-- A context has a team on a core. -/
def State.resident (s : State) (ctx : Nat) : Bool := s.teams.any fun t => t.ctx = ctx

/-- CTX. -/
def execCtx (msg : HostMsg) (s : State) : Host.Outcome State Fault Refusal :=
  .next (s.command msg 0x04 .context fun s =>
    let ctx := msg.ctx.toNat
    if msg.payload.length ≠ 1024 || ctxReserved msg.payload then s.reply msg 1
    else
      match (s.ctx? ctx).bind Context.reported with
      | some cause => s.reject msg cause
      | none =>
        if s.resident ctx then s.reply msg 4
        else if msgLe msg 0 4 ≠ ctx || ctxRange msg.payload then s.reject msg 0x07
        else
          let record := (msg.payload.zipIdx.filter fun x => x.1 ≠ 0).map fun x => (x.2, x.1)
          let c := { (s.ctx? ctx).getD Context.blank with record }
          State.reply { s with ctxs := smIns s.ctxs ctx c } msg 0)

/-- LAUNCH. -/
def execLaunchCommand (msg : HostMsg) (s : State) : Host.Outcome State Fault Refusal :=
  .next (s.command msg 0x05 .context fun s =>
    s.onContext msg true fun c =>
      let ia := msgLe msg 0 8
      if msg.payload.length ≠ 8 then s.reply msg 1
      else if ia % 128 ≠ 0 then s.reject msg 0x40
      else
        match (if 2 ^ 52 ≤ ia then .error ⟨2, kindCause 0x44 .engineRead, none⟩ else s.resolveIa c ia .engineRead) with
        | .error (f : AccFault) => s.reject msg f.cause
        | .ok l =>
          if s.isPoisoned l.key then s.reject msg (if keyIsPrism l.key then 0xAE else kindCause 0x60 .engineRead)
          else if s.isOwned l then s
          else
            let r : LaunchRec := dwords (s.bytes l.key 0 128) 16
            match s.acceptRecord c none r false with
            | .hold _ => s
            | .trap t => s.reject msg t.cause
            | .ok args s =>
              let (grid, s) := s.queueLaunch msg.ctx.toNat r ia args (.host msg.seq)
              s.answer msg (natLe grid 4))

/-- PREEMPT: answered once the save area is written. -/
def execPreempt (msg : HostMsg) (s : State) : Host.Outcome State Fault Refusal :=
  .next (s.command msg 0x06 .context fun s =>
    s.onContext msg true fun c =>
      if msg.payload ≠ [] then s.reply msg 1
      else if c.preempting.isSome then s
      else if c.preempted then s.reply msg 0
      else s.mapCtx msg.ctx.toNat fun c => { c with preempting := some msg.seq })

/-- Every byte of a RESUME is a cluster or 0xFF. -/
def resumeBytesOk (bs : List Byte) : Bool := bs.all fun b => decide (b.toNat < 24) || b = 0xFF

/-- No two saved clusters have one target; a RESUME without bytes names none. -/
def resumeOk (x : Saved) (bs : List Byte) : Bool :=
  bs.isEmpty ||
  let want := (x.places.map fun c => (byteAt bs c).toNat).filter fun t => t ≠ 255
  decide (want.eraseDups.length = want.length)

/-- RESUME. R387 does not say what a second RESUME does while an earlier one waits for a placement: here it gets STATUS 0 and its bytes are not used (log entry 139). -/
def execResume (msg : HostMsg) (s : State) : Host.Outcome State Fault Refusal :=
  .next (s.command msg 0x07 .context fun s =>
    s.onContext msg true fun c =>
      let ctx := msg.ctx.toNat
      if msg.payload.length ≠ 0 && msg.payload.length ≠ 24 then s.reply msg 1
      else if !resumeBytesOk msg.payload then s.reject msg 0x07
      else if c.preempting.isSome then s
      else
        match c.preempted, c.saved with
        | true, some x =>
          if !resumeOk x msg.payload then s.reject msg 0x07
          else if c.resuming.isSome then s.reply msg 0
          else if s.savedVersion c ≠ some Config.firmwareVersion then (s.reportOnly ctx 0xB6).reject msg 0xB6
          else
            let named := if msg.payload = [] then [] else msg.payload.map BitVec.toNat
            ((s.mapCtx ctx fun c => { c with resuming := some named }).tryResume ctx).reply msg 0
        | _, _ => s.reply msg 0)

/-- Reports every context of a list. -/
def State.reportAll (s : State) (cause : Byte) : List Nat → State
  | [] => s
  | c :: r => (s.reportOnly c cause).reportAll cause r

/-- The reports with POWER that a power trip still owes go out, for the contexts that meet a condition (R398; log entry 118). -/
def State.powerReport (s : State) (p : Nat → Bool) : State :=
  match s.tripped with
  | some ⟨t, false, due⟩ => { s.reportAll 0xBC (due.filter p) with tripped := some ⟨t, false, due.filter fun c => !p c⟩ }
  | _ => s

/-- ABORT. A report that a power trip still owes the context goes out first. -/
def execAbort (msg : HostMsg) (s : State) : Host.Outcome State Fault Refusal :=
  .next (s.command msg 0x08 .context fun s =>
    s.onContext msg false fun _ =>
      if msg.payload ≠ [] then s.reply msg 1
      else
        let ctx := msg.ctx.toNat
        (((s.powerReport fun n => n = ctx).reportOnly ctx 0xBE).mapCtx ctx fun c => { c with freeing := true }).reply msg 0)

/-! ### QUERY and the counters (22 R392, R393) -/

/-- Counters in a die's block. -/
def dieCounters : Nat := 13

/-- Counter bytes of the device, die by die in the order of R393. -/
def State.counterBytes (s : State) : List Byte :=
  (List.range 4).flatMap fun d => (List.range dieCounters).flatMap fun c => natLe (smGet 0 s.counters (d * 16 + c)).toNat 4

/-- The ports that are up, one bit each. -/
def State.portsUp (s : State) : Nat := ((List.range 16).filter s.isUp).foldl (fun m n => m + 2 ^ n) 0

/-- The composition of R11, R14 and R15 (01), in the order of their tables: device, dies, clusters, pairs, cores; of one core its group slots, glint slots, registers, predicates, SRAM lines, SRAM banks, tiles, cells of the array, copy units and lanes of FMA; home slices, stacks, translation entries of a die, UALink ports, host port. -/
def compositionCounts : List Nat :=
  [1, 4, 24, 288, 576, 32, 8, 128, 128, 24, 4096, 128, 64, 1024, 1, 128, 128, 8, 1024, 8192, 16, 1]

/-- The payloads of the Quoty chain by ID (R392), each a list of 32-bit numbers: the composition; the Molgor version and the highest VER; the ports present and up; the offset and length of the counter block; the firmware's and the running patch's VERSION. Their order and widths are the model's (log entry 11). -/
def State.quotyPayloads (s : State) (off : Nat) : List (Nat × List Nat) :=
  [(1, compositionCounts), (2, [Config.molgorVersion.toNat, 1]), (3, [2 ^ 16 - 1, s.portsUp]), (4, [off, 16 * dieCounters]),
   (5, [Config.firmwareVersion.toNat, (s.patchRunning.map fun b => b.version.toNat).getD 0])]

/-- Records one after another from an offset: the 12-byte head, and the payload. -/
def quotyRecords : Nat → List (Nat × List Nat) → List Byte
  | _, [] => []
  | off, (id, ws) :: r =>
    let stop := off + 12 + 4 * ws.length
    natLe id 2 ++ natLe (Config.quotyVer id).toNat 2 ++ natLe (4 * ws.length) 4 ++ natLe (if r.isEmpty then 0 else stop) 4
      ++ ws.flatMap (fun w => natLe w 4) ++ quotyRecords stop r

/-- Bytes of the Quoty chain: five heads and 28 numbers. -/
def quotyLength : Nat := 5 * 12 + 4 * 28

/-- The query space: the Quoty chain, then the counters. -/
def State.querySpace (s : State) : List Byte := quotyRecords 0 (s.quotyPayloads quotyLength) ++ s.counterBytes

/-- Zeroes the counters of which a byte has been read: `n` bytes from `off` of the counter block. -/
def State.clearCounters (s : State) (off n : Nat) : State :=
  { s with counters := (List.range (4 * dieCounters)).foldl (fun m i =>
      if decide (0 < n) && decide (off < 4 * i + 4) && decide (4 * i < off + n) then smDel m (i / dieCounters * 16 + i % dieCounters) else m) s.counters }

/-- QUERY. Bytes beyond the query space are free values. -/
def execQuery (msg : HostMsg) (s : State) : Host.Outcome State Fault Refusal :=
  .next (s.command msg 0x09 .device fun s =>
    let off := msgLe msg 0 4
    let n := msgLe msg 4 4
    if msg.payload.length ≠ 8 || decide (65536 < n) then s.reply msg 1
    else
      let space := s.querySpace
      let base := space.length - 16 * dieCounters
      let (t, s) := s.takeTick
      let bytes := (List.range n).map fun i => space.getD (off + i) (Config.freeByte t i)
      let s := if msg.flags.getLsbD 0 then s.clearCounters (off - base) (n - (base - off)) else s
      s.answer msg bytes)

/-! ### ATTEST (22 R391) -/

/-- The 240 bytes of the report. -/
def State.attestBody (s : State) (m : HostMsg) : List Byte :=
  let running := match s.patchRunning with
    | some b => slice (Config.sha384 b.bytes) 0 48 ++ natLe b.version.toNat 4
    | none => List.replicate 52 0
  let context := match s.ctx? m.ctx.toNat with
    | some c => if m.ctx = 0 then List.replicate 48 0 else slice (Config.sha384 (memGets c.record 0 1024)) 0 48
    | none => List.replicate 48 0
  slice m.payload 0 32 ++ slice Config.identity 0 32 ++ slice Config.romHash 0 48 ++ running ++ natLe s.oneWay.toNat 4 ++ context
    ++ natLe ((s.patchStore.map fun b => b.version.toNat).getD 0) 4 ++ List.replicate 20 0

/-- ATTEST. Sixteen requests within one second make the device refuse for one second. -/
def execAttest (msg : HostMsg) (s : State) : Host.Outcome State Fault Refusal :=
  .next (s.command msg 0x0A .either fun s =>
    if msg.payload.length ≠ 32 then s.reply msg 1
    else if msg.ctx ≠ 0 && (s.ctx? msg.ctx.toNat).isNone then s.reply msg 2
    else if s.attestRefused.isSome then State.reject { s with lantern := s.lantern ++ [⟨0xBA, 0⟩] } msg 0xBA
    else
      let recent := s.attests.filter (fun t => decide (s.nanos < t + 1000000000)) ++ [s.nanos]
      let body := s.attestBody msg
      let s := { s with attests := recent, attestRefused := if 16 ≤ recent.length then some s.nanos else none }
      s.answer msg (body ++ slice (Config.ed25519Sign body) 0 64 ++ slice (Config.mldsaSign body) 0 3309))

/-- ATTEST_REFUSAL_END. -/
def execAttestRefusalEnd (s : State) : Host.Outcome State Fault Refusal :=
  match s.attestRefused with
  | some t => .next (if t + 1000000000 ≤ s.nanos then { s with attestRefused := none, attests := [] } else s)
  | none => .next s

/-! ### DEBUG (22 R387, 17 R336) -/

/-- A DEBUG command with a sub: STATUS 1 for a sub that does not exist. -/
def State.debug (s : State) (m : HostMsg) (sub : Nat) (n : Names) (body : Nat → State → State) : State :=
  let here := msgLe m 0 1
  if m.payload.length ≠ 5 || 4 ≤ here then s.command m 0x0B .either fun s => s.reply m 1
  else if here ≠ sub then s
  else s.command m 0x0B n fun s => body (msgLe m 1 4) s

/-- Sub 0 retrains a port. -/
def execDebugPortRetrain (msg : HostMsg) (s : State) : Host.Outcome State Fault Refusal :=
  .next (s.debug msg 0 .device fun arg s => if 16 ≤ arg then s.reject msg 0x07 else (s.retrain arg).reply msg 0)

/-- Raises DEBUG_INJECT in groups. -/
def State.injectAll (s : State) : List (Nat × Group) → State
  | [] => s
  | (k, _) :: r => (s.raiseImprecise k { cause := 0x14, faddr := 0, origin := 0, detail := 0, committed := false }).injectAll r

/-- Sub 1 raises DEBUG_INJECT in every bound group of the context. -/
def execDebugInject (msg : HostMsg) (s : State) : Host.Outcome State Fault Refusal :=
  .next (s.debug msg 1 .context fun _ s =>
    s.onContext msg false fun _ =>
      let gs := s.groupsOf msg.ctx.toNat
      (s.injectAll gs).answer msg (natLe gs.length 4))

/-- Subs 2 and 3 turn single stepping on and off. -/
def State.setStepping (s : State) (m : HostMsg) (on : Bool) (arg : Nat) : State :=
  if arg ≠ 0 then s.reply m 1
  else s.onContext m false fun _ => (s.mapCtx m.ctx.toNat fun c => { c with stepping := on }).reply m 0

/-- DEBUG sub 2. -/
def execDebugStepOn (msg : HostMsg) (s : State) : Host.Outcome State Fault Refusal :=
  .next (s.debug msg 2 .context fun arg s => s.setStepping msg true arg)

/-- DEBUG sub 3. -/
def execDebugStepOff (msg : HostMsg) (s : State) : Host.Outcome State Fault Refusal :=
  .next (s.debug msg 3 .context fun arg s => s.setStepping msg false arg)

/-! ### Patches and boot (22 R390) -/

/-- A blob of the right shape whose signatures both verify. -/
def blobOk (b : List Byte) : Bool :=
  let n := leAt b 8 4
  decide (b.length = 64 + n + 64 + 3309) && leAt b 0 4 = 0x4F525054 && (slice b 12 52).all (fun x => x = 0)
  && Config.ed25519Verifies (b.take (64 + n)) (slice b (64 + n) 64) && Config.mldsaVerifies (b.take (64 + n)) (slice b (128 + n) 3309)

/-- PATCH. -/
def execPatch (msg : HostMsg) (s : State) : Host.Outcome State Fault Refusal :=
  .next (s.command msg 0x0C .device fun s =>
    let b := msg.payload
    let v : Word := BitVec.ofNat 32 (leAt b 4 4)
    if blobOk b && decide (s.oneWay.toNat < v.toNat) && decide (((s.patchStore.map fun x => x.version.toNat).getD 0) ≤ v.toNat) then
      State.reply { s with patchStore := some ⟨v, b⟩ } msg 0
    else (State.countUp { s with lantern := s.lantern ++ [⟨0xB9, v.toNat⟩] } 0 10).reply msg 5)

/-- The contexts that have a team on a core. -/
def State.residentCtxs (s : State) : List Nat := (s.teams.map Team.ctx).eraseDups

/-- Bind records at reset (07 R145): V and BOUND are cleared, and so are reserved bits; a field without a reset value keeps what it held. -/
def slotsAtReset (m : SMap DWord) : SMap DWord :=
  m.filterMap fun e =>
    let w : DWord := match e.1 % 8 with
      | 0 => e.2 &&& 0x3FFFFFFFFFFFFFFF
      | 1 | 2 => e.2
      | 3 => e.2 &&& 0x000FFFFFFFFFFFFF
      | 4 => e.2 &&& 0x0000000007FFFFFF
      | _ => 0
    if w = 0 then none else some (e.1, w)

/-- Memory that a reset of this device leaves: lines of Prism slices, which stand outside it (01 R17, 19 R351). -/
def outsideDevice (m : Memory) : Memory := m.filter fun e => decide (2 ^ 34 * 256 ≤ e.1)

/-- DEVICE_RESET (R390): resident contexts are reported, a stored patch that still verifies and is newer runs, and the boot sequence leaves the device's memory zero and the page tables empty. -/
def execDeviceReset (s : State) : Host.Outcome State Fault Refusal :=
  let s := (s.powerReport fun _ => true).reportAll 0xBD s.residentCtxs
  let newer := match s.patchStore with
    | some b => if blobOk b.bytes && decide (s.oneWay.toNat < b.version.toNat) then some b else none
    | none => none
  .next { State.reset with
    agenda := s.agenda, tick := s.tick, fresh := s.fresh, outbox := s.outbox, lantern := s.lantern,
    patchRunning := newer.orElse fun _ => s.patchRunning
    oneWay := (newer.map PatchBlob.version).getD s.oneWay
    ptroot := [0, 1, 2, 3].map fun d => (d, 0x8000000000000000)
    slots := slotsAtReset s.slots, mem := outsideDevice s.mem, poison := s.poison.filter keyIsPrism
    prismFull := s.prismFull, prismUnreachable := s.prismUnreachable
    booted := true }

/-! ### DEVNO and ALWSET (22 R387, 19 R359) -/

/-- DEVNO. -/
def execDevno (msg : HostMsg) (s : State) : Host.Outcome State Fault Refusal :=
  .next (s.command msg 0x0D .device fun s =>
    if msg.payload.length ≠ 4 then s.reply msg 1
    else if 1023 < msgLe msg 0 4 then s.reject msg 0x07
    else if s.teams != [] || s.ctxs.any fun c => (c.2.saved.map fun x => x.teams != []).getD false then s.reply msg 4
    else State.reply { s with devno := BitVec.ofNat 10 (msgLe msg 0 4) } msg 0)

/-- An operation of a class is outstanding on a core. -/
def State.outstanding (s : State) (core cls : Nat) : Bool :=
  (s.passes.any fun p => p.core = core && p.cls = cls && p.failed.isNone) || (s.pushes.any fun p => p.core = core && p.cls = cls)
  || s.colls.any fun o => o.sent.any fun x => x.core = core && x.cls = cls

/-- An allowance register after a write of CAP and LOW. -/
def Allowance.rewritten (a : Allowance) (cap low : Nat) (outstanding : Bool) : Allowance :=
  { cap := BitVec.ofNat 16 cap, low := BitVec.ofNat 16 low,
    value := if !outstanding then BitVec.ofNat 16 cap
      else if a.cap.toNat < cap then BitVec.ofNat 16 (a.value.toNat + (cap - a.cap.toNat)) else a.value }

/-- CAP and LOW lie in their ranges. -/
def allowanceOk (cap low : Nat) : Bool := decide (32 ≤ cap) && decide (cap ≤ 65535) && decide (low ≤ cap)

/-- ALWSET. -/
def execAlwset (msg : HostMsg) (s : State) : Host.Outcome State Fault Refusal :=
  .next (s.command msg 0x0E .device fun s =>
    let mask := msgLe msg 0 8
    let cap := msgLe msg 8 2
    let low := msgLe msg 10 2
    if msg.payload.length ≠ 16 || msgLe msg 12 4 ≠ 0 then s.reply msg 1
    else if !allowanceOk cap low then s.reject msg 0x07
    else
      let allow := (List.range 576).flatMap fun core => (List.range 64).filterMap fun cls =>
        let a := s.allowance core cls
        let b := if bit mask cls then a.rewritten cap low (s.outstanding core cls) else a
        if b = Allowance.initial then none else some (core * 64 + cls, b)
      State.reply { s with allow } msg 0)

/-- UNKNOWN_OPC: a message with an OPC that no command has, or a bad header, gets STATUS 1. -/
def execUnknownOpc (msg : HostMsg) (s : State) : Host.Outcome State Fault Refusal :=
  .next (if !s.booted then s else if msg.opc = 0 || decide (0x0E < msg.opc.toNat) || badHeader msg then s.reply msg 1 else s)

/-! ### Registers that the firmware writes (00 R5, 07 R145, 09 R185, 19 R359) -/

/-- What a write leaves in a doubleword of a bind record (00 R5, R6, 07 R145): reserved bits stay zero, and NEXT is not written; BOUND is cleared when V is written 1. -/
def slotWrite (n : Nat) (old new : DWord) : DWord :=
  match n with
  | 0 => (new &&& 0xBFFFFFFFFFFFFFFF) ||| (if new.getLsbD 63 then 0 else old &&& 0x4000000000000000)
  | 1 => new
  | 2 => (old &&& 0xFFFFFFFF00000000) ||| (new &&& 0x00000000FFFFFFFF)
  | 3 => new &&& 0x000FFFFFFFFFFFFF
  | 4 => new &&& 0x0000000007FFFFFF
  | _ => 0

/-- The firmware writes a doubleword of a bind record; V written 1 sets NEXT to FIRST (07 R145). -/
def State.writeSlot (s : State) (die rec n : Nat) (value : DWord) : State :=
  let k := (die * 128 + rec) * 8
  let get (i : Nat) : DWord := smGet 0 s.slots (k + i)
  let m := smPut 0 s.slots (k + n) (slotWrite n (get n) value)
  { s with slots := if n = 0 && value.getLsbD 63 then smPut 0 m (k + 2) ((get 1 &&& 0xFFFFFFFF00000000) ||| (get 2 &&& 0x00000000FFFFFFFF)) else m }

/-- REGISTER_WRITE. Reserved bits read zero; VALUE of an allowance is not written. -/
def execRegisterWrite (reg : SysReg) (value : DWord) (s : State) : Host.Outcome State Fault Refusal :=
  match reg with
  | .bindRecord die i n =>
    if die < 4 && i < 128 && n < 8 then .next (s.writeSlot die i n value) else .next s
  | .ptroot die =>
    if die < 4 then .next { s with ptroot := smPut 0 s.ptroot die (value &&& 0x8000001FFFFFC000) } else .next s
  | .allowance core cls =>
    let cap := bits value.toNat 32 16
    let low := bits value.toNat 16 16
    if core < 576 && cls < 64 && allowanceOk cap low then
      .next (s.setAllowance core cls ((s.allowance core cls).rewritten cap low (s.outstanding core cls)))
    else .next s

/-! ### Errors of memory (03 R44, 22 R393) -/

/-- The die of a line of HBM4E. -/
def hbmDie (line : Nat) : Nat := line / 2 ^ 30

/-- The pages that a die's tables map: intermediate address, level, physical address. -/
def State.pagesOf (s : State) (die : Nat) : List Nat → Nat → Nat → List (Nat × Nat × Nat)
  | [], _, _ => []
  | lev :: r, t, ia =>
    (List.range (2 ^ (levelBits lev).2)).flatMap fun i =>
      let x := s.pte die t i
      let a := ia + i * 2 ^ (levelBits lev).1
      if !bit x 63 then [] else if bit x 62 then [(a, lev, pteAddr x)] else s.pagesOf die r (pteAddr x) a

/-- The intermediate addresses that map to a line of HBM4E. -/
def State.iasOf (s : State) (line : Nat) : List Nat :=
  let die := hbmDie line
  let pa := line % 2 ^ 30 * 128
  (s.pagesOf die [0, 1, 2, 3] (s.rootTable die) (die * 2 ^ 50)).filterMap fun p =>
    if p.2.2 ≤ pa && pa < p.2.2 + pageSize p.2.1 then some (p.1 + (pa - p.2.2)) else none

/-- An intermediate address lies in the range of a window of a context. -/
def Context.reaches (c : Context) (ia : Nat) : Bool :=
  (List.range 8).any fun n =>
    let w0 := c.win n 0
    let w1 := c.win n 1
    let sz := bits w1 58 6
    bit w0 63 && decide (16 ≤ sz) && decide (sz ≤ 52) && decide (ia / 2 ^ sz = bits w1 16 36 * 2 ^ 16 / 2 ^ sz)

/-- Poisons a line. -/
def State.poisonLine (s : State) (line : Nat) : State := if s.isPoisoned line then s else { s with poison := s.poison ++ [line] }

/-- Reports DATA_ERROR 0x3F to the resident contexts whose windows reach a line. -/
def State.scrubReports (s : State) (ias : List Nat) : List Nat → State
  | [] => s
  | n :: r =>
    match ias.find? fun ia => ((s.ctx? n).map fun c => c.reaches ia).getD false with
    | some ia => (s.report n (Frame.at 0x3F ia) 0xFFFFFFFF 0xFFFFFFFF 0xFFFFFFFF).scrubReports ias r
    | none => s.scrubReports ias r

/-- PATROL_SCRUB (R393): a line is corrected, or poisoned; a poisoned line that a resident context reaches reports it. -/
def execPatrolScrub (line : Nat) (found : ScrubResult) (s : State) : Host.Outcome State Fault Refusal :=
  if 2 ^ 32 ≤ line then .next s
  else
    match found with
    | .clean => .next s
    | .corrected => .next (s.countUp (hbmDie line) 0)
    | .uncorrectable => .next (((s.poisonLine line).countUp (hbmDie line) 1).scrubReports (s.iasOf line) s.residentCtxs)

/-- A check code meets an uncorrectable error when a line is read: HBM4E, a scratchpad, or the copy in an L1 or L2 of a die, which poisons the line as well (03 R44, 09 R196, 22 R393; log entry 117). -/
def State.uncorrectable (s : State) (line : Nat) (cache : Option Nat) : State :=
  if keyIsSram line then
    let n := line - 2 ^ 33
    (s.setLineSt (n / 4096) (n % 4096) { s.lineSt (n / 4096) (n % 4096) with present := false, poisoned := true }).countUp (coreDie (n / 4096)) 3
  else
    match cache with
    | some die => if die < 4 then (s.poisonLine line).countUp die 3 else s
    | none => if keyIsPrism line then s.poisonLine line else (s.poisonLine line).countUp (hbmDie line) 1

/-- A check code corrects an error. -/
def State.corrected (s : State) (line : Nat) (cache : Option Nat) : State :=
  if keyIsSram line then s.countUp (coreDie ((line - 2 ^ 33) / 4096)) 2
  else
    match cache with
    | some die => if die < 4 then s.countUp die 2 else s
    | none => if keyIsPrism line then s else s.countUp (hbmDie line) 0

/-- An error in an agent's state (16 R321, R331). At use, inside a region whose shadow set is clean, an error of a register, a flag or a sidecar aborts the region and replays; every other reports the grid, precisely at use and imprecisely by scrub. Glint state by scrub has no code. -/
def State.registerError (s : State) (ag : AgentRef) (what : BitVec 3) (shadowClean scrub : Bool) : State :=
  let k := agentKey ag
  match s.group? k with
  | none => s
  | some g =>
    if scrub && what = 7 then s
    else if g.splits.any Split.midLanes then s
    else if !scrub && g.glint.isNone && g.region.isSome && shadowClean && what.toNat < 3 then
      if s.atomicsOut k then s else (s.abortRegion k (some .noCause)).countUp (coreDie (keyCore k)) 4
    else
      let slot := (s.readySlot k g).getD (g.nextSlot.getD 0)
      let (fpc, lanes) := match g.split? slot with
        | some p => (p.pc.toNat, p.exec.toNat)
        | none => (0, 0)
      let rpc := match g.region with
        | some r => r.rbeg.toNat
        | none => 0
      let f : Frame :=
        { cause := BitVec.ofNat 8 (0x30 + 2 * what.toNat + b2n scrub), attr := b2n (!scrub) + 2 * b2n g.region.isSome + 8 * b2n g.handler.isSome,
          split := if scrub then 0xFF else slot, seq := g.nextSeq, fpc, faddr := 0, lanes := if scrub then 0 else lanes, resume := fpc, rpc,
          origin := 0, detail := 0 }
      (s.countUp (coreDie (keyCore k)) 4).reportGroup k g f

/-- A port reports a limit, a burst or that it is disabled (16 R331): the Lantern core counts it; a port that is disabled goes down, and what it carries fails with the link cause (19 R348). -/
def State.linkEvent (s : State) (port what : Nat) : State :=
  if 16 ≤ port || what = 0 || 4 ≤ what then s
  else
    let s : State := { s with lantern := s.lantern ++ [⟨BitVec.ofNat 8 (0xA8 + what), port⟩] }
    if what = 3 then s.portDown port else s

/-! ### Trips and clocks (23 R396 to R398) -/

/-- Both trips fall in one sampling period of 1 ms. -/
def State.sameTrip (s : State) (t : Nat) : Bool := decide (t / 1000000 = s.nanos / 1000000)

/-- THERMAL_TRIP (R398): every resident context is reported with THERMAL, also when a power trip of the same period came first. -/
def execThermalTrip (die : Nat) (s : State) : Host.Outcome State Fault Refusal :=
  if 4 ≤ die then .next s
  else
    match s.tripped with
    | some x =>
      .next (if !s.sameTrip x.since then s
        else if x.thermal then s.countUp 0 11
        else { (s.countUp 0 11).reportAll 0xBB (x.due ++ s.residentCtxs) with tripped := some ⟨x.since, true, []⟩ })
    | none => .next { (s.countUp 0 11).reportAll 0xBB s.residentCtxs with stopped := true, tripped := some ⟨s.nanos, true, []⟩ }

/-- POWER_TRIP (R398), once ACLK has stood at 1.2 GHz for more than 10 ms: the device stops. The contexts that are resident then are reported when the sampling period ends without a thermal trip. -/
def execPowerTrip (s : State) : Host.Outcome State Fault Refusal :=
  if s.aclkMHz ≠ 1200 || decide (s.nanos ≤ s.aclkSince + 10000000) then .next s
  else
    match s.tripped with
    | some x => .next (if x.thermal && s.sameTrip x.since then s.countUp 0 12 else s)
    | none => .next { s.countUp 0 12 with stopped := true, tripped := some ⟨s.nanos, false, s.residentCtxs⟩ }

/-- The sampling period of a power trip has ended: its reports go out (R398; log entry 118). -/
def State.sweepTrip (s : State) : State :=
  match s.tripped with
  | some x => if s.sameTrip x.since then s else s.powerReport fun _ => true
  | none => s

/-- ACLK_STEP_DOWN. -/
def execAclkStepDown (s : State) : Host.Outcome State Fault Refusal :=
  .next (if 1300 ≤ s.aclkMHz then { s with aclkMHz := s.aclkMHz - 100, aclkSince := s.nanos } else s)

/-- ACLK_STEP_UP. -/
def execAclkStepUp (s : State) : Host.Outcome State Fault Refusal :=
  .next (if s.aclkMHz + 100 ≤ 2400 then { s with aclkMHz := s.aclkMHz + 100, aclkSince := s.nanos } else s)

/-! ### Reports of the firmware (16 R331) -/

/-- WATCHDOG_EXPIRY. -/
def execWatchdogExpiry (ctx : Nat) (s : State) : Host.Outcome State Fault Refusal := .next (s.reportOnly ctx 0xB7)

/-- LANTERN_FIRMWARE_FAULT. -/
def execLanternFirmwareFault (ctx : Nat) (s : State) : Host.Outcome State Fault Refusal := .next (s.reportOnly ctx 0xB8)

/-- MACHINE_CHECK. -/
def execMachineCheck (ctxs : List Nat) (s : State) : Host.Outcome State Fault Refusal := .next (s.reportAll 0xBF ctxs)

/-- MEMORY_OFFLINE: a slice or a stack leaves service. -/
def execMemoryOffline (unit : MemUnit) (s : State) : Host.Outcome State Fault Refusal :=
  match unit with
  | .slice n => .next (if n < 128 && !s.offlineSlices.contains n then { s with offlineSlices := s.offlineSlices ++ [n] } else s)
  | .stack die n =>
    .next (if die < 4 && n < 2 && !s.offlineStacks.contains (die * 2 + n) then { s with offlineStacks := s.offlineStacks ++ [die * 2 + n] } else s)

end Sys2Proof.Machine
end

