-- ==== Sys2Proof/Machine/Dispatch.lean ====
section
/-! DEFINITION. exec: the meaning of each row of the opcode table. -/

namespace Sys2Proof.Machine

/-- The meaning of an instruction, or of an event, in a state. -/
def exec (i : Instr) (s : State) : Host.Outcome State Fault Refusal :=
  match i with
  | .iadd d a b t => Sys2Proof.Machine.execIadd d a b t s
  | .isub d a b t => Sys2Proof.Machine.execIsub d a b t s
  | .imul d a b t => Sys2Proof.Machine.execImul d a b t s
  | .imulh d a b t => Sys2Proof.Machine.execImulh d a b t s
  | .imad d a b t => Sys2Proof.Machine.execImad d a b t s
  | .imin d a b t => Sys2Proof.Machine.execImin d a b t s
  | .imax d a b t => Sys2Proof.Machine.execImax d a b t s
  | .icmp d a b r t => Sys2Proof.Machine.execIcmp d a b r t s
  | .and d a b => Sys2Proof.Machine.execAnd d a b s
  | .or d a b => Sys2Proof.Machine.execOr d a b s
  | .xor d a b => Sys2Proof.Machine.execXor d a b s
  | .andn d a b => Sys2Proof.Machine.execAndn d a b s
  | .shl d a b => Sys2Proof.Machine.execShl d a b s
  | .shr d a b => Sys2Proof.Machine.execShr d a b s
  | .sar d a b => Sys2Proof.Machine.execSar d a b s
  | .rol d a b => Sys2Proof.Machine.execRol d a b s
  | .movB32 d a => Sys2Proof.Machine.execMovB32 d a s
  | .movB64 d a => Sys2Proof.Machine.execMovB64 d a s
  | .not d a => Sys2Proof.Machine.execNot d a s
  | .popc d a => Sys2Proof.Machine.execPopc d a s
  | .clz d a => Sys2Proof.Machine.execClz d a s
  | .brev d a => Sys2Proof.Machine.execBrev d a s
  | .iabs d a t => Sys2Proof.Machine.execIabs d a t s
  | .ineg d a t => Sys2Proof.Machine.execIneg d a t s
  | .vectorMovs d n => Sys2Proof.Machine.execVectorMovs d n s
  | .isel d a k g => Sys2Proof.Machine.execIsel d a k g s
  | .fsel d a k g => Sys2Proof.Machine.execFsel d a k g s
  | .bfx d a b t => Sys2Proof.Machine.execBfx d a b t s
  | .bfi d a b => Sys2Proof.Machine.execBfi d a b s
  | .lea d a b k => Sys2Proof.Machine.execLea d a b k s
  | .aadd d a xi => Sys2Proof.Machine.execAadd d a xi s
  | .movi d xi => Sys2Proof.Machine.execMovi d xi s
  | .fadd d a b => Sys2Proof.Machine.execFadd d a b s
  | .fsub d a b => Sys2Proof.Machine.execFsub d a b s
  | .fmul d a b => Sys2Proof.Machine.execFmul d a b s
  | .ffma d a b => Sys2Proof.Machine.execFfma d a b s
  | .fmin d a b => Sys2Proof.Machine.execFmin d a b s
  | .fmax d a b => Sys2Proof.Machine.execFmax d a b s
  | .fcmp d a b r => Sys2Proof.Machine.execFcmp d a b r s
  | .fabs d a => Sys2Proof.Machine.execFabs d a s
  | .fneg d a => Sys2Proof.Machine.execFneg d a s
  | .frcp d a => Sys2Proof.Machine.execFrcp d a s
  | .frsq d a => Sys2Proof.Machine.execFrsq d a s
  | .fsqrt d a => Sys2Proof.Machine.execFsqrt d a s
  | .fexp2 d a => Sys2Proof.Machine.execFexp2 d a s
  | .flog2 d a => Sys2Proof.Machine.execFlog2 d a s
  | .fsin d a => Sys2Proof.Machine.execFsin d a s
  | .fcos d a => Sys2Proof.Machine.execFcos d a s
  | .hadd2 t d a b => Sys2Proof.Machine.execHadd2 t d a b s
  | .hmul2 t d a b => Sys2Proof.Machine.execHmul2 t d a b s
  | .hfma2 t d a b => Sys2Proof.Machine.execHfma2 t d a b s
  | .hmin2 t d a b => Sys2Proof.Machine.execHmin2 t d a b s
  | .hmax2 d a b t => Sys2Proof.Machine.execHmax2 d a b t s
  | .cvt d a p q => Sys2Proof.Machine.execCvt d a p q s
  | .flick d a b => Sys2Proof.Machine.execFlick d a b s
  | .fsr d a b t => Sys2Proof.Machine.execFsr d a b t s
  | .bmax d a p => Sys2Proof.Machine.execBmax d a p s
  | .bscale d a p => Sys2Proof.Machine.execBscale d a p s
  | .bq d a p => Sys2Proof.Machine.execBq d a p s
  | .bdq d a p => Sys2Proof.Machine.execBdq d a p s
  | .bpack d a p => Sys2Proof.Machine.execBpack d a p s
  | .bunpack d a p => Sys2Proof.Machine.execBunpack d a p s
  | .brd k g t m => Sys2Proof.Machine.execBrd k g t m s
  | .merge => Sys2Proof.Machine.execMerge s
  | .meet => Sys2Proof.Machine.execMeet s
  | .brk n => Sys2Proof.Machine.execBrk n s
  | .exrd d => Sys2Proof.Machine.execExrd d s
  | .exwr a => Sys2Proof.Machine.execExwr a s
  | .expr k => Sys2Proof.Machine.execExpr k s
  | .shflIdx d a b => Sys2Proof.Machine.execShflIdx d a b s
  | .shflUp d a b => Sys2Proof.Machine.execShflUp d a b s
  | .shflDown d a b => Sys2Proof.Machine.execShflDown d a b s
  | .shflXor d a b => Sys2Proof.Machine.execShflXor d a b s
  | .voteAny d k => Sys2Proof.Machine.execVoteAny d k s
  | .voteAll d k => Sys2Proof.Machine.execVoteAll d k s
  | .voteBallot d k => Sys2Proof.Machine.execVoteBallot d k s
  | .redg d a o => Sys2Proof.Machine.execRedg d a o s
  | .sadd d a b t => Sys2Proof.Machine.execSadd d a b t s
  | .ssub d a b t => Sys2Proof.Machine.execSsub d a b t s
  | .smul d a b t => Sys2Proof.Machine.execSmul d a b t s
  | .sand d a b => Sys2Proof.Machine.execSand d a b s
  | .sor d a b => Sys2Proof.Machine.execSor d a b s
  | .sxor d a b => Sys2Proof.Machine.execSxor d a b s
  | .sshl d a b => Sys2Proof.Machine.execSshl d a b s
  | .sshr d a b => Sys2Proof.Machine.execSshr d a b s
  | .scmp d a b r t => Sys2Proof.Machine.execScmp d a b r t s
  | .smovImmediate d xi => Sys2Proof.Machine.execSmovImmediate d xi s
  | .smov d a => Sys2Proof.Machine.execSmov d a s
  | .srd d a n => Sys2Proof.Machine.execSrd d a n s
  | .swr d a n => Sys2Proof.Machine.execSwr d a n s
  | .scalarMovs d a n => Sys2Proof.Machine.execScalarMovs d a n s
  | .broadcastMov d a => Sys2Proof.Machine.execBroadcastMov d a s
  | .ldg d a o => Sys2Proof.Machine.execLdg d a o s
  | .stg d a o => Sys2Proof.Machine.execStg d a o s
  | .ld d a r c z => Sys2Proof.Machine.execLd d a r c z s
  | .st d a r c z => Sys2Proof.Machine.execSt d a r c z s
  | .lds d a z => Sys2Proof.Machine.execLds d a z s
  | .sts d a z => Sys2Proof.Machine.execSts d a z s
  | .ldw d a z => Sys2Proof.Machine.execLdw d a z s
  | .bld d a b c => Sys2Proof.Machine.execBld d a b c s
  | .bst d a b c => Sys2Proof.Machine.execBst d a b c s
  | .atom d a o c r => Sys2Proof.Machine.execAtom d a o c r s
  | .red d a o c r => Sys2Proof.Machine.execRed d a o c r s
  | .fence m c p r => Sys2Proof.Machine.execFence m c p r s
  | .waitge d a c => Sys2Proof.Machine.execWaitge d a c s
  | .vpub a c => Sys2Proof.Machine.execVpub a c s
  | .privaddr d a => Sys2Proof.Machine.execPrivaddr d a s
  | .pref a l => Sys2Proof.Machine.execPref a l s
  | .dsync a => Sys2Proof.Machine.execDsync a s
  | .dsyncAll => Sys2Proof.Machine.execDsyncAll s
  | .atomDetFadd d a => Sys2Proof.Machine.execAtomDetFadd d a s
  | .atomDetBfadd2 d a => Sys2Proof.Machine.execAtomDetBfadd2 d a s
  | .cpy r p k n => Sys2Proof.Machine.execCpy r p k n s
  | .cpym p r k => Sys2Proof.Machine.execCpym p r k s
  | .bread p h k => Sys2Proof.Machine.execBread p h k s
  | .gret => Sys2Proof.Machine.execGret s
  | .barinit k l x => Sys2Proof.Machine.execBarinit k l x s
  | .bararr k d => Sys2Proof.Machine.execBararr k d s
  | .barexp k a => Sys2Proof.Machine.execBarexp k a s
  | .barwait k a => Sys2Proof.Machine.execBarwait k a s
  | .bartest k d => Sys2Proof.Machine.execBartest k d s
  | .tbar k => Sys2Proof.Machine.execTbar k s
  | .mzero t => Sys2Proof.Machine.execMzero t s
  | .mlda t a => Sys2Proof.Machine.execMlda t a s
  | .msta t a => Sys2Proof.Machine.execMsta t a s
  | .mloop t p q => Sys2Proof.Machine.execMloop t p q s
  | .mdist t p q => Sys2Proof.Machine.execMdist t p q s
  | .mtopk t a => Sys2Proof.Machine.execMtopk t a s
  | .mepi t a => Sys2Proof.Machine.execMepi t a s
  | .mroute a => Sys2Proof.Machine.execMroute a s
  | .mfence d => Sys2Proof.Machine.execMfence d s
  | .mwait a => Sys2Proof.Machine.execMwait a s
  | .conv p => Sys2Proof.Machine.execConv p s
  | .disb => Sys2Proof.Machine.execDisb s
  | .rld d q r z => Sys2Proof.Machine.execRld d q r z s
  | .rst d q r z => Sys2Proof.Machine.execRst d q r z s
  | .ratom d q o r => Sys2Proof.Machine.execRatom d q o r s
  | .alwr d a => Sys2Proof.Machine.execAlwr d a s
  | .balw a c o => Sys2Proof.Machine.execBalw a c o s
  | .coll p d => Sys2Proof.Machine.execColl p d s
  | .cwait d a => Sys2Proof.Machine.execCwait d a s
  | .chunkinc p a => Sys2Proof.Machine.execChunkinc p a s
  | .mighint p => Sys2Proof.Machine.execMighint p s
  | .bra o => Sys2Proof.Machine.execBra o s
  | .call l o => Sys2Proof.Machine.execCall l o s
  | .brc r n o => Sys2Proof.Machine.execBrc r n o s
  | .ret p => Sys2Proof.Machine.execRet p s
  | .jmpi p => Sys2Proof.Machine.execJmpi p s
  | .exit => Sys2Proof.Machine.execExit s
  | .launch p d => Sys2Proof.Machine.execLaunch p d s
  | .launchi p d => Sys2Proof.Machine.execLaunchi p d s
  | .spawn p d => Sys2Proof.Machine.execSpawn p d s
  | .evpub p q => Sys2Proof.Machine.execEvpub p q s
  | .evwait p q => Sys2Proof.Machine.execEvwait p q s
  | .rbeg m => Sys2Proof.Machine.execRbeg m s
  | .rcom => Sys2Proof.Machine.execRcom s
  | .safe m => Sys2Proof.Machine.execSafe m s
  | .trap n => Sys2Proof.Machine.execTrap n s
  | .svc n => Sys2Proof.Machine.execSvc n s
  | .eret => Sys2Proof.Machine.execEret s
  | .lsupd d => Sys2Proof.Machine.execLsupd d s
  | .seedset p => Sys2Proof.Machine.execSeedset p s
  | .clkrd d l => Sys2Proof.Machine.execClkrd d l s
  | .halt n => Sys2Proof.Machine.execHalt n s
  | .bkpt n => Sys2Proof.Machine.execBkpt n s
  | .flrd d => Sys2Proof.Machine.execFlrd d s
  | .flrdCnt d k => Sys2Proof.Machine.execFlrdCnt d k s
  | .wrs n a => Sys2Proof.Machine.execWrs n a s
  | .nop => Sys2Proof.Machine.execNop s
  | .hsched t n => Sys2Proof.Machine.execHsched t n s
  | .himm h => Sys2Proof.Machine.execHimm h s
  | .hpred k g n => Sys2Proof.Machine.execHpred k g n s
  | .hmod r m t f c b z => Sys2Proof.Machine.execHmod r m t f c b z s
  | .clh w a b c n => Sys2Proof.Machine.execClh w a b c n s
  | .meetArrival ag slot => Sys2Proof.Machine.execMeetArrival ag slot s
  | .splitMerge ag => Sys2Proof.Machine.execSplitMerge ag s
  | .longLatencyCompletion ag op lanes last => Sys2Proof.Machine.execLongLatencyCompletion ag op lanes last s
  | .schedStallExpiry ag => Sys2Proof.Machine.execSchedStallExpiry ag s
  | .ageingPromotion ag => Sys2Proof.Machine.execAgeingPromotion ag s
  | .sliceWaitPromotion req => Sys2Proof.Machine.execSliceWaitPromotion req s
  | .safepointOverrun ag => Sys2Proof.Machine.execSafepointOverrun ag s
  | .glintBudget ag => Sys2Proof.Machine.execGlintBudget ag s
  | .abortLimit ag => Sys2Proof.Machine.execAbortLimit ag s
  | .waitgeRepoll ag => Sys2Proof.Machine.execWaitgeRepoll ag s
  | .regionReplay ag => Sys2Proof.Machine.execRegionReplay ag s
  | .impreciseTrapDelivery ag => Sys2Proof.Machine.execImpreciseTrapDelivery ag s
  | .waitListSatisfied launch => Sys2Proof.Machine.execWaitListSatisfied launch s
  | .slotRecordReuse launch => Sys2Proof.Machine.execSlotRecordReuse launch s
  | .teamBind die rec => Sys2Proof.Machine.execTeamBind die rec s
  | .repartition core carve => Sys2Proof.Machine.execRepartition core carve s
  | .teamCompletion team => Sys2Proof.Machine.execTeamCompletion team s
  | .engineLineLanding op line => Sys2Proof.Machine.execEngineLineLanding op line s
  | .engineLineFailure op line => Sys2Proof.Machine.execEngineLineFailure op line s
  | .engineAccessRetry op line => Sys2Proof.Machine.execEngineAccessRetry op line s
  | .engineWaitTimeout op line => Sys2Proof.Machine.execEngineWaitTimeout op line s
  | .copyCompletion op => Sys2Proof.Machine.execCopyCompletion op s
  | .burstReturn op burst => Sys2Proof.Machine.execBurstReturn op burst s
  | .glintSpawn core entry => Sys2Proof.Machine.execGlintSpawn core entry s
  | .matrixKStep op => Sys2Proof.Machine.execMatrixKStep op s
  | .epilogueStep op => Sys2Proof.Machine.execEpilogueStep op s
  | .epilogueRowDelivery op row => Sys2Proof.Machine.execEpilogueRowDelivery op row s
  | .batchCompletion queue => Sys2Proof.Machine.execBatchCompletion queue s
  | .detEntryArrival entry => Sys2Proof.Machine.execDetEntryArrival entry s
  | .groupPreemptStop ag => Sys2Proof.Machine.execGroupPreemptStop ag s
  | .contextSaveWrite ctx => Sys2Proof.Machine.execContextSaveWrite ctx s
  | .mirrorCollapse request => Sys2Proof.Machine.execMirrorCollapse request s
  | .remoteRequestArrival req => Sys2Proof.Machine.execRemoteRequestArrival req s
  | .remoteResponse pass resp => Sys2Proof.Machine.execRemoteResponse pass resp s
  | .stagedCommit src => Sys2Proof.Machine.execStagedCommit src s
  | .stagedDiscard src => Sys2Proof.Machine.execStagedDiscard src s
  | .commitDeliveryTimeout commit => Sys2Proof.Machine.execCommitDeliveryTimeout commit s
  | .pushRowArrival push => Sys2Proof.Machine.execPushRowArrival push s
  | .pushResendTimeout op row => Sys2Proof.Machine.execPushResendTimeout op row s
  | .collectiveMessage coll msg => Sys2Proof.Machine.execCollectiveMessage coll msg s
  | .chunkReady coll chunk => Sys2Proof.Machine.execChunkReady coll chunk s
  | .chunkCounterTimeout coll chunk => Sys2Proof.Machine.execChunkCounterTimeout coll chunk s
  | .collectiveCompletion coll => Sys2Proof.Machine.execCollectiveCompletion coll s
  | .portRetrain port => Sys2Proof.Machine.execPortRetrain port s
  | .portUp port => Sys2Proof.Machine.execPortUp port s
  | .portWaitTimeout pass => Sys2Proof.Machine.execPortWaitTimeout pass s
  | .deviceReset => Sys2Proof.Machine.execDeviceReset s
  | .patrolScrub line found => Sys2Proof.Machine.execPatrolScrub line found s
  | .thermalTrip die => Sys2Proof.Machine.execThermalTrip die s
  | .powerTrip => Sys2Proof.Machine.execPowerTrip s
  | .aclkStepDown => Sys2Proof.Machine.execAclkStepDown s
  | .aclkStepUp => Sys2Proof.Machine.execAclkStepUp s
  | .watchdogExpiry ctx => Sys2Proof.Machine.execWatchdogExpiry ctx s
  | .attestRefusalEnd => Sys2Proof.Machine.execAttestRefusalEnd s
  | .load msg => Sys2Proof.Machine.execLoad msg s
  | .map msg => Sys2Proof.Machine.execMap msg s
  | .mapPoolFrames msg => Sys2Proof.Machine.execMapPoolFrames msg s
  | .unmap msg => Sys2Proof.Machine.execUnmap msg s
  | .ctx msg => Sys2Proof.Machine.execCtx msg s
  | .launchCommand msg => Sys2Proof.Machine.execLaunchCommand msg s
  | .preempt msg => Sys2Proof.Machine.execPreempt msg s
  | .resume msg => Sys2Proof.Machine.execResume msg s
  | .abort msg => Sys2Proof.Machine.execAbort msg s
  | .query msg => Sys2Proof.Machine.execQuery msg s
  | .attest msg => Sys2Proof.Machine.execAttest msg s
  | .debugPortRetrain msg => Sys2Proof.Machine.execDebugPortRetrain msg s
  | .debugInject msg => Sys2Proof.Machine.execDebugInject msg s
  | .debugStepOn msg => Sys2Proof.Machine.execDebugStepOn msg s
  | .debugStepOff msg => Sys2Proof.Machine.execDebugStepOff msg s
  | .patch msg => Sys2Proof.Machine.execPatch msg s
  | .devno msg => Sys2Proof.Machine.execDevno msg s
  | .alwset msg => Sys2Proof.Machine.execAlwset msg s
  | .unknownOpc msg => Sys2Proof.Machine.execUnknownOpc msg s
  | .registerWrite reg value => Sys2Proof.Machine.execRegisterWrite reg value s
  | .illegalOpcode word => Sys2Proof.Machine.execIllegalOpcode word s
  | .memoryOffline unit => Sys2Proof.Machine.execMemoryOffline unit s
  | .machineCheck ctxs => Sys2Proof.Machine.execMachineCheck ctxs s
  | .lanternFirmwareFault ctx => Sys2Proof.Machine.execLanternFirmwareFault ctx s

end Sys2Proof.Machine
end

