-- ==== Sys2Proof/Machine/Turn.lean ====
section
/-! DEFINITION. One action of the device: the issue of a word by a quadrant (07 R148, 05 R74), an event, the passing of time; and what the device does by itself after each action. -/

namespace Sys2Proof.Machine

/-! ### What the device does by itself -/

/-- No MFENCE has closed a batch, so it will not complete (13 R275). -/
def State.unclosed (s : State) (q batch : Nat) : Bool := ((s.matCtx q).map fun m => decide (m.closed ≤ batch)).getD true

/-- A group that has ended has nothing left in flight (07 R140): no operation, no undelivered commit of its staged stores (19 R356), and no SINGLE_STEP of its last EXIT, which it takes first (17 R336; log entry 28). -/
def State.reapable (s : State) (k : Nat) (g : Group) : Bool :=
  g.glint.isNone && g.splits.isEmpty && g.pend.isEmpty && g.imprecise.isEmpty && g.stepDue.isNone && !g.stopped
  && (s.commits.all fun c => c.discard || c.core ≠ keyCore k || c.num ≠ g.num || c.team ≠ g.team)
  && s.copies.all (fun o => o.key ≠ k) && s.sliceReqs.all (fun q => q.key ≠ k) && s.passes.all (fun p => p.key ≠ k)
  && ((s.setOf g).isSome || (decide (g.mat.complete = g.mat.closed) && s.matOps.all (fun o => o.key ≠ k)
    && s.batchFails.all (fun b => b.key ≠ k || s.unclosed b.q b.batch) && s.batchFlags.all fun b => b.key ≠ k || s.unclosed b.q b.batch))

/-- A group that has ended: what it holds stays with its team until that is released (07 R156); staged stores of a region that it left open are discarded (07 R140, 19 R356), and what a batch that it never closed has gathered is dropped (13 R275). -/
def State.reap (s : State) (k : Nat) (g : Group) : State :=
  let s := match g.region with
    | some r => s.sendCommits k g r.id r.rbeg true (stagedClasses g.buf)
    | none => s
  let s := { s with batchFails := s.batchFails.filter fun b => b.key ≠ k, batchFlags := s.batchFlags.filter fun b => b.key ≠ k }
  ((s.leaveWaits (.group k)).delGroup k).mapTeam g.team fun t =>
    { t with ended := t.ended + 1, gone := t.gone ++ [⟨k, g.width, g.regs, g.pslot⟩] }

/-- Groups that have ended leave the rendezvous that name them, and are counted in their team (08 R173, 07 R140). -/
def State.sweepEnded (s : State) : List (Nat × Group) → State
  | [] => s
  | (k, g) :: r =>
    if g.splits.isEmpty && g.glint.isNone then
      let s := s.endedMember g.team g.num
      (if s.reapable k g then s.reap k g else s).sweepEnded r
    else s.sweepEnded r

/-- What the device does by itself after an action: waits on words are re-evaluated, effects held back are performed, groups learn of failed passes, collectives send on, reported contexts release what they hold, and agents age. -/
def State.settle (s : State) : State :=
  let s := s.sweepWords s.wordWaits
  let s := s.sweepHeld s.held
  let s := s.sweepHanded (s.groups.filter fun e => e.2.handing)
  let s := s.sweepPromoted s.sliceReqs
  let s := s.sweepAnswers s.passes
  let s := s.sweepPasses s.passes
  let s := s.sweepColls s.colls
  let s := s.sweepEnded s.groups
  let s := s.sweepTrip
  (s.sweepReported s.ctxs).sweepAges

/-! ### Issue -/

/-- What a split stands before: a word that decodes, one that does not, or a fetch that faults. -/
inductive Fetch where
  | word (f : Fetched)
  | bad (w : Word)
  | fault (f : AccFault)
  deriving DecidableEq, Repr

/-- The word at the PC of a split of a context (04 R68). -/
def State.fetch (s : State) (core : Nat) (c : Context) (pc : Pc) : Fetch :=
  match s.fetchWord core c pc.toNat with
  | .error f => .fault f
  | .ok w =>
    match decodeWord w with
    | .ok f => .word f
    | .error _ => .bad w

/-- The split of a slot is in focus while its word executes. -/
def State.withFocus (s : State) (k slot : Nat) : State := { s with focus := some (k, slot) }

/-- The state just before the word of a split executes: the issue marked, the word counted unless it is issued again, the split in focus. -/
def State.ready (s : State) (core q k : Nat) (g : Group) (p : Split) (c : Context) : State :=
  let s := ((s.markIssue core q k g).flushVa core c p.pc.toNat).cacheVa c p.pc.toNat
  let s := if p.again then s else s.mapGroup k Group.countWord
  s.withFocus k p.slot

/-- The state once a word has executed: no split is in focus; the split has issued last; single stepping follows. -/
def State.wordDone (s : State) (k : Nat) (g : Group) (p : Split) (act : Mask) (asksYield : Bool) : State :=
  ({ s with focus := none }.noteIssue k p.slot asksYield).noteStep k p.slot p.pc act g.handler.isSome

/-- An outcome with its next state changed. -/
def thenDo (f : State → State) : Host.Outcome State Fault Refusal → Host.Outcome State Fault Refusal
  | .next s => .next (f s)
  | .fault r => .fault r
  | .refused r => .refused r

/-- Issues the word of a split (05 R74): the limit of the region, the fetch, the decode, the effect. -/
def State.issueSplit (s : State) (core q k : Nat) (g : Group) (p : Split) : Host.Outcome State Fault Refusal :=
  let c := s.ctxOf g
  let act := p.exec &&& windowLanes g p.hints
  match p.park with
  | .trapDue cause => .next (s.agentTrap k p.slot p.pc act (trapOf cause.toNat))
  | _ =>
    if g.overLimit && !p.again then
      thenDo (fun s => { s with focus := none })
        (exec (if g.glint.isSome then .glintBudget (agentOf k) else .safepointOverrun (agentOf k)) (s.withFocus k p.slot))
    else
      match s.fetch core c p.pc with
      | .fault f => .next (s.wordTrap k p.slot p.pc act (f.trap p.pc.toNat none))
      | .bad w =>
        if p.starts && !isHeaderWord w then .next (s.wordTrap k p.slot p.pc act (trapAt 0x0C p.pc.toNat))
        else thenDo (fun s => { s with focus := none }) (execIllegalOpcode w (s.ready core q k g p c))
      | .word f =>
        if p.starts && !Instr.isHeader f.instr then .next (s.wordTrap k p.slot p.pc act (trapAt 0x0C p.pc.toNat))
        else
        thenDo (fun s => s.wordDone k g p act (f.ver = 0 && f.sc = 1)) (exec f.instr (s.ready core q k g p c))

/-- A word that found its allowance short has not issued: its group was not eligible, and another may issue in this cycle (07 R148, 19 R361). -/
def State.unlessShort (s : State) (k : Nat) (g : Group) (o : Host.Outcome State Fault Refusal) : Host.Outcome State Fault Refusal :=
  match o with
  | .next t =>
    match t.group? k with
    | some h =>
      if h.allowanceSlot.isSome && g.allowanceSlot.isNone then
        .next { t with quads := s.quads, groups := t.groups.map fun e =>
          if e.1 = k then (e.1, { e.2 with readyAt := g.readyAt, eligible := none, promoted := g.promoted, lastSplit := g.lastSplit }) else e }
      else .next t
    | none => .next t
  | x => x

/-- A quadrant issues one word from one of its agents (07 R137, R138, R148, 17 R336, 20 R375). -/
def State.issue (s : State) (core q : Nat) : Host.Outcome State Fault Refusal :=
  if s.stopped || decide (s.cycles < (s.quad core q).busyUntil) then .next s
  else
    match s.pickAgent core q with
    | none => .next s
    | some k =>
      match s.group? k with
      | none => .next s
      | some g =>
        if g.remote.isSome then .next ((s.markIssue core q k g).issuePass k g)
        else
          match g.stepDue with
          | some (slot, pc, act) =>
            .next ((s.mapGroup k fun g => { g with stepDue := none }).agentTrap k slot pc act (trapOf 0x13))
          | none =>
            if g.mergePair.isSome then exec (.splitMerge (agentOf k)) s
            else
              match (s.readySlot k g).bind g.split? with
              | none => .next s
              | some p => if g.atMeet p then exec (.meetArrival (agentOf k) p.slot) s else s.unlessShort k g (s.issueSplit core q k g p)

/-! ### Actions -/

/-- Another device of the pod writes a byte of a line that a Prism slice holds: data, penumbra or tags (10 R212, 19 R351). -/
def State.prismWrite (s : State) (addr byte : Nat) (value : Byte) : State := if byte < 138 then s.putBytes (prismKey addr) byte [value] else s

/-- The event may complete a team; a RESUME that waits for a placement is tried again when one does, and one that waits for a bind record after every event (22 R399). -/
def endsTeam (i : Instr) : Bool :=
  match i with
  | .teamCompletion _ => true
  | _ => false

/-- Performs one action. -/
def State.act (s : State) : Action → Host.Outcome State Fault Refusal
  | .issue core quad => s.issue core quad
  | .event i =>
    thenDo (fun t => (if endsTeam i && decide (t.teams.length < s.teams.length) then t.sweepResumes t.ctxs else t).sweepResumes
      (s.ctxs.filter fun c => s.waitsRecord c.2)) (exec i s)
  | .cutLanes lanes => .next { s with laneCut := some lanes }
  | .elapse cycles nanos => .next { s with cycles := s.cycles + cycles, nanos := s.nanos + nanos }
  | .evictL1 core line => .next (s.dropLine core line)
  | .dropTlb die entry => .next (if bits entry 34 2 = die then { s with tlb := smDel s.tlb entry } else s)
  | .uncorrectable line cache => .next (s.uncorrectable line cache)
  | .corrected line cache => .next (s.corrected line cache)
  | .registerError ag what shadowClean scrub => .next (s.registerError ag what shadowClean scrub)
  | .prismWrite addr byte value => .next (s.prismWrite addr byte value)
  | .linkEvent port what => .next (s.linkEvent port what)
  | .pushRefused op row why => .next (s.pushRefused op row why)
  | .prismState full unreachable => .next { s with prismFull := full, prismUnreachable := unreachable }
  | .commitAcknowledged commit => .next { s with commits := s.commits.filter fun c => c.id ≠ commit }
  | .responseAcknowledged srcDev pass => .next { s with keptResponses := s.keptResponses.filter fun r => !(r.1 = srcDev && r.2.1 = pass) }
  | .mirrorRelease ia owner => .next (s.mirrorRelease ia owner)
  | .mirrorPeers request released => .next (s.mirrorPeers request released)

/-- The action that happens next and the state that remains: the agenda's first, or a free one. -/
def State.nextAction (s : State) : Action × State :=
  match s.agenda with
  | a :: r => (a, { s with agenda := r })
  | [] => (Config.freeAction s.tick, { s with tick := s.tick + 1 })

/-- One step of the device: its next action, and what follows by itself. -/
def State.turn (s : State) : Host.Outcome State Fault Refusal :=
  thenDo State.settle (s.nextAction.2.act s.nextAction.1)

end Sys2Proof.Machine
end

