-- ==== Sys2Proof/Machine/Place.lean ====
section
/-! DEFINITION. A state in which a given word is the next to issue: what loading a program, mapping it, creating its context, launching it and binding its team leave for one group of 32 lanes on core 0 (07 R145 to R154, 09 R185 to R187, 22 R387, R388; log entry 1). -/

namespace Sys2Proof.Machine

/-- The virtual, intermediate and physical address of the placed word. -/
def placeAddr : Nat := 0x10004

/-- The physical addresses of the two page tables: D0's level 0, and one of level 1 whose first entry is a leaf of 1 GiB (09 R185 to R187). -/
def placeRoot : Nat := 0x100000
def placeTable : Nat := 0x108000

/-- The record of the placed context (22 R388): WIN0 maps the lowest 1 GiB onto itself, readable, writable and executable. -/
def placeRecord : SMap Byte := memPuts [] 64 (natLe (15 * 2 ^ 60) 8 ++ natLe (30 * 2 ^ 58) 8)

/-- The placed context. -/
def placeContext : Context := { Context.blank with record := placeRecord }

/-- The placed team: one group on core 0. -/
def placeTeam (id : Nat) : Team :=
  { id, ctx := 1, grid := 1, num := 0, core := 0, pair := false, groups := 1, scr := 64, carve := 3, base0 := 0, base1 := 0, weight := 0,
    barriers := List.replicate 16 (newBarrier 1), sets := [], rendezvous := [], ended := 0, gone := [], published := false, waitSince := none }

/-- The placed group: 32 lanes, 128 registers; its split stands past a clause header that names flag 0 as A and flag 1 as B. -/
def placeGroup (team mat now : Nat) : Group :=
  { newGroup team 0 1 32 128 with
    mat := ⟨mat, 0, 0, 0⟩, readyAt := now, eligible := some now,
    splits := [{ newSplit 0 (BitVec.ofNat 56 placeAddr) (laneMask 32) none with fa := 0, fb := 1 }] }

/-- The lines that placing a word writes. -/
def placeLines : List Nat := [hbmKey 0 placeAddr, hbmKey 0 placeRoot, hbmKey 0 placeTable]

/-- Places a word as the next that issues. -/
def State.placeWord (s : State) (nbits w : Nat) : State :=
  let s := { s with
    agenda := [.issue 0 0], focus := none, fresh := s.fresh + 2, booted := true, stopped := false, aclkSince := 0, tripped := none,
    poison := s.poison.filter fun k => !placeLines.contains k,
    offlineSlices := [], offlineStacks := [], tlb := [],
    ptroot := smPut 0 s.ptroot 0 (BitVec.ofNat 64 (2 ^ 63 + placeRoot)),
    ctxs := smIns s.ctxs 1 placeContext,
    teams := s.teams ++ [placeTeam s.fresh],
    groups := smIns (s.groups.filter fun e => !(keyCore e.1 = 0 && keyQuad e.1 = 0)) 0 (placeGroup s.fresh (s.fresh + 1) s.cycles),
    quads := smDel s.quads 0 }
  let s := s.putBytes (pteKey 0 placeRoot 0).1 (pteKey 0 placeRoot 0).2 (natLe (2 ^ 63 + placeTable) 8)
  let s := s.putBytes (pteKey 0 placeTable 0).1 (pteKey 0 placeTable 0).2 (natLe (14 * 2 ^ 60) 8)
  s.putBytes (hbmKey 0 placeAddr) (placeAddr % 128) (natLe (w % 2 ^ nbits) 4)

end Sys2Proof.Machine
end

