-- ==== Sys2Proof/Machine/Step.lean ====
section
/-! DEFINITION. One step of the machine, and a state whose next step issues a given word. -/

namespace Sys2Proof.Machine

/-- One step: the device's next action (Machine/Turn.lean). -/
def step (s : State) : Host.Outcome State Fault Refusal := s.turn

/-- The state in which the very next step issues the word of `nbits` bits (Machine/Place.lean; log entry 1). -/
def State.withFetchWord (s : State) (nbits w : Nat) : State := s.placeWord nbits w

end Sys2Proof.Machine
end

