-- ==== Sys2Proof/Safety.lean ====
section
/-! DEFINITION. What claims about runs are stated in: that a step goes on, that the state is in canonical form, that the lanes of a group lie in one place each. -/

namespace Sys2Proof.Machine

/-- An outcome is a next state. -/
def answers (o : Host.Outcome State Fault Refusal) : Bool :=
  match o with
  | .next _ => true
  | .fault _ | .refused _ => false

/-- Memory is in its canonical form: addresses rise, and no listed byte is what an unlisted address reads. -/
def State.memOk (s : State) : Prop := s.mem.wf = true

/-- Splits of a group occupy distinct slots, and each one's execute mask is a subset of its LIVE (07 R133, R134). -/
def Group.masksOk (g : Group) : Bool := g.splits.all fun p => decide (p.exec &&& ~~~p.live = 0)

/-- The LIVE masks of a group's splits are pairwise disjoint (07 R133). -/
def Group.liveApart (g : Group) : Bool :=
  g.splits.all fun p => g.splits.all fun q => p.slot = q.slot || decide (p.live &&& q.live = 0)

/-- Runs of `k` steps that end in a next state. -/
def State.runs : Nat → State → Option State
  | 0, s => some s
  | k + 1, s =>
    match step s with
    | .next t => t.runs k
    | .fault _ | .refused _ => none

end Sys2Proof.Machine

namespace Sys2Proof.Claims

open Sys2Proof.Machine

/-! ### Words in which the statements are said -/

/-- The lanes on which a word of a split acts: those of %exec that satisfy the guard of an open PRED window (04 R57, 06 R99). -/
def activeLanes (g : Group) (p : Split) : Mask := p.exec &&& windowLanes g p.hints

/-- A scalar-pipeline word takes effect: it is unguarded, or some lane of %exec satisfies the guard (04 R57). -/
def scalarRuns (g : Group) (p : Split) : Prop := p.hints.window = none ∨ activeLanes g p ≠ 0

/-- The split in slot `slot` of agent `k` stands in focus before word `i`: the word passes its decode (05 R74), no effect of the group's last commit is outstanding, the word is not the re-issue of an aborted region's first, and no issued matrix operation has a register of the group left to read (13 R271). -/
structure Poised (s : State) (i : Instr) (k slot : Nat) (g : Group) (p : Split) : Prop where
  focus : s.focus = some (k, slot)
  agent : s.group? k = some g
  split : g.split? slot = some p
  decodes : decodeTrap i g p.hints = none
  drained : g.handing = false
  first : g.replaysAt slot p.pc = false
  read : s.readsLeft k = []

/-- The state after a word whose only effects are the agent's new value and the advance of its PC by 4 (04 R68). -/
def after (s : State) (k slot : Nat) (g : Group) : State := (s.putGroup k g).mapSplit k slot Split.advance

/-- The environment of a word in a group's state g1, its active lanes and hints those of the split p in g. -/
def wordEnv (k slot : Nat) (g g1 : Group) (p : Split) : Env := { envOf k slot g p false with g := g1 }

/-- A long-latency word can be counted: one that writes a register names a completion flag, and the flag it names counts less than 63 (04 R64). -/
def Counted (g : Group) (p : Split) (writes : Bool) : Prop :=
  (writes = true → (envOf 0 0 g p false).flag ≠ none) ∧ ∀ n, (envOf 0 0 g p false).flag = some n → g.flagCount n < 63

/-- The state in which a form that commits an open region first is performed, and its group there (10 R222): the group's context does not stop it after the commit (16 R328), and no register of it is left to read (13 R271). -/
def CommitsTo (s : State) (k slot : Nat) (p : Split) (s1 : State) (g1 : Group) : Prop :=
  s.commitFirst k slot p.pc = .ok s1 ∧ s1.group? k = some g1 ∧ (∀ g, s.group? k = some g → s.stopsAfterCommit k g = false) ∧ s1.readsLeft k = []

/-- The state in which the split's PC has advanced past its word. -/
def advanced (s : State) (k slot : Nat) : State := s.mapSplit k slot Split.advance

/-- An element of a lane, or of a pair in it, among vector elements. -/
def laneOf (v : SMap Word) (wide : Bool) (r l : Nat) : Nat :=
  (smGet 0 v (r * 64 + l)).toNat + (if wide then 2 ^ 32 * (smGet 0 v ((r + 1) * 64 + l)).toNat else 0)

/-- The group with its vector elements replaced and flags raised. -/
def vectorResult (g : Group) (v : SMap Word) (x : BitVec 8) : Group := { g with v := v, xflags := g.xflags ||| x }

/-- The group with its scalar registers replaced and flags raised. -/
def scalarResult (g : Group) (r : SMap Word) (x : BitVec 8) : Group := { g with s := r, xflags := g.xflags ||| x }

/-- The vector elements outside registers d to d + n − 1 and those of lanes that are not active are as they were. -/
def vectorFrame (g : Group) (v : SMap Word) (act : Mask) (d n : Nat) : Prop :=
  ∀ r l, l < 64 → (r < d ∨ d + n ≤ r ∨ hasLane act l = false) → smGet 0 v (r * 64 + l) = g.vreg r l

/-- The scalar registers outside d to d + n − 1 are as they were. -/
def scalarFrame (g : Group) (x : SMap Word) (d n : Nat) : Prop :=
  ∀ r, (r < d ∨ d + n ≤ r) → smGet 0 x r = g.sreg r

/-- The registers that a vector word of fixed latency writes: the first and how many. -/
def vectorDest : Instr → Option (Nat × Nat)
  | .iadd d _ _ t | .isub d _ _ t | .imul d _ _ t | .imulh d _ _ t | .imad d _ _ t | .imin d _ _ t | .imax d _ _ t =>
    some (d.toNat, if 2 ≤ t.toNat then 2 else 1)
  | .iabs d _ t | .ineg d _ t => some (d.toNat, if t = 1 then 2 else 1)
  | .and d _ _ | .or d _ _ | .xor d _ _ | .andn d _ _ | .shl d _ _ | .shr d _ _ | .sar d _ _ | .rol d _ _ => some (d.toNat, 1)
  | .not d _ | .popc d _ | .clz d _ | .brev d _ | .bfx d _ _ _ | .bfi d _ _ | .isel d _ _ _ | .fsel d _ _ _ => some (d.toNat, 1)
  | .movB32 d _ | .movi d _ | .broadcastMov d _ => some (d.toNat, 1)
  | .movB64 d _ | .lea d _ _ _ | .aadd d _ _ => some (d.toNat, 2)
  | .vectorMovs d n => some (d.toNat, if isWide n then 2 else 1)
  | .fadd d _ _ | .fsub d _ _ | .fmul d _ _ | .ffma d _ _ | .fmin d _ _ | .fmax d _ _ | .fabs d _ | .fneg d _ => some (d.toNat, 1)
  | .hadd2 _ d _ _ | .hmul2 _ d _ _ | .hfma2 _ d _ _ | .hmin2 _ d _ _ | .hmax2 d _ _ _ => some (d.toNat, 1)
  | .shflIdx d _ _ | .shflUp d _ _ | .shflDown d _ _ | .shflXor d _ _ | .flick d _ _ | .fsr d _ _ _ => some (d.toNat, 1)
  | .cvt d _ p q => if p = 11 ∨ q = 11 then none else some (d.toNat, if isType64 p then 2 else 1)
  | _ => none

/-- Vector words that raise no flag. -/
def vectorSilent : Instr → Bool
  | .imulh _ _ _ _ | .imin _ _ _ _ | .imax _ _ _ _ | .and _ _ _ | .or _ _ _ | .xor _ _ _ | .andn _ _ _ => true
  | .shl _ _ _ | .shr _ _ _ | .sar _ _ _ | .rol _ _ _ | .not _ _ | .popc _ _ | .clz _ _ | .brev _ _ => true
  | .bfx _ _ _ _ | .bfi _ _ _ | .isel _ _ _ _ | .fsel _ _ _ _ | .movB32 _ _ | .movB64 _ _ | .movi _ _ | .broadcastMov _ _ => true
  | .lea _ _ _ _ | .aadd _ _ _ | .vectorMovs _ _ | .fabs _ _ | .fneg _ _ | .shflIdx _ _ _ | .shflUp _ _ _ | .shflDown _ _ _ => true
  | .shflXor _ _ _ | .flick _ _ _ => true
  | _ => false

/-- The scalar registers that a scalar word writes: the first and how many. -/
def scalarDest : Instr → Option (Nat × Nat)
  | .sadd d _ _ t | .ssub d _ _ t | .smul d _ _ t => some (d.toNat, if t.toNat % 2 = 1 then 2 else 1)
  | .sand d _ _ | .sor d _ _ | .sxor d _ _ | .sshl d _ _ | .sshr d _ _ | .smovImmediate d _ | .smov d _ | .srd d _ _ => some (d.toNat, 1)
  | .scmp d _ _ _ _ => some (d.toNat, 1)
  | .scalarMovs d _ n => some (d.toNat, if isWide n then 2 else 1)
  | .voteAny d _ | .voteAll d _ | .redg d _ _ | .flrd d | .flrdCnt d _ => some (d.toNat, 1)
  | .voteBallot d _ | .exrd d => some (d.toNat, 2)
  | .cvt d _ p q => if p = 11 ∨ q = 11 then some (d.toNat, if isType64 p then 2 else 1) else none
  | _ => none

/-- Scalar words that raise no flag. -/
def scalarSilent : Instr → Bool
  | .sand _ _ _ | .sor _ _ _ | .sxor _ _ _ | .sshl _ _ _ | .sshr _ _ _ | .smovImmediate _ _ | .smov _ _ | .srd _ _ _ => true
  | .scalarMovs _ _ _ | .voteAny _ _ | .voteAll _ _ | .voteBallot _ _ | .exrd _ | .flrd _ | .flrdCnt _ _ => true
  | _ => false

/-! ### Words in memory -/

/-- A word whose SC bit is reserved: a hint, a clause header, NOP (05 R87 to R89). -/
def scReserved (i : Instr) : Bool := bindsNothing i

/-- A quadrant stands before the word of split p of agent k: the device runs, the quadrant is free, the agent is the one that it issues from, and nothing of the agent goes before a word: no pass, no due trap, no merge, no arrival, no limit (07 R137, R138, R148, 16 R320, 17 R336, 20 R375). -/
structure Issues (s : State) (core q k : Nat) (g : Group) (p : Split) : Prop where
  running : s.stopped = false
  free : (s.quad core q).busyUntil ≤ s.cycles
  picked : s.pickAgent core q = some k
  agent : s.group? k = some g
  noPass : g.remote = none
  noStep : g.stepDue = none
  noMerge : g.mergePair = none
  split : (s.readySlot k g).bind g.split? = some p
  noMeet : g.atMeet p = false
  noTrap : ∀ c, p.park ≠ .trapDue c
  below : (g.overLimit && !p.again) = false

/-- The state with its first agenda entry taken off. -/
def popped (s : State) : State := { s with agenda := s.agenda.tail }

/-! ### Results of words -/

/-- A scalar pair as a natural number. -/
def pairNat (r : SMap Word) (n : Nat) : Nat := (smGet 0 r n).toNat + 2 ^ 32 * (smGet 0 r (n + 1)).toNat

/-- A scalar register, or a pair of them, as a natural number. -/
def scalarNat (r : SMap Word) (wide : Bool) (n : Nat) : Nat := if wide then pairNat r n else (smGet 0 r n).toNat

/-- A natural number below 2^n as an integer: signed or not. -/
def asInt (signed : Bool) (n : Nat) (x : Nat) : Int := if signed && decide (2 ^ n ≤ 2 * x) then (x : Int) - 2 ^ n else x

/-- The least and the greatest integer of a type. -/
def leastInt (signed : Bool) (n : Nat) : Int := if signed then -(2 ^ (n - 1)) else 0
def greatestInt (signed : Bool) (n : Nat) : Int := if signed then 2 ^ (n - 1) - 1 else 2 ^ n - 1

/-- SAT of a MOD hint bound to the split's word. -/
def satHint (p : Split) : Bool := (p.hints.mod.map ModHint.sat).getD false

/-- A form of R101 or R103: destination, sources, whether its type is signed and 64 bits wide, whether it saturates, and the exact t of its row. -/
structure IntForm where
  d : Nat
  a : Nat
  b : Nat
  signed : Bool
  wide : Bool
  clamps : Bool
  exact : Int → Int → Int → Int

/-- The forms of R101 and R103. -/
def intForm : Instr → Option IntForm
  | .iadd d a b t => some ⟨d.toNat, a.toNat, b.toNat, t = 0 || t = 2, t = 2 || t = 3, true, fun x y _ => x + y⟩
  | .isub d a b t => some ⟨d.toNat, a.toNat, b.toNat, t = 0 || t = 2, t = 2 || t = 3, true, fun x y _ => x - y⟩
  | .imul d a b t => some ⟨d.toNat, a.toNat, b.toNat, t = 0 || t = 2, t = 2 || t = 3, true, fun x y _ => x * y⟩
  | .imad d a b t => some ⟨d.toNat, a.toNat, b.toNat, t = 0 || t = 2, t = 2 || t = 3, true, fun x y z => x * y + z⟩
  | .imulh d a b t =>
    some ⟨d.toNat, a.toNat, b.toNat, t = 0 || t = 2, t = 2 || t = 3, false, fun x y _ => x * y / (if t = 2 ∨ t = 3 then 2 ^ 64 else 2 ^ 32)⟩
  | .imin d a b t => some ⟨d.toNat, a.toNat, b.toNat, t = 0 || t = 2, t = 2 || t = 3, false, fun x y _ => min x y⟩
  | .imax d a b t => some ⟨d.toNat, a.toNat, b.toNat, t = 0 || t = 2, t = 2 || t = 3, false, fun x y _ => max x y⟩
  | .iabs d a t => some ⟨d.toNat, a.toNat, a.toNat, true, t = 1, true, fun x _ _ => |x|⟩
  | .ineg d a t => some ⟨d.toNat, a.toNat, a.toNat, true, t = 1, true, fun x _ _ => -x⟩
  | _ => none

/-- The exact t of a form in lane l of a group. -/
def IntForm.value (f : IntForm) (g : Group) (l : Nat) : Int :=
  let n := if f.wide then 64 else 32
  f.exact (asInt f.signed n (laneOf g.v f.wide f.a l)) (asInt f.signed n (laneOf g.v f.wide f.b l)) (asInt f.signed n (laneOf g.v f.wide f.d l))

/-- What R107 says of the element r that a logic or shift form writes, from its sources x and y. -/
def logicHolds (i : Instr) (x y r : Word) : Prop :=
  let n := y.toNat % 32
  match i with
  | .and _ _ _ => ∀ j < 32, r.getLsbD j = (x.getLsbD j && y.getLsbD j)
  | .or _ _ _ => ∀ j < 32, r.getLsbD j = (x.getLsbD j || y.getLsbD j)
  | .xor _ _ _ => ∀ j < 32, r.getLsbD j = (x.getLsbD j ^^ y.getLsbD j)
  | .andn _ _ _ => ∀ j < 32, r.getLsbD j = (x.getLsbD j && !y.getLsbD j)
  | .shl _ _ _ => r.toNat = x.toNat * 2 ^ n % 2 ^ 32
  | .shr _ _ _ => r.toNat = x.toNat / 2 ^ n
  | .sar _ _ _ => r.toInt = x.toInt / 2 ^ n
  | .rol _ _ _ => r.toNat = x.toNat * 2 ^ n % 2 ^ 32 + x.toNat / 2 ^ (32 - n)
  | .not _ _ => ∀ j < 32, r.getLsbD j = !x.getLsbD j
  | .popc _ _ => r.toNat = ((List.range 32).filter fun j => x.getLsbD j).length
  | .clz _ _ => if x = 0 then r.toNat = 32 else 2 ^ 31 ≤ x.toNat * 2 ^ r.toNat ∧ x.toNat * 2 ^ r.toNat < 2 ^ 32
  | .brev _ _ => ∀ j < 32, r.getLsbD j = x.getLsbD (31 - j)
  | _ => False

/-- Destination and sources of a form of R107. -/
def logicForm : Instr → Option (Nat × Nat × Nat)
  | .and d a b | .or d a b | .xor d a b | .andn d a b | .shl d a b | .shr d a b | .sar d a b | .rol d a b =>
    some (d.toNat, a.toNat, b.toNat)
  | .not d a | .popc d a | .clz d a | .brev d a => some (d.toNat, a.toNat, a.toNat)
  | _ => none

/-- The immediate of n bits, widened by an IMM hint before the word (05 R77). -/
def immediate (p : Split) (n : Nat) (f : Nat) : Int :=
  match p.hints.imm with
  | none => asInt true n f
  | some h => asInt true (n + 21) (f + 2 ^ n * h.toNat)

/-- The value that a move or an address form of R109 and R111 writes in lane l, the destination, and whether it is a pair. -/
def moveForm (i : Instr) (g : Group) (p : Split) (l : Nat) : Option (Nat × Bool × Int) :=
  match i with
  | .movB32 d a => some (d.toNat, false, laneOf g.v false a.toNat l)
  | .movB64 d a => some (d.toNat, true, laneOf g.v true a.toNat l)
  | .movi d x => some (d.toNat, false, immediate p 16 x.toNat)
  | .broadcastMov d a => some (d.toNat, false, (g.sreg a.toNat).toNat)
  | .lea d a b k => some (d.toNat, true, laneOf g.v true a.toNat l + asInt true 32 (laneOf g.v false b.toNat l) * 2 ^ k.toNat)
  | .aadd d a x => some (d.toNat, true, laneOf g.v true a.toNat l + immediate p 9 x.toNat)
  | _ => none

/-- The lane that a SHFL form reads for lane l (08 R165). -/
def shuffleFrom (i : Instr) (g : Group) (l : Nat) : Option (Nat × Nat × Int) :=
  match i with
  | .shflIdx d a b => some (d.toNat, a.toNat, (g.vreg b.toNat l).toNat % 64)
  | .shflUp d a b => some (d.toNat, a.toNat, (l : Int) - (g.sreg b.toNat).toNat % 64)
  | .shflDown d a b => some (d.toNat, a.toNat, (l : Int) + (g.sreg b.toNat).toNat % 64)
  | .shflXor d a b => some (d.toNat, a.toNat, (l ^^^ ((g.sreg b.toNat).toNat % 64) : Nat))
  | _ => none

/-- A predicate after a compare: the active lanes take `f`, the others keep their bit. -/
def comparePred (g : Group) (act : Mask) (d : Nat) (f : Nat → Bool) (q : Mask) : Prop :=
  ∀ l < 64, q.getLsbD l = if hasLane act l && decide (l < g.width) then f l else (g.preg d).getLsbD l

/-- The relation of a compare on integers (06 R104). -/
def relates (r : BitVec 2) (x y : Int) : Bool :=
  (r = 0 && decide (x = y)) || (r = 1 && decide (x ≠ y)) || (r = 2 && decide (x < y)) || (r = 3 && decide (x ≤ y))

/-! ### Floating point, in whole numbers

A finite pattern is a whole number of units, the unit being the format's smallest subnormal 2^(emin − f); an exact result is n / 2^K units. -/

/-- The exponent field is all ones; a NaN, a signalling NaN, an infinity; the sign (02 R24). -/
def allOnes (f : Fmt) (x : Nat) : Bool := decide (x / 2 ^ f.fbits % 2 ^ f.ebits = 2 ^ f.ebits - 1)
def isNaNBits (f : Fmt) (x : Nat) : Bool := allOnes f x && decide (x % 2 ^ f.fbits ≠ 0)
def isSignalling (f : Fmt) (x : Nat) : Bool := isNaNBits f x && !x.testBit (f.fbits - 1)
def isInfinite (f : Fmt) (x : Nat) : Bool := allOnes f x && decide (x % 2 ^ f.fbits = 0)
def isNegative (f : Fmt) (x : Nat) : Bool := x.testBit (f.ebits + f.fbits)

/-- The magnitude of a finite pattern, in units (02 R24). -/
def magnitude (f : Fmt) (x : Nat) : Nat :=
  let e := x / 2 ^ f.fbits % 2 ^ f.ebits
  if e = 0 then x % 2 ^ f.fbits else (2 ^ f.fbits + x % 2 ^ f.fbits) * 2 ^ (e - 1)

/-- The value of a finite pattern, in units. -/
def unitsOf (f : Fmt) (x : Nat) : Int := if isNegative f x then -(magnitude f x : Int) else magnitude f x

/-- The unit is 2^−unitExp. -/
def unitExp (f : Fmt) : Nat := 2 ^ (f.ebits - 1) - 2 + f.fbits

/-- The largest finite magnitude, in units. -/
def topUnits (f : Fmt) : Nat := (2 ^ (f.fbits + 1) - 1) * 2 ^ (2 ^ f.ebits - 3)

/-- Patterns: of a magnitude on the format's grid, an infinity, the default NaN (02 R24). -/
def signBit (f : Fmt) (neg : Bool) : Nat := if neg then 2 ^ (f.ebits + f.fbits) else 0
def patternOf (f : Fmt) (neg : Bool) (m : Nat) : Nat :=
  signBit f neg + (if m < 2 ^ f.fbits then m else
    (Nat.log2 m - f.fbits + 1) * 2 ^ f.fbits + (m / 2 ^ (Nat.log2 m - f.fbits) - 2 ^ f.fbits))
def infinityOf (f : Fmt) (neg : Bool) : Nat := signBit f neg + (2 ^ f.ebits - 1) * 2 ^ f.fbits
def nanOf (f : Fmt) : Nat := (2 ^ f.ebits - 1) * 2 ^ f.fbits + 2 ^ (f.fbits - 1)

/-- Whether the neighbour away from zero is taken, of a value that lies `rest` of `gap` above the one towards zero (02 R28). Under SR, v = min(w, d), d the least number of bits in which the rest is exact. -/
def takesFar (c : RndCtl) (neg odd : Bool) (rest gap : Nat) : Bool :=
  match c.mode.toNat with
  | 0 => decide (gap < 2 * rest) || (decide (gap = 2 * rest) && odd)
  | 1 => false
  | 2 => !neg
  | 3 => neg
  | _ =>
    let v := (((List.range c.w).map (· + 1)).find? fun v => decide (v = c.w) || decide (rest * 2 ^ v % gap = 0)).getD c.w
    decide (gap * 2 ^ v ≤ rest * 2 ^ v + c.word.toNat / 2 ^ (32 - v) * gap)

/-- |n| / 2^K rounded to a grid: of f + 1 significant bits, no finer than 1, or with no f that of the whole numbers; the result times 2^K, and whether it differs (02 R28). -/
def roundMagnitude (f : Option Nat) (c : RndCtl) (neg : Bool) (a K : Nat) : Nat × Bool :=
  let q := 2 ^ (match f with | some f => max K (Nat.log2 a - f) | none => K)
  ((if a % q ≠ 0 && takesFar c neg (decide (a / q % 2 = 1)) (a % q) q then a / q + 1 else a / q) * q, decide (a % q ≠ 0))

/-- `round` of R28 with R29: n / 2^K units into a format; the sign of an exact zero; STEPOVF under 04 R61. -/
def rounded (f : Fmt) (c : RndCtl) (zero : Bool) (n : Int) (K : Nat) : Nat × BitVec 8 :=
  let neg := decide (n < 0)
  let r := roundMagnitude (some f.fbits) c neg n.natAbs K
  let small := fun m : Nat => decide (m < 2 ^ f.fbits * 2 ^ K)
  if n = 0 then (signBit f zero, 0)
  else if topUnits f * 2 ^ K < r.1 then
    if c.sat then (patternOf f neg (topUnits f), fSAT ||| fNX)
    else (if c.mode = 0 ∨ c.mode = 4 ∨ (c.mode = 2 ∧ neg = false) ∨ (c.mode = 3 ∧ neg = true) then infinityOf f neg
      else patternOf f neg (topUnits f), fOF ||| fNX ||| fSTEPOVF)
  else if c.flush && decide (r.1 ≠ 0) && small r.1 then (signBit f neg, fUF ||| fNX)
  else (patternOf f neg (r.1 / 2 ^ K), (if r.2 && small n.natAbs then fUF else 0) ||| if r.2 then fNX else 0)

/-- An operand under flushing: a subnormal is a zero of its sign (02 R29). -/
def flushed (f : Fmt) (c : RndCtl) (x : Nat) : Nat :=
  if c.flush && decide (x / 2 ^ f.fbits % 2 ^ f.ebits = 0) then signBit f (isNegative f x) else x

/-- A sum, difference, product or fused multiply-add x × y + z. -/
inductive FloatOp where
  | add | sub | mul | fma
  deriving DecidableEq, Repr

/-- A result of a float operation (02 R25, R26): the default NaN, NV for a signalling operand or an invalid operation; an infinity of its sign; or the exact result rounded once. -/
def FloatOp.result (f : Fmt) (c : RndCtl) (op : FloatOp) (x0 y0 z0 : Nat) : Nat × BitVec 8 :=
  let x := flushed f c x0
  let y := flushed f c y0
  let z := flushed f c z0
  let ops := if op = .fma then [x, y, z] else [x, y]
  let zeroTimesInf := (isInfinite f x && decide (magnitude f y = 0)) || (isInfinite f y && decide (magnitude f x = 0))
  let sp := isNegative f x ^^ isNegative f y
  let prodInf := isInfinite f x || isInfinite f y
  let sy := isNegative f y ^^ decide (op = .sub)
  let invalid := match op with
    | .add | .sub => isInfinite f x && isInfinite f y && (isNegative f x ^^ sy)
    | .mul => zeroTimesInf
    | .fma => zeroTimesInf || (!(isNaNBits f x || isNaNBits f y) && prodInf && isInfinite f z && (sp ^^ isNegative f z))
  if ops.any (isNaNBits f) || invalid then
    (nanOf f, fSTEPOVF ||| if ops.any (isSignalling f) || invalid then fNV else 0)
  else if ops.any (isInfinite f) then
    (infinityOf f (match op with
      | .add | .sub => if isInfinite f x then isNegative f x else sy
      | .mul => sp
      | .fma => if prodInf then sp else isNegative f z), fSTEPOVF)
  else
    match op with
    | .add => rounded f c (if isNegative f x = sy then sy else decide (c.mode = 3)) (unitsOf f x + unitsOf f y) 0
    | .sub => rounded f c (if isNegative f x = sy then sy else decide (c.mode = 3)) (unitsOf f x - unitsOf f y) 0
    | .mul => rounded f c sp (unitsOf f x * unitsOf f y) (unitExp f)
    | .fma => rounded f c (if sp = isNegative f z then sp else decide (c.mode = 3))
        (unitsOf f x * unitsOf f y + unitsOf f z * 2 ^ unitExp f) (unitExp f)

/-- The order of minimumNumber and maximumNumber, in which −0 is below +0; the order of compares, in which they are equal (02 R26). -/
def numberKey (f : Fmt) (x : Nat) : Int :=
  let m := x % 2 ^ (f.ebits + f.fbits)
  if isNegative f x then -1 - (m : Int) else m
def compareKey (f : Fmt) (x : Nat) : Int :=
  let m := x % 2 ^ (f.ebits + f.fbits)
  if isNegative f x then -(m : Int) else m

/-- minimumNumber, or maximumNumber, of two patterns, with the flags (02 R26, 06 R112). -/
def numberOf (f : Fmt) (c : RndCtl) (least : Bool) (x0 y0 : Nat) : Nat × BitVec 8 :=
  let x := flushed f c x0
  let y := flushed f c y0
  let nv : BitVec 8 := if isSignalling f x || isSignalling f y then fNV else 0
  let r := if isNaNBits f x then (if isNaNBits f y then nanOf f else y) else if isNaNBits f y then x
    else if (if least then numberKey f y < numberKey f x else numberKey f x < numberKey f y) then y else x
  (r, nv ||| if nv ≠ 0 ∨ allOnes f r = true then fSTEPOVF else 0)

/-- A compare of two patterns: EQ, NE, LT, LE, UN, and whether NV is raised (02 R26, 06 R105). -/
def floatRelates (f : Fmt) (c : RndCtl) (r : Nat) (x0 y0 : Nat) : Bool × Bool :=
  let x := flushed f c x0
  let y := flushed f c y0
  let un := isNaNBits f x || isNaNBits f y
  (if un then decide (r = 1 ∨ r = 4)
   else match r with
    | 0 => decide (compareKey f x = compareKey f y)
    | 1 => decide (compareKey f x ≠ compareKey f y)
    | 2 => decide (compareKey f x < compareKey f y)
    | 3 => decide (compareKey f x ≤ compareKey f y)
    | _ => false,
   isSignalling f x || isSignalling f y || (un && decide (r = 2 ∨ r = 3)))

/-- Rounding, SAT and FLUSH of a word: of a MOD hint, else RNE (02 R28, R29). -/
def roundingOf (p : Split) : RndCtl :=
  match p.hints.mod with
  | none => ⟨0, 0, 32, false, false⟩
  | some m => ⟨if m.rnden then m.rm else 0, 0, 32, m.sat, m.flush⟩

/-- An integer type code: signed, and its bits (02 R21). -/
def integerType (t : Nat) : Bool × Nat := (decide (t < 4), 8 * 2 ^ (t % 4))

/-- The format of a float type code. -/
def floatFmt (t : Nat) : Fmt := if t = 8 then ⟨8, 7⟩ else if t = 9 then ⟨5, 10⟩ else if t = 10 then ⟨8, 23⟩ else ⟨11, 52⟩

/-- An integer of a type as its destination holds it: narrow types extended to 32 bits by their signedness (02 R22). -/
def heldInteger (signed : Bool) (n : Nat) (t : Int) : Nat :=
  ((if n < 32 then asInt signed n (t % 2 ^ n).toNat % 2 ^ 32 else t % 2 ^ n) : Int).toNat

/-- A conversion to type p from type q of the source bits x (06 R118, 02 R32): what its destination holds, and the flags. -/
def converted (p q : Nat) (c : RndCtl) (x0 : Nat) : Nat × BitVec 8 :=
  if q < 8 then
    let v := asInt (integerType q).1 (integerType q).2 (x0 % 2 ^ (integerType q).2)
    if p < 8 then
      let sp := (integerType p).1
      let np := (integerType p).2
      if c.sat then (heldInteger sp np (max (leastInt sp np) (min (greatestInt sp np) v)),
        if v < leastInt sp np ∨ greatestInt sp np < v then fSAT else 0)
      else (heldInteger sp np v, 0)
    else rounded (floatFmt p) c false (v * 2 ^ unitExp (floatFmt p)) 0
  else
    let f := floatFmt q
    let x := flushed f c (x0 % 2 ^ (1 + f.ebits + f.fbits))
    if p < 8 then
      let sp := (integerType p).1
      let np := (integerType p).2
      if isNaNBits f x then (0, fNV ||| fSTEPOVF)
      else if isInfinite f x then (heldInteger sp np (if isNegative f x then leastInt sp np else greatestInt sp np), fNV ||| fSTEPOVF)
      else
        let r := roundMagnitude none c (isNegative f x) (magnitude f x) (unitExp f)
        let t : Int := if isNegative f x then -((r.1 / 2 ^ unitExp f : Nat) : Int) else (r.1 / 2 ^ unitExp f : Nat)
        if t < leastInt sp np ∨ greatestInt sp np < t then
          (heldInteger sp np (max (leastInt sp np) (min (greatestInt sp np) t)), fNV ||| fSTEPOVF)
        else (heldInteger sp np t, if r.2 then fNX else 0)
    else
      let h := floatFmt p
      if isNaNBits f x then (nanOf h, fSTEPOVF ||| if isSignalling f x then fNV else 0)
      else if isInfinite f x then (infinityOf h (isNegative f x), fSTEPOVF)
      else rounded h c (isNegative f x) (unitsOf f x * 2 ^ unitExp h) (unitExp f)

/-- flicker(seed, stream, index) (02 R33), in numbers modulo 2^32. -/
def flickerWord (seed stream index : Nat) : Nat :=
  let M := 2 ^ 32
  let rotl (x n : Nat) : Nat := (x * 2 ^ n + x / 2 ^ (32 - n)) % M
  let loop (s : Nat × Nat × Nat × Nat) (k : Nat × Nat × Nat) : Nat × Nat × Nat × Nat :=
    let a := (s.1 + s.2.1 + k.1) % M
    let d := rotl (s.2.2.2 ^^^ a) k.2.1
    let c := (s.2.2.1 + d) % M
    (a, rotl (s.2.1 ^^^ c) k.2.2, c, d)
  let s := [(0x4F1B2D69, 13, 7), (0x93C5E187, 17, 9), (0x2AD864F3, 11, 5), (0xC76E0B5D, 19, 15)].foldl loop
    (seed % M, seed / M % M, index % M, (index / M % M) ^^^ stream)
  ((s.1 ^^^ s.2.2.1) + (s.2.1 ^^^ s.2.2.2)) % M

/-- What REDG delivers over the active elements, lanes rising: op code, elements (08 R167). -/
def reduction (op : Nat) (c : RndCtl) (xs : List Nat) : Nat × BitVec 8 :=
  let f : Fmt := ⟨8, 23⟩
  let ints := xs.map fun x => asInt true 32 x
  let total := ints.foldl (· + ·) 0
  match op with
  | 0 => if c.sat then ((max (leastInt true 32) (min (greatestInt true 32) total) % 2 ^ 32).toNat,
      if total < leastInt true 32 ∨ greatestInt true 32 < total then fSAT else 0) else ((total % 2 ^ 32).toNat, 0)
  | 1 => ((ints.foldl min (2 ^ 31 - 1) % 2 ^ 32).toNat, 0)
  | 2 => ((ints.foldl max (-2 ^ 31) % 2 ^ 32).toNat, 0)
  | 3 => (xs.foldl min (2 ^ 32 - 1), 0)
  | 4 => (xs.foldl max 0, 0)
  | 5 =>
    let ys := xs.map (flushed f c)
    let both := ys.any (fun y => isInfinite f y && isNegative f y) && ys.any fun y => isInfinite f y && !isNegative f y
    if xs = [] then (0, 0)
    else if ys.any (isNaNBits f) then (nanOf f, fSTEPOVF ||| if ys.any (isSignalling f) then fNV else 0)
    else if both then (nanOf f, fSTEPOVF ||| fNV)
    else if ys.any (isInfinite f) then (infinityOf f (ys.any fun y => isInfinite f y && isNegative f y), fSTEPOVF)
    else rounded f c (if ys.all (isNegative f) then true else if ys.any (isNegative f) then decide (c.mode = 3) else false)
      (ys.foldl (fun t y => t + unitsOf f y) 0) 0
  | 6 | 7 =>
    let ys := xs.filter fun x => !isNaNBits f x
    let r := match ys with
      | [] => if xs = [] then infinityOf f (decide (op = 7)) else nanOf f
      | y :: r => r.foldl (fun m x => if (if op = 6 then numberKey f x < numberKey f m else numberKey f m < numberKey f x) then x else m) y
    let nv := xs.any (isSignalling f)
    (r, (if nv then fNV else 0) ||| if nv || allOnes f r then fSTEPOVF else 0)
  | 8 => (xs.foldl (· &&& ·) (2 ^ 32 - 1), 0)
  | 9 => (xs.foldl (· ||| ·) 0, 0)
  | _ => (xs.foldl (· ^^^ ·) 0, 0)

/-- The active elements of a register, lanes rising. -/
def activeElems (g : Group) (p : Split) (a : Nat) : List Nat :=
  ((List.range 64).filter fun l => decide (l < g.width) && hasLane (activeLanes g p) l).map fun l => (g.vreg a l).toNat

/-- The flags that the active lanes of a word raise together (02 R27). -/
def raisedBy (g : Group) (p : Split) (fl : Nat → BitVec 8) (x : BitVec 8) : Prop :=
  ∀ j, x.getLsbD j = true ↔ ∃ l, l < g.width ∧ l < 64 ∧ hasLane (activeLanes g p) l = true ∧ (fl l).getLsbD j = true

/-- The special register of a number, %lane apart, as MOVS reads it in a group of team t (04 R58, R60). -/
def specialValue (s : State) (k : Nat) (g : Group) (p : Split) (t : Team) (n : Nat) : Nat :=
  match n with
  | 0x01 => g.num % 2 ^ 32
  | 0x02 => t.num % 2 ^ 32
  | 0x03 => t.grid % 2 ^ 32
  | 0x04 => k / 64 % 2 ^ 32
  | 0x05 => k / 64 / 144 % 2 ^ 32
  | 0x06 => s.devno.toNat
  | 0x07 => p.exec.toNat
  | 0x08 => g.seed.toNat
  | 0x09 => g.lscale.toNat * 2 ^ 23
  | 0x0A => g.lsmin.toNat * 2 ^ 23
  | 0x0B => g.lsmax.toNat * 2 ^ 23
  | 0x0C => g.count.toNat * 2 ^ 16 + g.run.toNat
  | 0x0D => g.xflags.toNat
  | 0x0E => s.cycles % 2 ^ 64
  | 0x0F => s.nanos % 2 ^ 64
  | _ => g.ctx % 2 ^ 32

/-- The special registers of 64 bits (04 R58). -/
def specialWide (n : Nat) : Bool := decide (n = 0x07) || decide (n = 0x08) || decide (n = 0x0E) || decide (n = 0x0F)

/-! ### Special functions, block words -/

/-- A value that lies q units above zero and, if `more`, less than one unit further, rounded; the unit is 2^−K of FP32's smallest subnormal and fine enough that no rounding asks how much further. -/
def roundedAbove (c : RndCtl) (neg : Bool) (q K : Nat) (more : Bool) : Nat × BitVec 8 :=
  let n : Nat := 2 * q + if more then 1 else 0
  rounded ⟨8, 23⟩ c false (if neg then -(n : Int) else n) (K + 1)

/-- What a special function delivers for an operand, and the flags: its special operands (06 R115), the exact quotient and roots of FRCP, FSQRT and FRSQ rounded once, and the operands of the others whose value is exact or out of range; none where the value of FEXP2, FLOG2, FSIN or FCOS is irrational (06 R113, R114). -/
def specialResult (i : Instr) (c : RndCtl) (x0 : Nat) : Option (Nat × BitVec 8) :=
  let f : Fmt := ⟨8, 23⟩
  let x := flushed f c x0
  let u := magnitude f x
  let neg := isNegative f x
  let inf := isInfinite f x
  let near := { c with mode := 0 }
  let bad := (nanOf f, fNV ||| fSTEPOVF)
  let one := (patternOf f false (2 ^ 149), (0 : BitVec 8))
  if isNaNBits f x then some (nanOf f, fSTEPOVF ||| if isSignalling f x then fNV else 0)
  else
    match i with
    | .frcp _ _ =>
      some (if inf then (signBit f neg, 0) else if u = 0 then (infinityOf f neg, fDZ ||| fSTEPOVF)
        else roundedAbove c neg (2 ^ 362 / u) 64 (decide (2 ^ 362 % u ≠ 0)))
    | .frsq _ _ =>
      some (if u = 0 then (infinityOf f neg, fDZ ||| fSTEPOVF) else if neg then bad else if inf then (0, 0)
        else
          let q := Nat.sqrt (2 ^ 447 / u)
          roundedAbove near false q 0 (decide (q * q * u ≠ 2 ^ 447)))
    | .fsqrt _ _ =>
      some (if u = 0 then (signBit f neg, 0) else if neg then bad else if inf then (infinityOf f false, fSTEPOVF)
        else
          let q := Nat.sqrt (u * 2 ^ 149)
          roundedAbove c false q 0 (decide (q * q ≠ u * 2 ^ 149)))
    | .fexp2 _ _ =>
      if inf then some (if neg then (0, 0) else (infinityOf f false, fSTEPOVF))
      else if neg = false ∧ 2 ^ 156 ≤ u then some (if c.sat then (patternOf f false (topUnits f), fSAT ||| fNX) else (infinityOf f false, fOF ||| fNX ||| fSTEPOVF))
      else if neg = true ∧ 150 * 2 ^ 149 ≤ u then some (0, fUF ||| fNX)
      else if u % 2 ^ 149 = 0 then some (rounded f near false (if neg then 2 ^ (149 - u / 2 ^ 149) else 2 ^ (149 + u / 2 ^ 149)) 0)
      else none
    | .flog2 _ _ =>
      if u = 0 then some (infinityOf f true, fDZ ||| fSTEPOVF) else if neg then some bad else if inf then some (infinityOf f false, fSTEPOVF)
      else if u = 2 ^ Nat.log2 u then some (rounded f near false (((Nat.log2 u : Nat) - 149 : Int) * 2 ^ 149) 0) else none
    | .fsin _ _ => if inf then some bad else if u = 0 then some (signBit f neg, 0) else none
    | .fcos _ _ => if inf then some bad else if u = 0 then some one else none
    | _ => none

/-- The operation that a special function leaves outstanding: its destination, its source. -/
def specialForm : Instr → Option (Nat × Nat)
  | .frcp d a | .frsq d a | .fsqrt d a | .fexp2 d a | .flog2 d a | .fsin d a | .fcos d a => some (d.toNat, a.toNat)
  | _ => none

/-- An operation of long latency is left outstanding, and nothing else has happened but the advance of the PC. -/
def issuedPending (s : State) (k slot : Nat) (o : PendOp) : State :=
  advanced { s with fresh := s.fresh + 1, groups := alMap s.groups k fun g => { g with pend := g.pend ++ [o] } } k slot

/-- The completion flag that a word of split p selects (04 R64). -/
def flagOf (g : Group) (p : Split) : Option Nat := (envOf 0 0 g p false).flag

/-- Slice q of the group has an active lane. -/
def sliceActive (g : Group) (p : Split) (q : Nat) : Bool :=
  if g.width = 64 then decide (q < 2) && decide ((activeLanes g p).toNat / 2 ^ (32 * q) % 2 ^ 32 ≠ 0)
  else decide (q = 0) && decide (activeLanes g p ≠ 0)

/-- The block control word of a form (08 R168). -/
def controlWord (g : Group) (sp : BitVec 6) : Nat := pairNat g.s (2 * sp.toNat)

/-- The rounding code of a block form: RM of the control word, or of a MOD hint with RNDEN (08 R170). -/
def blockRounding (p : Split) (c : Nat) : Nat :=
  match p.hints.mod with
  | some m => if m.rnden then m.rm.toNat else c / 2 ^ 5 % 8
  | none => c / 2 ^ 5 % 8

/-- The control word and the source of a block form pass their checks: no reserved bit; CLS, DT, TAG, SLOT and the rounding assigned where the form uses them; no CB4 source for BSCALE and BDQ (08 R168 to R171). -/
def blockReady (i : Instr) (g : Group) (p : Split) : Prop :=
  let plain := fun c => c / 2 ^ 13 % 8 = 0 ∧ c / 2 ^ 23 % 2 = 0
  let cls := fun c => c % 4
  let typed := fun c => c / 2 ^ 16 % 16 = 8 ∨ c / 2 ^ 16 % 16 = 9 ∨ c / 2 ^ 16 % 16 = 10
  let noCb4 := fun (a : BitVec 7) c => cls c = 0 → ∀ q < 2, sliceActive g p q = true → (g.sidecar a.toNat q).toNat / 256 ≠ 2
  match i with
  | .bmax _ _ sp => plain (controlWord g sp) ∧ typed (controlWord g sp)
  | .bscale _ a sp => plain (controlWord g sp) ∧ cls (controlWord g sp) ≠ 3 ∧ noCb4 a (controlWord g sp)
  | .bq _ _ sp =>
    let c := controlWord g sp
    let tag := c / 4 % 4
    plain c ∧ cls c ≠ 3 ∧ typed c ∧ tag ≠ 3 ∧ ¬(cls c = 0 ∧ tag = 2) ∧ c / 2 ^ 5 % 8 ≤ 4 ∧ (blockRounding p c < 4 ∨ (blockRounding p c = 4 ∧ sp ≠ 63))
  | .bdq _ a sp =>
    let c := controlWord g sp
    plain c ∧ cls c ≠ 3 ∧ typed c ∧ c / 2 ^ 5 % 8 < 4 ∧ blockRounding p c < 4 ∧ noCb4 a c
  | .bpack _ _ sp | .bunpack _ _ sp =>
    let c := controlWord g sp
    plain c ∧ ((cls c = 0 ∧ c / 2 ^ 20 % 8 < 8) ∨ (cls c = 1 ∧ c / 2 ^ 20 % 8 < 5) ∨ (cls c = 2 ∧ c / 2 ^ 20 % 8 < 4))
  | _ => False

/-- The group with its vector elements, sidecars and flags replaced. -/
def blockResult (g : Group) (v : SMap Word) (sd : SMap (BitVec 10)) (x : BitVec 8) : Group :=
  { g with v := v, side := sd, xflags := g.xflags ||| x }

/-- The destination of a block form: its register, how many registers its elements take (two in a 16-lane group, two for a line form), and whether lanes that are not active keep their elements. -/
def blockDest (i : Instr) (g : Group) : Option (Nat × Nat × Bool) :=
  let n := if g.width = 16 then 2 else 1
  match i with
  | .bmax d _ _ | .bscale d _ _ | .bq d _ _ | .bdq d _ _ => some (d.toNat, n, true)
  | .bpack d _ _ => some (d.toNat, 2, false)
  | .bunpack d _ _ => some (d.toNat, 1, false)
  | _ => none

/-- The block forms that write the sidecar of their destination. -/
def writesSidecar : Instr → Bool
  | .bscale _ _ _ | .bq _ _ _ | .bunpack _ _ _ => true
  | _ => false

/-- An operand of the irrational functions and the FP32 value nearest to their result: 2^(1/2), log2 3, sin 1, cos 1. -/
def specialSample : Instr → Option (Word × Word)
  | .fexp2 _ _ => some (0x3F000000, 0x3FB504F3)
  | .flog2 _ _ => some (0x40400000, 0x3FCAE00D)
  | .fsin _ _ => some (0x3F800000, 0x3F576AA4)
  | .fcos _ _ => some (0x3F800000, 0x3F0A5140)
  | _ => none

/-! ### Values of blocks -/

/-- The element format of a class and a tag, CB4 apart (03 R38 to R40): its exponent and fraction widths, none for INTk; its bits; its largest positive value and its last place, as a number of units and the unit 2^−v. -/
structure ElemShape where
  float : Option Fmt
  bits : Nat
  top : Nat
  v : Nat

def elemShape (cls tag : Nat) : ElemShape :=
  match cls, tag with
  | 0, 0 => ⟨some ⟨2, 1⟩, 4, 12, 1⟩
  | 0, _ => ⟨none, 4, 7, 2⟩
  | 1, 0 => ⟨some ⟨2, 3⟩, 6, 60, 3⟩
  | 1, 1 => ⟨some ⟨3, 2⟩, 6, 448, 4⟩
  | 1, _ => ⟨none, 6, 31, 4⟩
  | _, 0 => ⟨some ⟨4, 3⟩, 8, 448 * 2 ^ 9, 9⟩
  | _, 1 => ⟨some ⟨5, 2⟩, 8, 57344 * 2 ^ 16, 16⟩
  | _, _ => ⟨none, 8, 127, 6⟩

/-- A value of n / 2^K units (negative: `neg`, which a zero keeps) as an element code, with the flags (03 R48): saturation is always on. -/
def ElemShape.encode (e : ElemShape) (c : RndCtl) (neg : Bool) (n K : Nat) : Nat × BitVec 8 :=
  let nx := fun b : Bool => if b then fNX else (0 : BitVec 8)
  match e.float with
  | some f =>
    let r := roundMagnitude (some f.fbits) c neg n K
    if e.top * 2 ^ K < r.1 then (patternOf f neg e.top, fSAT ||| fNX)
    else (patternOf f neg (r.1 / 2 ^ K), (if r.2 && decide (n < 2 ^ f.fbits * 2 ^ K) then fUF else 0) ||| nx r.2)
  | none =>
    let r := roundMagnitude none c neg n K
    let m := r.1 / 2 ^ K
    if neg = false ∧ e.top < m then (e.top, fSAT ||| fNX)
    else if neg = true ∧ e.top + 1 < m then (e.top + 1, fSAT ||| fNX)
    else ((if neg then 2 ^ e.bits - m else m) % 2 ^ e.bits, nx r.2)

/-- The scale byte for a largest magnitude of A units of 2^−u, A ≠ 0 (03 R47). -/
def scaleOf (e : ElemShape) (ceil : Bool) (A u : Nat) : Nat :=
  let s : Int := (Nat.log2 A : Int) - u - ((Nat.log2 e.top : Int) - e.v)
  let s := if ceil && decide (e.top * 2 ^ (s + u + 2048).toNat < A * 2 ^ (e.v + 2048)) then s + 1 else s
  (max 0 (min 254 (s + 127))).toNat

/-- A block as BQ writes it: scale, tag, element codes. -/
structure BlockValue where
  scale : Nat
  tag : Nat
  codes : List Nat
  flags : BitVec 8

/-- A NaN block of a tag (03 R48). -/
def nanBlock (tag : Nat) : BlockValue := ⟨255, tag, List.replicate 32 0, 0⟩

/-- `quantise_block` of 03 R48 for the formats that hold no codebook, over 32 finite values, each a magnitude in units of 2^−u and its sign, with the rounding of each element. -/
def quantisedValues (u cls tag : Nat) (ceil zc : Bool) (c : Nat → RndCtl) (xs : List (Nat × Bool)) : BlockValue :=
  let e := elemShape cls tag
  let A := (xs.map (·.1)).foldl max 0
  let zeros := List.replicate 32 0
  if A = 0 then (if zc then ⟨0, 3, zeros, 0⟩ else ⟨0, tag, zeros, 0⟩)
  else
    let X := scaleOf e ceil A u
    let es := (List.range 32).map fun i =>
      let x := xs.getD i (0, false)
      e.encode (c i) x.2 (x.1 * 2 ^ (127 + e.v)) (u + X)
    let fl := (es.map (·.2)).foldl (· ||| ·) 0
    if zc && es.all (fun y => decide (y.1 % 2 ^ (e.bits - (if e.float.isSome then 1 else 0)) = 0)) then ⟨0, 3, zeros, fl⟩
    else ⟨X, tag, es.map (·.1), fl⟩

/-- The same over 32 patterns of a format. -/
def quantisedBlock (f : Fmt) (cls tag : Nat) (ceil zc : Bool) (c : Nat → RndCtl) (xs : List Nat) : BlockValue :=
  if xs.any (allOnes f) then nanBlock tag
  else quantisedValues (unitExp f) cls tag ceil zc c (xs.map fun x => (magnitude f x, isNegative f x))

/-- An element code of a block dequantised into a format (03 R49): +0 in a zero block, the default NaN in a NaN block or of a NaN code, an infinity of E5M2, else its value rounded once. -/
def dequantised (f : Fmt) (c : RndCtl) (cls : Nat) (sidecar code : Nat) : Nat × BitVec 8 :=
  let tag := sidecar / 256
  let X := sidecar % 256
  let e := elemShape cls tag
  let code := code % 2 ^ e.bits
  if tag = 3 then (0, 0)
  else if X = 255 then (nanOf f, fSTEPOVF)
  else
    match e.float with
    | some h =>
      if (h.ebits = 4 ∧ code % 128 = 127) ∨ (h.ebits = 5 ∧ 124 < code % 128) then (nanOf f, fSTEPOVF)
      else if h.ebits = 5 ∧ code % 128 = 124 then (infinityOf f (isNegative h code), fSTEPOVF)
      else rounded f c (isNegative h code) (unitsOf h code * 2 ^ (unitExp f + X)) (127 + e.v)
    | none => rounded f c false (asInt true e.bits code * 2 ^ (unitExp f + X)) (127 + e.v)

/-- Where element i of slice q of a block in register r lies: register and lane (03 R45). -/
def elementPlace (g : Group) (r q i : Nat) : Nat × Nat := if g.width = 16 then (r + i / 16, i % 16) else (r, 32 * q + i)

/-- An element of a block operand, and whether its lane is active. -/
def blockElement (g : Group) (r q i : Nat) : Nat := (g.vreg (elementPlace g r q i).1 (elementPlace g r q i).2).toNat
def elementActs (g : Group) (p : Split) (q i : Nat) : Bool := hasLane (activeLanes g p) (elementPlace g 0 q i).2

/-- The type DT of a control word, and its pattern in an element (08 R168, R169). -/
def plainFmt (w : Nat) : Fmt := floatFmt (w / 2 ^ 16 % 16)
def plainElement (w : Nat) (g : Group) (a q i : Nat) : Nat := blockElement g a q i % 2 ^ (1 + (plainFmt w).ebits + (plainFmt w).fbits)

/-- What BMAX delivers in a slice (08 R170): the largest magnitude of the active elements, the default NaN if one is a NaN, with the flags. -/
def sliceMaximum (w : Nat) (g : Group) (p : Split) (a q : Nat) : Nat × BitVec 8 :=
  let f := plainFmt w
  let xs := ((List.range 32).filter fun i => elementActs g p q i).map fun i => plainElement w g a q i
  if xs.any (isNaNBits f) then (nanOf f, fSTEPOVF ||| if xs.any (isSignalling f) then fNV else 0)
  else
    let m := (xs.map fun x => x % 2 ^ (f.ebits + f.fbits)).foldl max 0
    (m, if allOnes f m then fSTEPOVF else 0)

/-- What BQ writes in a slice (08 R170): inactive lanes count as +0; element i draws the word of index IB + 32 q + i under SR. -/
def quantisedSlice (w ib : Nat) (g : Group) (p : Split) (a q : Nat) : BlockValue :=
  let mode := blockRounding p w
  let zc := !(p.hints.mod.map ModHint.nzc).getD false
  quantisedBlock (plainFmt w) (w % 4) (w / 4 % 4) (w.testBit 4) zc
    (fun i => ⟨BitVec.ofNat 3 mode, BitVec.ofNat 32 (flickerWord g.seed.toNat (w / 2 ^ 32) ((ib + 32 * q + i) % 2 ^ 64)), w / 2 ^ 8 % 32 + 1, true, false⟩)
    ((List.range 32).map fun i => if elementActs g p q i then plainElement w g a q i else 0)

/-- What BDQ delivers in an element (08 R170). -/
def dequantisedElement (w : Nat) (g : Group) (p : Split) (a q i : Nat) : Nat × BitVec 8 :=
  dequantised (plainFmt w) { roundingOf p with mode := BitVec.ofNat 3 (blockRounding p w) } (w % 4) (g.sidecar a q).toNat (blockElement g a q i)

/-- The payload of the line form of a slice as one little-endian number, and its tag bits (08 R171). -/
def linePayload (v : SMap Word) (d q : Nat) : Nat :=
  ((List.range 32).map fun i => (smGet 0 v (d * 64 + (32 * q + i))).toNat * 2 ^ (32 * i)).sum
    + (smGet 0 v ((d + 1) * 64 + 32 * q)).toNat * 2 ^ 1024 + (smGet 0 v ((d + 1) * 64 + (32 * q + 1))).toNat * 2 ^ 1056
def lineTags (v : SMap Word) (d q : Nat) : Nat := (smGet 0 v ((d + 1) * 64 + (32 * q + 2))).toNat % 2 ^ 16

/-- Element width and record bytes of a class (03 R36). -/
def widthOf (cls : Nat) : Nat := 4 + 2 * cls
def recordBytes (cls : Nat) : Nat := 1 + 4 * widthOf cls

/-- A record as one little-endian number: scale, then 32 elements (03 R37). -/
def recordNumber (cls scale : Nat) (codes : List Nat) : Nat :=
  scale + 256 * ((List.range 32).map fun i => codes.getD i 0 % 2 ^ widthOf cls * 2 ^ (widthOf cls * i)).sum

/-! ### Transfers -/

/-- The word at an address of agent k's context can be fetched by its core, no engine owning its line, and is a clause header (04 R66, 10 R216). -/
def headerAt (s : State) (k : Nat) (g : Group) (target : Pc) : Prop :=
  target.toNat % 4 = 0 ∧ ∃ c w, s.ctx? g.ctx = some c ∧ s.fetchOwned c target.toNat = none ∧ s.fetchWord (k / 64) c target.toNat = .ok w ∧
    w.toNat / 2 ^ 23 % 64 = 0x3F

/-- The state once the core of agent k has read the word at an address: its dirty bytes of the word's line have been written back (09 R201). -/
def wordRead (s : State) (k : Nat) (g : Group) (target : Pc) : State := s.landed (k / 64) g.ctx target.toNat

/-- The core of agent k holds no dirty byte of the line of an address. -/
def cleanAt (s : State) (k : Nat) (g : Group) (target : Pc) : Prop :=
  ∀ c h x, s.ctx? g.ctx = some c → c.window target.toNat = some h → s.l1Get (k / 64) (h.ia / 128) = some x → x.dirty = 0

/-- The address some words from the split's word, modulo 2^56 (06 R124). -/
def offsetFrom (p : Split) (off : Int) : Pc := BitVec.ofInt 56 (p.pc.toNat + 4 * off)

/-- The target of a uniform transfer that is taken, and the state in which its split moves: for CALL with the return address written (06 R125). -/
def transferOf (i : Instr) (s : State) (k : Nat) (g : Group) (p : Split) : Option (Pc × State) :=
  match i with
  | .bra o => some (offsetFrom p (asInt true 23 o.toNat), s)
  | .call l o =>
    some (offsetFrom p (immediate p 12 o.toNat), s.putGroup k (g.setSPair (2 * l.toNat) (BitVec.ofNat 64 (p.pc + 4).toNat)))
  | .brc r n o =>
    if (n = 0 ∧ g.sreg r.toNat = 0) ∨ (n = 1 ∧ g.sreg r.toNat ≠ 0) then some (offsetFrom p (immediate p 10 o.toNat), s) else none
  | .ret q | .jmpi q => some (BitVec.ofNat 56 (pairNat g.s (2 * q.toNat)), s)
  | _ => none

/-! ### Divergence -/

/-- The lanes that a BRD takes: active, with pk xor g = 1 (07 R136, 08 R161). -/
def takenLanes (g : Group) (p : Split) (k : BitVec 5) (neg : BitVec 1) : Mask :=
  activeLanes g p &&& (if neg = 1 then ~~~g.preg k.toNat else g.preg k.toNat)

/-- Target and meet point of a BRD (05 R81, 08 R161). -/
def branchTarget (p : Split) (t : BitVec 9) : Pc :=
  match p.hints.imm with
  | none => offsetFrom p (asInt true 9 t.toNat)
  | some h => offsetFrom p (asInt true 20 (h.toNat % 2 ^ 11 * 2 ^ 9 + t.toNat))
def branchMeet (p : Split) (m : BitVec 8) : Pc :=
  match p.hints.imm with
  | none => offsetFrom p (m.toNat : Nat)
  | some h => offsetFrom p (h.toNat / 2 ^ 11 * 2 ^ 8 + m.toNat : Nat)

/-- The split after a word that advances it and closes its window. -/
def closed (p : Split) : Split := { p with pc := p.pc + 4, hints := Hints.none, wait := 0, starts := false, park := .running }

/-- The n innermost open entries of a split, from its own outward (07 R139). -/
def openEntries (g : Group) (p : Split) (n : Nat) (es : List Nat) : Prop :=
  es.length = n ∧ ∀ j e, es[j]? = some e → ∃ m, alGet g.meet e = some m ∧
    (if j = 0 then p.entry = some e else ∃ e' m', es[j - 1]? = some e' ∧ alGet g.meet e' = some m' ∧ m'.parent = some e)

/-- Some entry of a split, from its own outward, is entry e: the split is within e (07 R137). -/
def within (g : Group) (p : Split) (e : Nat) : Prop := ∃ n es, n ≤ 16 ∧ openEntries g p n es ∧ e ∈ es

/-- Every open entry of a split, from its own outward: the outermost has no parent (07 R135). -/
def openAll (g : Group) (p : Split) (es : List Nat) : Prop :=
  openEntries g p es.length es ∧ (es = [] → p.entry = none) ∧ ∀ e m, es.getLast? = some e → alGet g.meet e = some m → m.parent = none

/-! ### Memory words -/

/-- The state in which a word's own effect happens: after the commit that its form makes first (10 R222), or as it stands. -/
def StartsIn (commits : Bool) (s : State) (k slot : Nat) (g : Group) (p : Split) (s1 : State) (g1 : Group) : Prop :=
  if commits then CommitsTo s k slot p s1 g1 else s1 = s ∧ g1 = g

/-- A load or store form: its register, its size code, order and scope, and whether it stores (06 R126, 11 R230, R231). -/
structure MemForm where
  d : Nat
  z : Nat
  order : MemOrder
  scope : Scope
  stores : Bool

/-- The load and store forms of lanes. -/
def memForm : Instr → Option MemForm
  | .ldg d _ _ => some ⟨d.toNat, 4, .rlx, .grp, false⟩
  | .stg d _ _ => some ⟨d.toNat, 4, .rlx, .grp, true⟩
  | .ld d _ r c z => some ⟨d.toNat, z.toNat, memOrder r, memScope c, false⟩
  | .st d _ r c z => some ⟨d.toNat, z.toNat, memOrder r, memScope c, true⟩
  | .lds d _ z => some ⟨d.toNat, z.toNat, .rlx, .team, false⟩
  | .sts d _ z => some ⟨d.toNat, z.toNat, .rlx, .team, true⟩
  | .ldw d _ z => some ⟨d.toNat, z.toNat, .rlx, .die, false⟩
  | _ => none

/-- The address that a form names in lane l (06 R126, 11 R230, R231). -/
def laneAddress (i : Instr) (g : Group) (p : Split) (l : Nat) : Nat :=
  match i with
  | .ldg _ a o | .stg _ a o => ((pairNat g.s a.toNat + 4 * immediate p 9 o.toNat + 4 * l) % 2 ^ 64).toNat
  | .ld _ a _ _ _ | .st _ a _ _ _ => laneOf g.v true a.toNat l
  | .lds _ a _ | .sts _ a _ | .ldw _ a _ => laneOf g.v false a.toNat l
  | .atom _ a _ _ _ | .red _ a _ _ _ | .atomDetFadd _ a | .atomDetBfadd2 _ a => laneOf g.v true a.toNat l
  | _ => 0

/-- The active lanes of a form with the addresses that it names, lanes rising (16 R317). -/
def laneLocations (i : Instr) (g g1 : Group) (p : Split) : List (Nat × Nat) :=
  ((List.range 64).filter fun l => decide (l < g1.width) && hasLane (activeLanes g p) l).map fun l => (l, laneAddress i g1 p l)

/-- What lane l of a form reaches, at the address that the form names there: a place or a fault (11 R225, R226). -/
def laneReaches (i : Instr) (s : State) (k slot : Nat) (g g1 : Group) (p : Split) (l : Nat) : Option (Except AccFault Target) :=
  let e := wordEnv k slot g g1 p
  let va := laneAddress i g1 p l
  match i with
  | .ldg _ _ _ => some (s.globalLane e 4 .load false l va)
  | .stg _ _ _ => some (s.globalLane e 4 .store false l va)
  | .ld _ _ _ _ z => some (s.globalLane e (sizeBytes z.toNat) .load false l va)
  | .st _ _ _ _ z => some (s.globalLane e (sizeBytes z.toNat) .store false l va)
  | .lds _ _ z => some (s.scratchLane e (sizeBytes z.toNat) .load va)
  | .sts _ _ z => some (s.scratchLane e (sizeBytes z.toNat) .store va)
  | .ldw _ _ z => some (s.windowLane e (sizeBytes z.toNat) .load va)
  | .atom _ _ o _ _ | .red _ _ o _ _ => some (s.locationLane e (atomSize o) l va)
  | .atomDetFadd _ _ | .atomDetBfadd2 _ _ => some (s.detLane e l va)
  | _ => none

/-- Lane l takes part in a word. -/
def acts (g g1 : Group) (p : Split) (l : Nat) : Prop := l < g1.width ∧ hasLane (activeLanes g p) l = true

/-- Every active lane reaches the place that ts names for it. -/
def AllReach (i : Instr) (s : State) (k slot : Nat) (g g1 : Group) (p : Split) (ts : Nat → Target) : Prop :=
  ∀ l, acts g g1 p l → laneReaches i s k slot g g1 p l = some (.ok (ts l))

/-- No line that an active lane reaches is owned by an engine or an absent scratchpad line (09 R195, 10 R216). -/
def LinesFree (s : State) (g g1 : Group) (p : Split) (ts : Nat → Target) : Prop :=
  ∀ l ln off, acts g g1 p l → ts l = .line ln off →
    s.isOwned ln = false ∧ (keyIsSram ln.key = true → (s.sramSt ln.key).present = true)

/-- A release at .sys finds no fabric operation outstanding (19 R352). -/
def SysQuiet (s : State) (k : Nat) (g : Group) (o : MemOrder) (c : Scope) : Prop :=
  o.rels = true → c = .sys → s.fabricPending k g = false

/-- The state changes in memory, L1 lines, cached translations and what is remembered of team releases and satisfied waits alone, and one operation is outstanding, as in `issuedPending`. -/
def MemoryIssue (s : State) (k slot : Nat) (o : PendOp) (t : State) : Prop :=
  t = { issuedPending s k slot o with mem := t.mem, l1 := t.l1, tlb := t.tlb, teamRels := t.teamRels, metWaits := t.metWaits }

/-- The operation that a word leaves outstanding (04 R64). -/
def pendingOf (o : PendOp) (s : State) (g : Group) (p : Split) : Prop :=
  o.id = s.fresh ∧ o.pc = p.pc ∧ o.flag = flagOf g p ∧ o.kind = .thread

/-- The bytes of memory that belong to no line which an L1 holds a copy of. -/
def uncached (s : State) (a : Nat) : Prop := ∀ x ∈ s.l1, x.2.home ≠ a / 256

/-- The byte of memory at offset b of a line. -/
def homeByte (s : State) (key b : Nat) : Byte := memGet s.mem (key * 256 + b)

/-- What a core sees of n bytes of a line: its copy's bytes when all of them are valid there, else the dirty bytes of its copy over the bytes at home (09 R199, R200). -/
def coreSees (s : State) (core : Nat) (ln : LineRef) (off n : Nat) : List Byte :=
  if s.noL1 core ln then s.bytes ln.key off n
  else
    match s.l1Get core ln.ia with
    | none => s.bytes ln.key off n
    | some x =>
      (List.range n).map fun j =>
        if (List.range n).all (fun j => x.valid.getLsbD (off + j)) || x.dirty.getLsbD (off + j) then byteAt x.bytes (off + j)
        else homeByte s ln.key (off + j)

/-- Each L1 copy of a line holds the line's 138 bytes (03 R42). -/
def cachesOk (s : State) : Prop := ∀ x ∈ s.l1, x.2.bytes.length = 138

/-- What a core sees of a line does not depend on what it loads next: no L1 holds the line, or the core has no copy of it, or a copy whose bytes are all valid. -/
def wholeLine (s : State) (core : Nat) (ln : LineRef) : Prop :=
  s.noL1 core ln = true ∨ ∀ x, s.l1Get core ln.ia = some x → x.valid = allBytes

/-- A core's copy of a line is one of the place that the line has now. -/
def homedLine (s : State) (core : Nat) (ln : LineRef) : Prop := ∀ x, s.l1Get core ln.ia = some x → x.home = ln.key

/-- The record and the tag that slice q of a block register makes (03 R37, 11 R232). -/
def storedRecord (g : Group) (cls d q : Nat) : List Byte :=
  natLe (recordNumber cls ((g.sidecar d q).toNat % 256) ((List.range 32).map fun i => blockElement g d q i)) (recordBytes cls)
def storedTag (g : Group) (d q : Nat) : BitVec 2 := BitVec.ofNat 2 ((g.sidecar d q).toNat / 256)

/-- The slot of its line in which the record of slice q lies: of (s + q) records, 136 bytes of a line hold as many as fit (03 R42, 11 R232). -/
def recordSlot (g : Group) (b cls q : Nat) : Nat := ((g.sreg b).toNat + q) % (136 / recordBytes cls)

/-- The cache policy of a MOD hint bound to the word (05 R88). -/
def cachePolicy (p : Split) : BitVec 2 := (p.hints.mod.map ModHint.cp).getD 0

/-- Only lane l is active. -/
def onlyLane (g g1 : Group) (p : Split) (l : Nat) : Prop := ∀ l', acts g g1 p l' ↔ l' = l

/-- `extend` of R230: the value of the bytes that a load of a size code reads. -/
def extended (z : Nat) (x : Nat) : Int :=
  if z = 0 then (x : Int) else if z = 1 then asInt true 8 x else if z = 2 then x else if z = 3 then asInt true 16 x else x

/-- The value that an outstanding operation is to write to a register, or a pair, in a lane. -/
def delivers (o : PendOp) (wide : Bool) (r l x : Nat) : Prop :=
  if wide then
    ∃ lo hi : Word, alGet o.vals (r * 64 + l) = some lo ∧ alGet o.vals ((r + 1) * 64 + l) = some hi ∧ x = lo.toNat + 2 ^ 32 * hi.toNat
  else ∃ w : Word, alGet o.vals (r * 64 + l) = some w ∧ x = w.toNat

/-- The new value of an atomic (11 R233), and the flags that its operation raises, STEPOVF apart: op code, old value, operand words. -/
def atomMeaning (c : RndCtl) (op : BitVec 4) (old : Nat) (x : List Word) : Nat × BitVec 8 :=
  let w := fun j => (x.getD j 0).toNat
  let pair := fun j => w j + 2 ^ 32 * w (j + 1)
  let own := fun r : Nat × BitVec 8 => (r.1, r.2 &&& ~~~fSTEPOVF)
  match op.toNat with
  | 0 => ((old + w 0) % 2 ^ 32, 0)
  | 1 => ((old + pair 0) % 2 ^ 64, 0)
  | 2 => (if asInt true 32 (w 0) < asInt true 32 old then w 0 else old, 0)
  | 3 => (min (w 0) old, 0)
  | 4 => (if asInt true 32 old < asInt true 32 (w 0) then w 0 else old, 0)
  | 5 => (max (w 0) old, 0)
  | 6 => (old &&& w 0, 0)
  | 7 => (old ||| w 0, 0)
  | 8 => (old ^^^ w 0, 0)
  | 9 => (w 0, 0)
  | 10 => (if old = w 0 then w 1 else old, 0)
  | 11 => own (FloatOp.result ⟨8, 23⟩ c .add old (w 0) 0)
  | 12 => own (numberOf ⟨8, 23⟩ { c with flush := false } true old (w 0))
  | 13 => own (numberOf ⟨8, 23⟩ { c with flush := false } false old (w 0))
  | 14 =>
    let lo := FloatOp.result ⟨8, 7⟩ c .add (old % 65536) (w 0 % 65536) 0
    let hi := FloatOp.result ⟨8, 7⟩ c .add (old / 65536) (w 0 / 65536) 0
    own (lo.1 + 65536 * hi.1, lo.2 ||| hi.2)
  | _ => (if old = pair 0 then pair 2 else old, 0)

/-- A value is infinite or a NaN in the floating-point type of an atomic's op. -/
def atomInfinite (op : BitVec 4) (x : Nat) : Bool :=
  if op = 11 ∨ op = 12 ∨ op = 13 then allOnes ⟨8, 23⟩ x
  else decide (op = 14) && (allOnes ⟨8, 7⟩ (x % 65536) || allOnes ⟨8, 7⟩ (x / 65536))

/-- The flags of a lane of an atomic form: STEPOVF too when its operation raises OF or NV, or when it delivers an infinite or NaN value (04 R61; the model's reading, log entry 107: the value that ATOM delivers is the old one, RED delivers none). -/
def atomRaises (fl : BitVec 8) (op : BitVec 4) (delivered : Option Nat) : BitVec 8 :=
  if fl &&& (fOF ||| fNV) ≠ 0 ∨ (delivered.map (atomInfinite op)).getD false = true then fl ||| fSTEPOVF else fl

/-- The location of an atomic form: register, op code, order, scope, and whether it is ATOM. -/
def atomForm : Instr → Option (Nat × BitVec 4 × MemOrder × Scope × Bool)
  | .atom d _ o c r => some (d.toNat, o, memOrder r, memScope c, true)
  | .red d _ o c r => some (d.toNat, o, memOrder r, memScope c, false)
  | _ => none

/-- Two entries of ATOM.DET stand in the order of their keys: issuer, then seq (11 R236). -/
def keyOrder (a b : DetEntry) : Prop := a.issuer < b.issuer ∨ (a.issuer = b.issuer ∧ a.seq ≤ b.seq)

/-- A word once one entry of ATOM.DET has been added to it: an FP32 sum, or BF16 sums of both halves, rounded to nearest (11 R235, R237). -/
def detSum (v : Nat) (x : DetEntry) : Nat :=
  let y := x.value.toNat
  if x.bf then
    (FloatOp.result ⟨8, 7⟩ RndCtl.rne .add (v % 65536) (y % 65536) 0).1 + 65536 * (FloatOp.result ⟨8, 7⟩ RndCtl.rne .add (v / 65536) (y / 65536) 0).1
  else (FloatOp.result ⟨8, 23⟩ RndCtl.rne .add v y 0).1

/-- The first byte of a holding buffer's word. -/
def wordAddr (l : LineRef) (b : DetBuf) : Nat := l.key * 256 + b.off

/-- A team's DSYNC can merge a holding buffer into its word, on line l: the line is ready and free, no L1 holds it dirty, and it is reached by a cached translation or in the Prism, which no merge of another word changes (11 R237). -/
structure MergesAt (s : State) (tm : Team) (b : DetBuf) (l : LineRef) : Prop where
  ready : s.engineIa ((s.ctx? tm.ctx).getD Context.blank) (b.line.ia * 128) .engineWrite true = .ready l
  found : (((s.ctx? tm.ctx).getD Context.blank).podShared (b.line.ia * 128)).isSome = true ∨ (s.cached (b.line.ia * 128)).isSome = true
  free : s.isOwned l = false
  clean : s.registered l.ia = []

/-- A glint's exchange or compare-and-swap reaches the scratchpad, which it may not (12 R263). -/
def glintBar (i : Instr) (g g1 : Group) (p : Split) : Prop :=
  ∃ d a o c r l, i = .atom d a o c r ∧ g1.glint.isSome = true ∧ (o = 9 ∨ o = 10 ∨ o = 15) ∧ acts g g1 p l ∧ laneAddress i g1 p l / 2 ^ 56 = 1

/-! ### Traps and regions -/

/-- The causes after which RESUME is the next word (16 R325): SOFT_TRAP, SVC, BREAKPOINT, SINGLE_STEP. -/
def continues (cause : Byte) : Bool :=
  (decide (0x18 ≤ cause.toNat) && decide (cause.toNat ≤ 0x1F)) || cause = 0xB2 || cause = 0x12 || cause = 0x13

/-- The causes that report the grid whatever the handler is: column G of 16 R331. -/
def alwaysReports (cause : Byte) : Bool :=
  let n := cause.toNat
  n = 0x16 || (decide (0x30 ≤ n) && decide (n ≤ 0x3F)) || n = 0x6A || (decide (0xB4 ≤ n) && decide (n ≤ 0xBF) && n ≠ 0xB9 && n ≠ 0xBA)

/-- Precise causes that abort an open region and are reported to the handler (column Region of 16 R331). -/
def abortsRegion (cause : Byte) : Bool :=
  let n := cause.toNat
  decide (n ≤ 0x0F) || decide (n = 0x15) || decide (n = 0x17) || (decide (0x20 ≤ n) && decide (n ≤ 0x2F)) || (decide (0x40 ≤ n) && decide (n ≤ 0x4B))
    || (decide (0x50 ≤ n) && decide (n ≤ 0x63))

/-- Precise causes at which an open region aborts and replays with no trap, the mirror write and those of remote forms apart (column Region of 16 R331). -/
def replaysRegion (cause : Byte) : Bool :=
  let n := cause.toNat
  (decide (0x4C ≤ n) && decide (n ≤ 0x4E)) || decide (n = 0x6D) || decide (n = 0xAD) || decide (n = 0xAF)

/-- A group outside regions and handlers whose context c names a handler: a clause header that can be fetched, a frame whose line l can be written and that no engine owns; nothing outstanding that a trap waits for (16 R322, R323). -/
structure CanEnter (s : State) (k : Nat) (g : Group) (c : Context) (l : LineRef) : Prop where
  agent : s.group? k = some g
  group : g.glint = none
  region : g.region = none
  handler : g.handler = none
  ended : ∀ o ∈ g.pend, PendOp.sent o = false
  read : s.readsLeft k = []
  context : s.ctx? g.ctx = some c
  running : c.reported = none
  named : c.handler ≠ 0
  header : c.handler < 2 ^ 56 ∧ headerAt s k g (BitVec.ofNat 56 c.handler)
  frame : s.resolveScalar c (c.tfbase + 64 * g.pslot) .store false = .ok l
  free : s.isOwned l = false

/-- The 64 bytes of a trap frame (16 R325). -/
def trapFrame (cause : Byte) (attr slot seq fpc faddr lanes resume rpc origin detail : Nat) : List Byte :=
  [cause] ++ natLe attr 1 ++ natLe slot 1 ++ [0] ++ natLe seq 4 ++ natLe fpc 8 ++ natLe faddr 8 ++ natLe lanes 8 ++ natLe resume 8 ++ natLe rpc 8
    ++ natLe origin 8 ++ natLe detail 8

/-- The trap frame of a precise trap outside a region: ATTR says precise (16 R325). -/
def frameOf (cause : Byte) (slot : Nat) (seq : Nat) (fpc faddr lanes resume detail : Nat) : List Byte :=
  trapFrame cause 1 slot seq fpc faddr lanes resume 0 0 detail

/-- The group in its handler (16 R323): one split with every lane at HANDLER, no region; the splits, the meet stack and the flags of outstanding operations set aside; SEQ counted; results of its own accesses delivered first (R322). -/
def handlerGroup (g : Group) (c : Context) (slot : Nat) (next : Bool) : Group :=
  let h := g.finishThreads
  { h with
    seq := g.seq + 1
    handler := some
      { splits := g.splits.map fun q => if q.slot = slot ∧ next = true then { q with hints := q.hints.used } else q
        meet := g.meet
        lastSplit := g.lastSplit
        split := slot
        frame := BitVec.ofNat 64 (c.tfbase + 64 * g.pslot)
        region := none
        log := g.log
        replayPos := g.replayPos
        flags := h.pend.filterMap fun o => o.flag.map fun n => (o.id, n) }
    splits := [newSplit 0 (BitVec.ofNat 56 c.handler) g.allLanes none]
    meet := []
    lastSplit := 3
    buf := []
    log := []
    replayPos := 0
    stepDue := none
    pend := h.pend.map fun o => { o with flag := none } }

/-- What a trap entry leaves (16 R323, R325): the group in its handler, out of every wait order; memory, L1 lines, what is remembered of team releases and satisfied waits may differ, and the core sees the trap frame. -/
def Entered (s : State) (k slot : Nat) (g : Group) (c : Context) (l : LineRef) (cause : Byte) (pc : Pc) (faddr lanes resume detail : Nat) (t : State) : Prop :=
  t.group? k = some (handlerGroup g c slot (continues cause)) ∧
  (∀ k', k' ≠ k → t.group? k' = s.group? k') ∧
  t = { s with groups := t.groups, mem := t.mem, l1 := t.l1, teamRels := t.teamRels, waiters := t.waiters, metWaits := t.metWaits } ∧
  (cachesOk s → (c.tfbase + 64 * g.pslot) % 64 = 0 →
    coreSees t (k / 64) l ((c.tfbase + 64 * g.pslot) % 128) 64 =
      frameOf cause slot (g.seq + 1).toNat pc.toNat faddr lanes resume detail)

/-- The state once a grid is reported (16 R324, 22 R386): its context holds the cause, every group of it is stopped, the host is sent one fault message whose first payload byte is the cause. -/
def Reported (s : State) (ctx : Nat) (cause : Byte) (t : State) : Prop :=
  (∃ c, t.ctx? ctx = some c ∧ c.reported = some cause) ∧
  (∀ k g, t.group? k = some g → g.ctx = ctx → g.glint = none → g.stopped = true) ∧
  ∃ m, t.outbox = s.outbox ++ [m] ∧ m.opc = 0xFF ∧ m.ctx = BitVec.ofNat 32 ctx ∧ m.payload.head? = some cause

/-- No effect of the region's buffer waits, and none stands on a poisoned line (16 R315). -/
def CanCommit (s : State) (k : Nat) (g : Group) : Prop :=
  (∀ o ∈ g.pend, o.flag = none) ∧ s.commitWait k g = none ∧ ∀ b ∈ g.buf, s.entryPoisoned b = false

/-- Memory and flags: what the effects of a store buffer act on where no L1 stands between. -/
abbrev Effects := (Nat → Byte) × BitVec 8

/-- n bytes from an address, as a little-endian number. -/
def numberAt (m : Nat → Byte) (a n : Nat) : Nat := leNat ((List.range n).map fun i => m (a + i))

/-- Memory with bytes written from an address. -/
def written (m : Nat → Byte) (a : Nat) (bs : List Byte) : Nat → Byte := fun x => if a ≤ x ∧ x < a + bs.length then byteAt bs (x - a) else m x

/-- One buffered effect (11 R229 to R234, R232): a store writes its bytes, that of a record the two tag bits of its slot too; a reduction writes the new value and raises its flags. -/
def BufEntry.acts (e : BufEntry) (x : Effects) : Effects :=
  let base := e.line.key * 256
  match e.kind with
  | .store off bs none => (written x.1 (base + off) bs, x.2)
  | .store off bs (some (j, tag)) =>
    let m := written x.1 (base + off) bs
    let tags := numberAt m (base + 136) 2
    (written m (base + 136) (natLe (tags - tags / 4 ^ j % 4 * 4 ^ j + tag.toNat * 4 ^ j) 2), x.2)
  | .red off op ws mode sat flush =>
    let new := atomMeaning ⟨mode, 0, 32, sat, flush⟩ op (numberAt x.1 (base + off) (atomSize op)) ws
    (written x.1 (base + off) (natLe new.1 (atomSize op)), x.2 ||| atomRaises new.2 op none)
  | .det _ _ _ _ _ | .staged _ _ _ => x

/-- The shadow set of a region is one that its mask names: its maps are in canonical form and hold registers of the mask alone (16 R314). -/
def shadowFits (r : Region) : Prop :=
  keysRise none r.shadow.v = true ∧ keysRise none r.shadow.side = true ∧ keysRise none r.shadow.s = true ∧
  (∀ e ∈ r.shadow.v, r.mask.getLsbD (e.1 / 64 / 8) = true) ∧ (∀ e ∈ r.shadow.side, r.mask.getLsbD (e.1 / 2 / 8) = true) ∧
  ∀ e ∈ r.shadow.s, r.mask.getLsbD (16 + e.1 / 8) = true

/-- A region that has just been opened at the split's word with a live mask (16 R314). -/
def openedAt (g g' : Group) (p : Split) (slot : Nat) (m : BitVec 32) : Prop :=
  ∃ r, g'.region = some r ∧ r.rbeg = p.pc ∧ r.slot = slot ∧ r.mask = m ∧ r.issued = 0 ∧ r.replaying = false ∧
    g'.buf = [] ∧ g'.log = [] ∧ g'.replayPos = 0 ∧
    r.shadow.p = g.p ∧ r.shadow.xflags = g.xflags ∧ r.shadow.lscale = g.lscale ∧ r.shadow.seed = g.seed ∧
    (∀ x l, l < 64 → m.getLsbD (x / 8) = true → x < 128 → smGet 0 r.shadow.v (x * 64 + l) = g.vreg x l) ∧
    ∀ x, x < 128 → m.getLsbD (16 + x / 8) = true → smGet 0 r.shadow.s x = g.sreg x

/-- The live mask of RBEG and SAFE (17 R334). -/
def maskOfWord (p : Split) (m : BitVec 16) : BitVec 32 :=
  match p.hints.imm with
  | none => BitVec.ofNat 32 m.toNat
  | some h => BitVec.ofNat 32 (h.toNat % 2 ^ 16 * 2 ^ 16 + m.toNat)

/-! ### Engines -/

/-- The record and the completion record that a pair names lie aligned in the team's allocation, on present lines that are not poisoned, and the barrier that the word names has been initialised (14 R292). -/
structure EngineReady (s : State) (g : Group) (t : Team) (pair : BitVec 6) (bar : Option Nat) (rc rn cc cn : Nat) : Prop where
  aligned : (g.sreg (2 * pair.toNat)).toNat % 64 = 0 ∧ (g.sreg (2 * pair.toNat + 1)).toNat % 32 = 0
  record : t.line ((g.sreg (2 * pair.toNat)).toNat / 128) = some (rc, rn)
  comp : t.line ((g.sreg (2 * pair.toNat + 1)).toNat / 128) = some (cc, cn)
  present : (s.lineSt rc rn).present = true ∧ (s.lineSt cc cn).present = true
  sound : (s.lineSt rc rn).poisoned = false ∧ (s.lineSt cc cn).poisoned = false
  barrier : ∀ n, bar = some n → (t.barrier n).init = true

/-- The eight doublewords of the record that a pair names (14 R292). -/
def recordOf (s : State) (g : Group) (pair : BitVec 6) (rc rn : Nat) : List DWord :=
  (List.range 8).map fun j => BitVec.ofNat 64 (leNat (s.bytes (sramKey rc rn) ((g.sreg (2 * pair.toNat)).toNat % 128 + 8 * j) 8))

/-- An operation counts on the flag that its word selects until engine operation id ends (14 R289). -/
def countsOn (o : PendOp) (g : Group) (p : Split) (id : Nat) : Prop :=
  o.kind = .engine id ∧ o.flag = flagOf g p ∧ o.pc = p.pc ∧ o.vals = [] ∧ o.sides = [] ∧ o.xflags = 0

/-- A copy has just started: nothing has landed or failed, its record and its completion offset are those of its pair (14 R293 to R295). -/
structure Started (s : State) (g : Group) (t : Team) (pair : BitVec 6) (bar : Option Nat) (rc rn k : Nat) (c : CopyOp) : Prop where
  id : c.id = s.fresh
  place : c.key = k ∧ c.team = t.id ∧ c.ctx = t.ctx
  record : c.record = recordOf s g pair rc rn
  comp : c.recOff = (g.sreg (2 * pair.toNat + 1)).toNat
  barrier : c.bar = bar
  fresh : c.landed = [] ∧ c.sources = [] ∧ c.lines = 0 ∧ c.flags = 0

/-- The engine operation of a number is a copy. -/
def isCopy (s : State) (op : Nat) : Prop := s.mat? op = none ∧ s.coll? op = none

/-! ### The matrix array -/

/-- The operation that a matrix form queues: its tile and its kind (14 R304 to R309). -/
def queuedForm (i : Instr) (g : Group) : Option (Nat × MatKind) :=
  match i with
  | .mzero t => some (t.toNat, .zero)
  | .mlda t a => some (t.toNat, .load (g.sreg a.toNat))
  | .msta t a => some (t.toNat, .store (g.sreg a.toNat))
  | .mloop t a b => some (t.toNat, .loop (g.spair (2 * a.toNat)) (g.spair (2 * b.toNat)) (g.spair (2 * b.toNat + 2)) false)
  | .mdist t a b => some (t.toNat, .loop (g.spair (2 * a.toNat)) (g.spair (2 * b.toNat)) (g.spair (2 * b.toNat + 2)) true)
  | .mtopk t _ | .mepi t _ => some (t.toNat, .epilogue)
  | .mroute a => some (0, .route (BitVec.ofNat 64 ((g.sreg a.toNat).toNat / 2 ^ 31 * 2 ^ 63 + (g.sreg a.toNat).toNat % 64)))
  | _ => none

/-- The word passes the checks that its form makes at issue (13 R269, R281, 14 R304 to R309). -/
def queueChecks (i : Instr) (s : State) (e : Env) (t : Team) : Prop :=
  let g := e.g
  match i with
  | .mzero _ => True
  | .mlda _ a => tileWordTrap t (g.sreg a.toNat) .engineRead = none
  | .msta _ a => tileWordTrap t (g.sreg a.toNat) .engineWrite = none
  | .mloop _ a b => s.loopTrap e (g.spair (2 * a.toNat)) (g.spair (2 * b.toNat)) (g.spair (2 * b.toNat + 2)) false = none
  | .mdist _ a b =>
    s.loopTrap e (g.spair (2 * a.toNat)) (g.spair (2 * b.toNat)) (g.spair (2 * b.toNat + 2)) true = none ∧
      ∃ d, s.descriptor t (g.sreg (2 * b.toNat + 4)).toNat (lwTopk (g.spair (2 * b.toNat + 2))) true = .ok d
  | .mtopk _ a => ∃ d, s.descriptor t (g.sreg a.toNat).toNat true false = .ok d
  | .mepi _ a => ∃ d, s.descriptor t (g.sreg a.toNat).toNat false false = .ok d
  | .mroute a => (g.sreg a.toNat).toNat / 2 ^ 6 % 2 ^ 25 = 0
  | _ => False

/-- The array may perform a step of the operation now (13 R267, R274). -/
structure ArrayReady (s : State) (op : Nat) (o : MatOp) : Prop where
  queued : s.mat? op = some o
  runs : s.engineRuns o.ctx = true
  undone : o.arrayDone = false
  turn : s.arrayTurn o = true

/-- Accumulator elements outside a tile of a core are as they were. -/
def otherTiles (s t : State) (core tile : Nat) : Prop := ∀ key, key / 1024 ≠ core * 64 + tile → smGet 0 t.acc key = smGet 0 s.acc key

/-- The tile word's line of row i: base, pitch and rotation in bits [11:0], [23:12], [27:24] (14 R304). -/
def tileRow (w : Word) (i : Nat) : Nat := tileLine (bits w.toNat 0 12) (bits w.toNat 12 12) (bits w.toNat 24 4) i 0

/-! ### Converted rows (13 R282)

z is exact: a NaN, an infinity, or n / 2^298 with the sign of an exact zero; beside it, whether the operation is invalid or met a signalling NaN (02 R26). -/

inductive Exact where
  | nan
  | inf (neg : Bool)
  | num (n : Int) (neg : Bool)
  deriving DecidableEq, Repr

/-- The product of two FP32 patterns. -/
def Exact.product (x y : Nat) : Exact × Bool :=
  let f : Fmt := ⟨8, 23⟩
  let s := isNegative f x ^^ isNegative f y
  if isNaNBits f x || isNaNBits f y then (.nan, isSignalling f x || isSignalling f y)
  else if (isInfinite f x && decide (magnitude f y = 0)) || (isInfinite f y && decide (magnitude f x = 0)) then (.nan, true)
  else if isInfinite f x || isInfinite f y then (.inf s, false)
  else (.num (unitsOf f x * unitsOf f y) s, false)

/-- The sum with an FP32 pattern: an exact zero of terms of both signs is −0 only when rounding down. -/
def Exact.plus (mode : BitVec 3) (x : Exact × Bool) (y : Nat) : Exact × Bool :=
  let f : Fmt := ⟨8, 23⟩
  let t := isNegative f y
  let nv := x.2 || isSignalling f y
  if x.1 = .nan || isNaNBits f y then (.nan, nv)
  else
    match x.1 with
    | .nan => (.nan, nv)
    | .inf s => if isInfinite f y && (s ^^ t) then (.nan, true) else (.inf s, nv)
    | .num n s =>
      if isInfinite f y then (.inf t, nv)
      else
        let m := n + unitsOf f y * 2 ^ 149
        (.num m (if m ≠ 0 then decide (m < 0) else if s = t then s else decide (mode = 3)), nv)

/-- The value rounded once into a format, with its flags. -/
def Exact.rounded (f : Fmt) (c : RndCtl) (x : Exact × Bool) : Nat × BitVec 8 :=
  match x.1 with
  | .nan => (nanOf f, fSTEPOVF ||| if x.2 then fNV else 0)
  | .inf s => (infinityOf f s, fSTEPOVF ||| if x.2 then fNV else 0)
  | .num n s => Claims.rounded f c s n (298 - unitExp f)

/-- FP32 word j of a line of a team, 0 where the term is off. -/
def termAt (s : State) (tm : Team) (on : Bool) (line j : Nat) : Nat :=
  match tm.line line with
  | some (core, n) => if on then leNat (s.bytes (sramKey core n) (4 * j) 4) else 0
  | none => 0

/-- Element (i, j) of the tile that an epilogue retires: SCALE × acc + bias + rn + cn. -/
def retired (s : State) (tm : Team) (o : MatOp) (d : EpiDesc) (i j : Nat) : Exact × Bool :=
  [termAt s tm d.bias d.bline j, termAt s tm d.norm d.rline i, termAt s tm d.norm d.cline j].foldl (Exact.plus d.rm)
    (Exact.product d.scale (s.accGet o.core o.acc i j).toNat)

/-- The block that a row of values makes: a NaN block where one is a NaN or an infinity. -/
def retiredBlock (d : EpiDesc) (zs : List (Exact × Bool)) : BlockValue :=
  let xs := zs.filterMap fun z => match z.1 with
    | .num n s => some (n.natAbs, s)
    | .nan | .inf _ => none
  if xs.length = zs.length then quantisedValues 298 d.ocls d.otag d.rule (!d.nzc) (fun _ => ⟨d.rm, 0, 32, true, false⟩) xs
  else nanBlock d.otag

/-! ### The fabric -/

/-- A remote form: its kind, register, bytes per lane, order, operand words of a lane, the register that holds addresses and classes, whether it writes a register (20 R375). -/
structure FabricForm where
  kind : RemoteKind
  d : Nat
  bytes : Nat
  order : BitVec 2
  words : Nat
  q : Nat
  returns : Bool

/-- The remote forms. -/
def fabricForm : Instr → Option FabricForm
  | .rld d q r z => some ⟨.rld, d.toNat, sizeBytes z.toNat, r, 0, q.toNat, true⟩
  | .rst d q r z => some ⟨.rst, d.toNat, sizeBytes z.toNat, r, if z = 5 then 2 else 1, q.toNat, false⟩
  | .ratom d q o r => some ⟨.ratom, d.toNat, atomSize o, r, atomWords o, q.toNat, true⟩
  | _ => none

/-- Address and class of a lane: the pair v(4q) and v(4q+2) (20 R374). -/
def remoteAddress (g : Group) (q l : Nat) : Nat := laneOf g.v true (4 * q) l
def remoteClass (g : Group) (q l : Nat) : Nat := laneOf g.v false (4 * q + 2) l

/-- A lane of a remote form passes its checks: aligned, below 2^56 and outside the fixed windows' top, its class one of 3 to 63 with a valid routing entry (19 R353, 20 R375). -/
def remoteLane (c : Context) (g : Group) (q n l : Nat) : Prop :=
  remoteAddress g q l % n = 0 ∧ remoteAddress g q l < 2 ^ 56 ∧ remoteAddress g q l / 2 ^ 48 ≠ 0xFF ∧
    3 ≤ remoteClass g q l ∧ remoteClass g q l < 64 ∧ bit (c.route (remoteClass g q l)) 63 = true

/-- The cost of a pass of so many lanes (19 R360). -/
def passCost (f : FabricForm) (lanes : Nat) : Nat :=
  let w := match f.kind with
    | .rld => 0
    | .rst => lanes * f.bytes
    | .ratom => 8 * lanes
  1 + (w + 63) / 64

/-- The first byte that a lane of a peer's request names, on the line that it reaches. -/
def peerByte (x : RemoteLane × LineRef) : Nat := x.2.key * 256 + x.1.addr.toNat % 128

/-- The value that a lane of RST stores. -/
def peerStored (l : RemoteLane) : Nat := (l.data.getD 0 0).toNat + 2 ^ 32 * (l.data.getD 1 0).toNat

/-- Memory after the lanes of a peer's stores, in order (20 R375). -/
def peerStores (n : Nat) (m : Nat → Byte) (ls : List (RemoteLane × LineRef)) : Nat → Byte :=
  ls.foldl (fun m x => written m (peerByte x) (natLe (peerStored x.1) n)) m

/-- Memory after the lanes of a peer's atomics, in order, their old values, and the flags that they raise (20 R375, R376; log entry 107). -/
def peerAtomics (q : RemoteReq) (m : Nat → Byte) : List (RemoteLane × LineRef) → (Nat → Byte) × List Nat × BitVec 8
  | [] => (m, [], 0)
  | x :: r =>
    let op := BitVec.ofNat 4 q.op
    let old := numberAt m (peerByte x) q.size
    let new := atomMeaning ⟨q.mode, 0, 32, false, false⟩ op old x.1.data
    let rest := peerAtomics q (written m (peerByte x) (natLe new.1 q.size)) r
    (rest.1, old :: rest.2.1, atomRaises new.2 op (some old) ||| rest.2.2)

/-- A failed pass of a group in an open region makes the region replay: its context allows another retry, nothing else of the group keeps the trap waiting (19 R355, 16 R318). -/
structure RemoteReplays (s : State) (x : Pass) (g : Group) (r : Region) (c : Context) : Prop where
  only : s.passes = [x]
  sent : x.failed = none ∧ x.answer = none
  live : s.group? x.key = some g ∧ (∃ o ∈ g.pend, o.kind = .remote x.run)
  group : g.glint = none ∧ g.stopped = false
  region : g.region = some r
  ctx : s.ctx? g.ctx = some c
  retry : g.remoteFails < c.rretry
  frame : ∀ l, s.resolveScalar c (c.tfbase + 64 * g.pslot) .store false = .ok l → s.isOwned l = false
  handler : s.fetchOwned c c.handler = none
  kind : x.req.kind ≠ .ratom

/-- The region of a group has been aborted for a remote failure of pass x and is to be replayed once a port towards its class is up (16 R318). -/
def ReplaysRemote (x : Pass) (g : Group) (r : Region) (t : State) : Prop :=
  t.passes = [] ∧ ∃ g', t.group? x.key = some g' ∧ g'.region = some { r with issued := 0, replaying := true } ∧ g'.replay = some (.remote x.cls) ∧
    g'.remoteFails = g.remoteFails + 1 ∧ g'.buf = []

/-- The level of an allowance register: SHORT below 17, LOW below its mark, else OPEN (19 R361). -/
def levelMet (a : Allowance) (cond : BitVec 2) : Bool :=
  let short := decide (a.value.toNat < 17)
  let low := !short && decide (a.value.toNat < a.low.toNat)
  (cond = 0 && !short && !low) || (cond = 1 && low) || (cond = 2 && short) || (cond = 3 && (short || low))

/-! ### Launches and events of groups -/

/-- An agent other than a glint in region r, outside handlers, whose context c names a handler: as `CanEnter`, with no remote atomic outstanding, which an abort waits for (16 R318, R323). -/
structure CanAbort (s : State) (k : Nat) (g : Group) (r : Region) (c : Context) (l : LineRef) : Prop where
  agent : s.group? k = some g
  group : g.glint = none
  region : g.region = some r
  handler : g.handler = none
  atomics : s.atomicsOut k = false
  context : s.ctx? g.ctx = some c
  running : c.reported = none
  named : c.handler ≠ 0
  header : c.handler < 2 ^ 56 ∧ headerAt s k g (BitVec.ofNat 56 c.handler)
  frame : s.resolveScalar c (c.tfbase + 64 * g.pslot) .store false = .ok l
  free : s.isOwned l = false

/-- The group is in its handler (16 R323): one split of every lane at HANDLER, no region open, nothing buffered. -/
def inHandler (g g' : Group) (c : Context) (a : SetAside) : Prop :=
  g'.handler = some a ∧ g'.splits = [newSplit 0 (BitVec.ofNat 56 c.handler) g.allLanes none] ∧ g'.meet = [] ∧ g'.region = none ∧ g'.buf = [] ∧
    g'.seq = g.seq + 1

/-- The frame that the group's core sees (16 R325). -/
def frameSeen (s t : State) (k : Nat) (g : Group) (c : Context) (l : LineRef) (bs : List Byte) : Prop :=
  cachesOk s → (c.tfbase + 64 * g.pslot) % 64 = 0 → coreSees t (k / 64) l ((c.tfbase + 64 * g.pslot) % 128) 64 = bs

/-- The agent's next word is that of split p (07 R143). -/
def stands (s : State) (k : Nat) (g : Group) (p : Split) : Prop := s.group? k = some g ∧ (s.issueSlot k g).bind g.split? = some p

/-- A table of 32 entries at u divides a mirrored 2 MiB page at pa into blocks: block i is writable, the others stay mirrored (19 R370). -/
def blocksOf (t : State) (die u pa i : Nat) : Prop :=
  ∀ j < 32, t.pte die u j = if j = i then leafWritable (pa + j * 2 ^ 16) else leafMirrored (pa + j * 2 ^ 16)

/-- A table of n bytes at u that a split takes: aligned, an address of 09 R186, and apart from m bytes at a. -/
def freshTable (u n a m : Nat) : Prop := u % 256 = 0 ∧ u + n ≤ 2 ^ 37 ∧ (a + m ≤ u ∨ u + n ≤ a)

/-- A launch of a context is accepted with this record and argument block (07 R151, R152). -/
structure Accepts (s : State) (k : Nat) (g : Group) (c : Context) (va : Nat) (spawn : Bool) (l : LineRef) (r : List DWord) (args : List Byte) : Prop where
  aligned : va % 128 = 0
  reached : s.resolveScalar c va .load false = .ok l
  accepted : ∃ bs s2 s3, (s.flushCore (k / 64)).readRange c (some (k / 64)) va 128 = .ok bs s2 ∧ r = dwords bs 16 ∧
    s2.acceptRecord c (some (k / 64)) r spawn = .ok args s3

/-- IND of a launch record (07 R151). -/
def isIndirect (r : List DWord) : Bool := LaunchRec.ind r

/-! ### The host port and the device -/

/-- A command of the host that the device takes up: it has booted, the header is well-formed and names what the command asks for, and the context is neither being freed nor being pre-empted (22 R386, R387, R390). -/
structure Received (s : State) (m : HostMsg) (opc : Byte) (device : Bool) : Prop where
  booted : s.booted = true
  opc : m.opc = opc
  whom : if device then m.ctx = 0 else m.ctx ≠ 0
  zero : m.cause = 0 ∧ m.rsv = 0
  length : m.len.toNat = m.payload.length ∧ m.payload.length ≤ 65536
  waits : ∀ c, s.ctx? m.ctx.toNat = some c → c.freeing = false ∧ c.preempting = none

/-- The response to a command: its OPC with bit 7 set, its SEQ and CTX (22 R386). -/
def responseTo (m : HostMsg) (status cause : Byte) (payload : List Byte) : HostOut := ⟨m.opc ||| 0x80, status, m.seq, m.ctx, cause, payload⟩

/-- The device answers a command, and nothing else happens. -/
def answered (s : State) (m : HostMsg) (status cause : Byte) (payload : List Byte) : State :=
  { s with outbox := s.outbox ++ [responseTo m status cause payload] }

/-- A little-endian field of a command's payload. -/
def field (m : HostMsg) (off n : Nat) : Nat := leNat (slice m.payload off n)

/-- A context of the command's number that has not been reported. -/
def Names (s : State) (m : HostMsg) (c : Context) : Prop := s.ctx? m.ctx.toNat = some c ∧ c.reported = none

/-- A counter of a die has counted one event more, up to 2^32 − 1 (22 R393). -/
def counted (s t : State) (die n : Nat) : Prop :=
  (smGet 0 t.counters (die * 16 + n)).toNat = min (2 ^ 32 - 1) ((smGet 0 s.counters (die * 16 + n)).toNat + 1) ∧
  ∀ x, x ≠ die * 16 + n → smGet 0 t.counters x = smGet 0 s.counters x

/-- Every context of a set that was not reported before is reported with a cause (16 R324). -/
def allReported (s t : State) (ns : Nat → Prop) (cause : Byte) : Prop :=
  ∀ n c, ns n → s.ctx? n = some c → c.reported = none →
    (∃ c', t.ctx? n = some c' ∧ c'.reported = some cause) ∧
    ∃ m ∈ t.outbox, m.opc = 0xFF ∧ m.ctx = BitVec.ofNat 32 n ∧ m.payload.head? = some cause

/-- The context is resident: a team of it is on a core. -/
def resident (s : State) (n : Nat) : Prop := ∃ x ∈ s.teams, x.ctx = n

/-- A power trip whose sampling period has not ended still owes the context its report (23 R398; log entry 118). -/
def owesPower (s : State) (n : Nat) : Bool :=
  match s.tripped with
  | some x => !x.thermal && x.due.contains n
  | none => false

/-- An allowance register once CAP and LOW have been written (19 R359). -/
def rewrittenTo (a b : Allowance) (cap low : Nat) (outstanding : Bool) : Prop :=
  b.cap.toNat = cap ∧ b.low.toNat = low ∧
  (outstanding = false → b.value.toNat = cap) ∧
  (outstanding = true → cap ≤ a.cap.toNat → b.value = a.value) ∧
  (outstanding = true → a.cap.toNat < cap → b.value = a.value + BitVec.ofNat 16 (cap - a.cap.toNat))

end Sys2Proof.Claims
end

