-- ==== Sys2Proof/Certificates/Slice0/Obligations.lean ====
section
/-! DEFINITION. The statements for the provers. -/

open Sys2Proof Sys2Proof.Machine Sys2Proof.Claims

/-! ### Encoding, decoding, the step, reset -/

/-- Decode and encode agree: for every instruction word that is well formed, at every value of its operands, with VER 00 or 01 and either SC (SC 0 in the words whose SC is reserved), the encoder gives a word, and the decoder reads the same instruction, VER and SC from it (05 R72 to R91). -/
def Obligations.DecodeEncode : Prop :=
  ∀ f : Fetched, f.ver.toNat < 2 → f.instr.isWord = true → f.instr.wf = true → (scReserved f.instr = true → f.sc = 0) →
    ∃ w, encodeWord f = some w ∧ decodeWord w = .ok f

/-- Every word that the decoder takes is the encoding of what it reads: no word of another bit pattern decodes to the same instruction, VER and SC, and no bit of a word is left unread (05 R74, R78). -/
def Obligations.EncodeDecode : Prop :=
  ∀ (w : Word) (f : Fetched), decodeWord w = .ok f → encodeWord f = some w

/-- Words written out from the encodings of 05 R78 to R91, one of each shape: what the decoder reads from them. -/
def Obligations.DecodeSamples : Prop :=
  decodeWord 0b00_0_000000_0000101_0001010_0010100_10#32 = .ok ⟨0, 0, .iadd 5 10 20 2⟩
  ∧ decodeWord 0b00_0_001000_0000001_0000010_0000011_11#32 = .ok ⟨0, 0, .andn 1 2 3⟩
  ∧ decodeWord 0b00_0_010000_0000110_0001010_0010100_11#32 = .ok ⟨0, 0, .ffma 6 10 20⟩
  ∧ decodeWord 0b00_1_011100_00011_1_000000101_00001001#32 = .ok ⟨0, 1, .brd 3 1 5 9⟩
  ∧ decodeWord 0b00_0_101010_0000110_0001010_0_10_011_011#32 = .ok ⟨0, 0, .ld 6 10 2 3 3⟩
  ∧ decodeWord 0b00_0_101101_0000110_0001010_0100_011_10#32 = .ok ⟨0, 0, .atom 6 10 4 3 2⟩
  ∧ decodeWord 0b00_0_11000000001_000110_0001010_0100_0#32 = .ok ⟨0, 0, .cpym 6 10 4⟩
  ∧ decodeWord 0b00_0_11010000011_000110_001010_010100#32 = .ok ⟨0, 0, .mloop 6 10 20⟩
  ∧ decodeWord 0b00_0_11100000000_0000110_00110_10_011_0#32 = .ok ⟨0, 0, .rld 6 6 2 3⟩
  ∧ decodeWord 0b01_0_11110000101_000110_0001010_00000#32 = .ok ⟨1, 0, .launch 6 10⟩
  ∧ decodeWord 0b00_0_1111000111000_0000000100000111#32 = .ok ⟨0, 0, .svc 263⟩
  ∧ decodeWord 0b00_0_11111011_1_010_1_0_10_1_1_00000000000#32 = .ok ⟨0, 0, .hmod 1 2 1 0 2 1 1⟩
  ∧ decodeWord 0b00_0_111111_100000000001_0011_0111_0_1_0#32 = .ok ⟨0, 0, .clh 2049 3 7 1 0⟩
  ∧ decodeWord 0b00_0_11110010101_0000110_0_0100_000000#32 = .error (.reserved (.flrd 6))
  ∧ decodeWord 0b11_0_000000_0000000_0000000_0000000_00#32 = .error .schedVer

/-- A word that matches no assigned encoding traps at its issue, with the cause that its failure has: 0x08 for the VER field, 0x00 for the major opcode, 0x01 for a function value (05 R73, R74, R78). -/
def Obligations.IllegalWordsTrap : Prop :=
  ∀ (s : State) (w : Word) (k slot : Nat) (g : Group) (p : Split),
    s.focus = some (k, slot) → s.group? k = some g → g.split? slot = some p →
    (decodeWord w = .error .schedVer →
      exec (.illegalOpcode w) s = .next (s.wordTrap k slot p.pc (activeLanes g p) (trapOf 0x08)))
    ∧ (decodeWord w = .error .major →
      exec (.illegalOpcode w) s = .next (s.wordTrap k slot p.pc (activeLanes g p) (trapOf 0x00)))
    ∧ (decodeWord w = .error .function →
      exec (.illegalOpcode w) s = .next (s.wordTrap k slot p.pc (activeLanes g p) (trapOf 0x01)))

/-- A step runs the decoded instruction: when the next action is the issue of a quadrant that stands before a word, and the word at the PC decodes to an instruction, the step is that instruction's exec with the split in focus; around it the issue is marked, the word is counted, the split becomes the one that issued last, a word that found its allowance short leaves the cycle to another agent, and the device settles. A split at its kernel's entry point runs no word but a clause header: any other traps CLAUSE_ENTRY 0x0C (04 R66). -/
def Obligations.StepRunsDecodedInstruction : Prop :=
  ∀ (s : State) (core q k : Nat) (g : Group) (p : Split) (w : Word) (f : Fetched) (rest : List Action),
    s.agenda = .issue core q :: rest → Issues (popped s) core q k g p →
    (popped s).fetchWord core ((popped s).ctxOf g) p.pc.toNat = .ok w → decodeWord w = .ok f →
    (∀ t, (p.starts = true → ∃ m a b c n, f.instr = .clh m a b c n) →
      exec f.instr ((popped s).ready core q k g p ((popped s).ctxOf g)) = .next t →
      let u := t.wordDone k g p (activeLanes g p) (f.ver = 0 && f.sc = 1)
      ((∀ h, u.group? k = some h → h.allowanceSlot = none ∨ g.allowanceSlot.isSome = true) → step s = .next u.settle)
      ∧ (∀ h, u.group? k = some h → h.allowanceSlot.isSome = true → g.allowanceSlot = none →
        step s = .next (State.settle { u with quads := s.quads, groups := u.groups.map fun e =>
          if e.1 = k then (e.1, { e.2 with readyAt := g.readyAt, eligible := none, promoted := g.promoted, lastSplit := g.lastSplit }) else e })))
    ∧ (p.starts = true → (∀ m a b c n, f.instr ≠ .clh m a b c n) →
      step s = thenDo State.settle ((popped s).unlessShort k g
        (.next ((popped s).wordTrap k p.slot p.pc (activeLanes g p) (trapAt 0x0C p.pc.toNat)))))

/-- What the machine is right after reset. As the spec gives it: no context, grid, team or group exists, no bind record is valid, every page-table root is off, no line is poisoned, every accumulator is +0, the device number and the counters are 0, %clock and %time are 0, and the send allowances are 256, 64, 256. As the model chooses, for the spec gives neither: memory that nothing has written reads 0 before boot (log entry 3), and no translation is cached (log entry 4). -/
def Obligations.ResetValues : Prop :=
  State.reset.ctxs = [] ∧ State.reset.grids = [] ∧ State.reset.teams = [] ∧ State.reset.groups = [] ∧ State.reset.launches = []
  ∧ (∀ die i, bit (State.reset.slot die i 0) 63 = false) ∧ (∀ die, smGet 0 State.reset.ptroot die = 0) ∧ State.reset.tlb = []
  ∧ (∀ key, memGet State.reset.mem key = 0) ∧ State.reset.poison = []
  ∧ (∀ cell, smGet 0 State.reset.acc cell = 0) ∧ (∀ n, smGet 0 State.reset.counters n = 0)
  ∧ State.reset.devno = 0 ∧ State.reset.cycles = 0 ∧ State.reset.nanos = 0
  ∧ ∀ core cls, State.reset.allowance core cls = ⟨256, 64, 256⟩

/-- The invariants that steps keep hold at reset: memory is in canonical form, and each L1 copy is a whole line. That no L1 holds a line at reset is the model's choice, which the spec does not give (log entry 4). -/
def Obligations.ResetMemoryCanonical : Prop := State.reset.memOk ∧ State.reset.l1 = [] ∧ cachesOk State.reset

/-- Every step keeps memory in its canonical form: addresses rise, and no listed byte is what an unlisted address reads. -/
def Obligations.StepKeepsMemory : Prop :=
  ∀ s t : State, s.memOk → step s = .next t → t.memOk

/-- Every step keeps each L1 copy of a line a whole line: 128 payload bytes, 8 of penumbra, 2 of tags (03 R42). -/
def Obligations.StepKeepsCaches : Prop :=
  ∀ s t : State, cachesOk s → step s = .next t → cachesOk t

/-! ### Vector and scalar words -/

/-- Completion and frame of the vector words of fixed latency (`vectorDest` names them: IADD to IMAX, IABS, INEG, the logic, shift, bit-field, select and move forms, vector MOVS, LEA, AADD, FADD to FNEG, the packed forms, SHFL, FLICK, FSR, vector CVT): with some active lane the word completes; only the active lanes of its destination registers change, %flags gains bits and loses none, the PC advances, and every other part of the state is as it was (06 R99). -/
def Obligations.VectorWordsComplete : Prop :=
  ∀ (s : State) (i : Instr) (k slot : Nat) (g : Group) (p : Split) (d n : Nat),
    Poised s i k slot g p → vectorDest i = some (d, n) → activeLanes g p ≠ 0 →
    ∃ (v : SMap Word) (x : BitVec 8), exec i s = .next (after s k slot (vectorResult g v x)) ∧
      vectorFrame g v (activeLanes g p) d n ∧ (vectorSilent i = true → x = 0)

/-- Completion and frame of the scalar-pipeline words (`scalarDest` names them: SADD to SSHR, SCMP, SMOV, SRD, scalar MOVS, VOTE, REDG, EXRD, FLRD, FLRD.cnt, scalar CVT): a word that takes effect completes; only its destination registers change, %flags gains bits and loses none, the PC advances, and every other part of the state is as it was (04 R57, 06 R121). -/
def Obligations.ScalarWordsComplete : Prop :=
  ∀ (s : State) (i : Instr) (k slot : Nat) (g : Group) (p : Split) (d n : Nat),
    Poised s i k slot g p → scalarDest i = some (d, n) → scalarRuns g p →
    ∃ (r : SMap Word) (x : BitVec 8), exec i s = .next (after s k slot (scalarResult g r x)) ∧
      scalarFrame g r d n ∧ (scalarSilent i = true → x = 0)

/-- A word that takes no effect: a vector word with no active lane, a guarded scalar word whose guard no lane satisfies. It only advances the PC (04 R57). -/
def Obligations.WordsWithoutEffect : Prop :=
  ∀ (s : State) (i : Instr) (k slot : Nat) (g : Group) (p : Split), Poised s i k slot g p →
    ((vectorDest i).isSome = true → activeLanes g p = 0 →
      exec i s = .next (s.mapSplit k slot Split.advance))
    ∧ ((scalarDest i).isSome = true → ¬ scalarRuns g p →
      exec i s = .next (s.mapSplit k slot Split.advance))

/-- Compares complete: ICMP and FCMP write their destination predicate in the active lanes alone, nothing else changes but %flags under FCMP; the bit is the relation of the two elements in their type, where −0 equals +0 and a NaN is unordered; FCMP raises NV for a signalling NaN, and for a quiet one under LT and LE (06 R104, R105, 02 R26). SCMP of .f32 and .f64 writes 1 or 0 in the same way (06 R122). -/
def Obligations.CompareWords : Prop :=
  ∀ (s : State) (k slot : Nat) (g : Group) (p : Split) (d : BitVec 5) (a b : BitVec 7),
    (activeLanes g p ≠ 0 →
      (∀ r t : BitVec 2, Poised s (.icmp d a b r t) k slot g p →
        ∃ q, exec (.icmp d a b r t) s = .next (after s k slot (g.setP d.toNat q)) ∧
          comparePred g (activeLanes g p) d.toNat (fun l =>
            let n := if t = 2 ∨ t = 3 then 64 else 32
            relates r (asInt (t = 0 || t = 2) n (laneOf g.v (t = 2 || t = 3) a.toNat l))
              (asInt (t = 0 || t = 2) n (laneOf g.v (t = 2 || t = 3) b.toNat l))) q)
      ∧ ∀ r : BitVec 3, Poised s (.fcmp d a b r) k slot g p →
        let outcome := fun l => floatRelates ⟨8, 23⟩ (roundingOf p) r.toNat (g.vreg a.toNat l).toNat (g.vreg b.toNat l).toNat
        ∃ q x, exec (.fcmp d a b r) s = .next (after s k slot ((g.setP d.toNat q).raise x)) ∧
          comparePred g (activeLanes g p) d.toNat (fun l => (outcome l).1) q ∧
          raisedBy g p (fun l => if (outcome l).2 then fNV ||| fSTEPOVF else 0) x)
    ∧ ∀ r t : BitVec 2, 2 ≤ t.toNat → Poised s (.scmp d a b r t) k slot g p → scalarRuns g p →
      let wide := decide (t = 3)
      let outcome := floatRelates (if wide then ⟨11, 52⟩ else ⟨8, 23⟩) (roundingOf p) r.toNat (scalarNat g.s wide a.toNat) (scalarNat g.s wide b.toNat)
      exec (.scmp d a b r t) s = .next (after s k slot ((g.setS d.toNat (if outcome.1 then 1 else 0)).raise
        (if outcome.2 then fNV ||| fSTEPOVF else 0)))

/-- Results of the integer forms of R101 and R103. In every active lane t is the exact value of the form's row: with SAT it is clamped into the range of the type, SAT being raised when a lane was clamped; without it, or in a form that ignores it, the element is t modulo 2^N and no flag is raised (06 R102). -/
def Obligations.IntegerResults : Prop :=
  ∀ (s : State) (i : Instr) (k slot : Nat) (g : Group) (p : Split) (f : IntForm),
    Poised s i k slot g p → intForm i = some f → activeLanes g p ≠ 0 →
    ∃ (v : SMap Word) (x : BitVec 8), exec i s = .next (after s k slot (vectorResult g v x)) ∧
      (∀ l, l < g.width → l < 64 → hasLane (activeLanes g p) l = true →
        let n := if f.wide then 64 else 32
        if f.clamps && satHint p then
          asInt f.signed n (laneOf v f.wide f.d l) = max (leastInt f.signed n) (min (greatestInt f.signed n) (f.value g l))
        else (laneOf v f.wide f.d l : Int) = f.value g l % 2 ^ n) ∧
      x = if (f.clamps && satHint p) = true ∧ ∃ l, l < g.width ∧ l < 64 ∧ hasLane (activeLanes g p) l = true ∧
            (f.value g l < leastInt f.signed (if f.wide then 64 else 32) ∨ greatestInt f.signed (if f.wide then 64 else 32) < f.value g l)
          then fSAT else 0

/-- Results of the logic, shift and bit-count forms: in every active lane the element written is what its row of R107 says; no flag is raised. Results of the moves and the address forms: MOV, MOVI, MOV from a scalar, LEA and AADD write in every active lane the value of R109 and R111, modulo the width of the destination; they raise no flag. -/
def Obligations.LogicAndMoveResults : Prop :=
  (∀ (s : State) (i : Instr) (k slot : Nat) (g : Group) (p : Split) (d a b : Nat),
      Poised s i k slot g p → logicForm i = some (d, a, b) → activeLanes g p ≠ 0 →
      ∃ v : SMap Word, exec i s = .next (after s k slot (vectorResult g v 0)) ∧
        ∀ l, l < g.width → hasLane (activeLanes g p) l = true →
          logicHolds i (g.vreg a l) (g.vreg b l) (smGet 0 v (d * 64 + l)))
  ∧ (∀ (s : State) (i : Instr) (k slot : Nat) (g : Group) (p : Split),
      Poised s i k slot g p → (moveForm i g p 0).isSome = true → activeLanes g p ≠ 0 →
      ∃ v : SMap Word, exec i s = .next (after s k slot (vectorResult g v 0)) ∧
        ∀ l d wide x, l < g.width → hasLane (activeLanes g p) l = true → moveForm i g p l = some (d, wide, x) →
          (laneOf v wide d l : Int) = x % (if wide then 2 ^ 64 else 2 ^ 32))

/-- Bit fields (06 R108). With pos = b[4:0], len = b[13:8] and L the smaller of len and 32 − pos: BFX delivers the field of L bits from pos, extended with zeros, or in .i32 with copies of its top bit; BFI replaces those bits of d by the low L bits of a and keeps the others. Bit operations on FP32 (02 R26, 06 R106, R112): ISEL and FSEL move the element of a to d where the predicate xor g is 1, and keep d elsewhere; FABS clears and FNEG inverts the sign bit; none raises a flag, even for a signalling NaN. -/
def Obligations.BitAndSelectResults : Prop :=
  (∀ (s : State) (k slot : Nat) (g : Group) (p : Split) (d a b : BitVec 7), activeLanes g p ≠ 0 →
      let pos := fun l => (g.vreg b.toNat l).toNat % 32
      let len := fun l => min ((g.vreg b.toNat l).toNat / 256 % 64) (32 - pos l)
      (∀ t : BitVec 1, Poised s (.bfx d a b t) k slot g p →
        ∃ v : SMap Word, exec (.bfx d a b t) s = .next (after s k slot (vectorResult g v 0)) ∧
          ∀ l, l < g.width → hasLane (activeLanes g p) l = true → ∀ j < 32,
            (smGet 0 v (d.toNat * 64 + l)).getLsbD j =
              if j < len l then (g.vreg a.toNat l).getLsbD (pos l + j)
              else decide (t = 1) && decide (0 < len l) && (g.vreg a.toNat l).getLsbD (pos l + len l - 1))
      ∧ (Poised s (.bfi d a b) k slot g p →
        ∃ v : SMap Word, exec (.bfi d a b) s = .next (after s k slot (vectorResult g v 0)) ∧
          ∀ l, l < g.width → hasLane (activeLanes g p) l = true → ∀ j < 32,
            (smGet 0 v (d.toNat * 64 + l)).getLsbD j =
              if pos l ≤ j ∧ j < pos l + len l then (g.vreg a.toNat l).getLsbD (j - pos l) else (g.vreg d.toNat l).getLsbD j))
  ∧ (∀ (s : State) (i : Instr) (k slot : Nat) (g : Group) (p : Split) (d a : BitVec 7),
      Poised s i k slot g p → activeLanes g p ≠ 0 →
      (∀ (q : BitVec 5) (neg : BitVec 1), i = .isel d a q neg ∨ i = .fsel d a q neg →
        ∃ v : SMap Word, exec i s = .next (after s k slot (vectorResult g v 0)) ∧
          ∀ l, l < g.width → l < 64 → hasLane (activeLanes g p) l = true →
            smGet 0 v (d.toNat * 64 + l) =
              if ((g.preg q.toNat).getLsbD l ^^ decide (neg = 1)) = true then g.vreg a.toNat l else g.vreg d.toNat l)
      ∧ (i = .fabs d a ∨ i = .fneg d a →
        ∃ v : SMap Word, exec i s = .next (after s k slot (vectorResult g v 0)) ∧
          ∀ l, l < g.width → hasLane (activeLanes g p) l = true →
            ∀ j < 32, (smGet 0 v (d.toNat * 64 + l)).getLsbD j =
              if j = 31 then decide (i = .fneg d a) && !(g.vreg a.toNat l).getLsbD 31 else (g.vreg a.toNat l).getLsbD j))

/-- Results of floating point (02 R25 to R33, 04 R61). FADD, FSUB, FMUL and FFMA, the packed forms on both halves of an element, and SADD, SSUB and SMUL of .f32 and .f64 deliver the exact result rounded once under the word's mode, SAT and FLUSH; a NaN operand, the addend of an FFMA among them, or an invalid operation gives the default NaN, a signalling NaN or an invalid operation raising NV; an infinite operand gives its infinity; the flags of the active lanes are raised together, STEPOVF with them. FMIN, FMAX, HMIN2 and HMAX2 are minimumNumber and maximumNumber (06 R112, R116). CVT, between integers, floats and both, converts as 06 R118 says; FSR converts FP32 by stochastic rounding with the word of flicker, and FLICK delivers that word (06 R119, R120). -/
def Obligations.FloatResults : Prop :=
  (∀ (s : State) (i : Instr) (k slot : Nat) (g : Group) (p : Split) (d a b : BitVec 7), Poised s i k slot g p → activeLanes g p ≠ 0 →
      let c := roundingOf p
      let x := fun l => (g.vreg a.toNat l).toNat
      let y := fun l => (g.vreg b.toNat l).toNat
      let z := fun l => (g.vreg d.toNat l).toNat
      let fmt := fun t : BitVec 1 => (if t = 0 then ⟨5, 10⟩ else ⟨8, 7⟩ : Fmt)
      let both := fun (f : Nat → Nat → Nat → Nat × BitVec 8) (x y z : Nat) =>
        let lo := f (x % 65536) (y % 65536) (z % 65536)
        let hi := f (x / 65536) (y / 65536) (z / 65536)
        (lo.1 + 65536 * hi.1, lo.2 ||| hi.2)
      ∀ f : Nat → Nat → Nat → Nat × BitVec 8,
        (i = .fadd d a b ∧ f = FloatOp.result ⟨8, 23⟩ c .add) ∨ (i = .fsub d a b ∧ f = FloatOp.result ⟨8, 23⟩ c .sub) ∨
        (i = .fmul d a b ∧ f = FloatOp.result ⟨8, 23⟩ c .mul) ∨ (i = .ffma d a b ∧ f = FloatOp.result ⟨8, 23⟩ c .fma) ∨
        (i = .fmin d a b ∧ f = fun x y _ => numberOf ⟨8, 23⟩ c true x y) ∨ (i = .fmax d a b ∧ f = fun x y _ => numberOf ⟨8, 23⟩ c false x y) ∨
        (∃ t, (i = .hadd2 t d a b ∧ f = both (FloatOp.result (fmt t) c .add)) ∨ (i = .hmul2 t d a b ∧ f = both (FloatOp.result (fmt t) c .mul)) ∨
          (i = .hfma2 t d a b ∧ f = both (FloatOp.result (fmt t) c .fma)) ∨
          (i = .hmin2 t d a b ∧ f = both fun x y _ => numberOf (fmt t) c true x y) ∨
          (i = .hmax2 d a b t ∧ f = both fun x y _ => numberOf (fmt t) c false x y)) →
        ∃ (v : SMap Word) (fl : BitVec 8), exec i s = .next (after s k slot (vectorResult g v fl)) ∧
          (∀ l, l < g.width → hasLane (activeLanes g p) l = true → (smGet 0 v (d.toNat * 64 + l)).toNat = (f (x l) (y l) (z l)).1) ∧
          raisedBy g p (fun l => (f (x l) (y l) (z l)).2) fl)
  ∧ (∀ (s : State) (i : Instr) (k slot : Nat) (g : Group) (p : Split) (d a b : BitVec 7) (t : BitVec 2) (op : FloatOp),
      Poised s i k slot g p → scalarRuns g p → 2 ≤ t.toNat →
      (i = .sadd d a b t ∧ op = .add) ∨ (i = .ssub d a b t ∧ op = .sub) ∨ (i = .smul d a b t ∧ op = .mul) →
      let wide := decide (t = 3)
      let z := op.result (if wide then ⟨11, 52⟩ else ⟨8, 23⟩) (roundingOf p) (scalarNat g.s wide a.toNat) (scalarNat g.s wide b.toNat) 0
      ∃ r : SMap Word, exec i s = .next (after s k slot (scalarResult g r z.2)) ∧ scalarNat r wide d.toNat = z.1)
  ∧ (∀ (s : State) (k slot : Nat) (g : Group) (p : Split) (d a : BitVec 7) (tp tq : BitVec 4), Poised s (.cvt d a tp tq) k slot g p →
      (tp ≠ 11 → tq ≠ 11 → activeLanes g p ≠ 0 →
        let z := fun l => converted tp.toNat tq.toNat (roundingOf p) (laneOf g.v (isType64 tq) a.toNat l)
        ∃ (v : SMap Word) (fl : BitVec 8), exec (.cvt d a tp tq) s = .next (after s k slot (vectorResult g v fl)) ∧
          (∀ l, l < g.width → l < 64 → hasLane (activeLanes g p) l = true → laneOf v (isType64 tp) d.toNat l = (z l).1) ∧
          raisedBy g p (fun l => (z l).2) fl)
      ∧ (tp = 11 ∨ tq = 11 → scalarRuns g p →
        let z := converted tp.toNat tq.toNat (roundingOf p) (scalarNat g.s (isType64 tq) a.toNat)
        ∃ r : SMap Word, exec (.cvt d a tp tq) s = .next (after s k slot (scalarResult g r z.2)) ∧ scalarNat r (isType64 tp) d.toNat = z.1))
  ∧ ∀ (s : State) (k slot : Nat) (g : Group) (p : Split) (d a b : BitVec 7), activeLanes g p ≠ 0 →
      let word := fun l => flickerWord g.seed.toNat (g.sreg b.toNat).toNat (laneOf g.v true a.toNat l)
      (Poised s (.flick d a b) k slot g p →
        ∃ v : SMap Word, exec (.flick d a b) s = .next (after s k slot (vectorResult g v 0)) ∧
          ∀ l, l < g.width → hasLane (activeLanes g p) l = true → (smGet 0 v (d.toNat * 64 + l)).toNat = word l)
      ∧ ∀ t : BitVec 2, Poised s (.fsr d a b t) k slot g p →
        let z := fun l => converted (if t = 0 then 8 else if t = 1 then 9 else if t = 2 then 0 else 1) 10
          { roundingOf p with mode := 4, word := BitVec.ofNat 32 (word l), w := (g.sreg (b.toNat + 1)).toNat % 32 + 1 } (g.vreg d.toNat l).toNat
        ∃ (v : SMap Word) (fl : BitVec 8), exec (.fsr d a b t) s = .next (after s k slot (vectorResult g v fl)) ∧
          (∀ l, l < g.width → hasLane (activeLanes g p) l = true → (smGet 0 v (d.toNat * 64 + l)).toNat = (z l).1) ∧
          raisedBy g p (fun l => (z l).2) fl

/-- SHFL (08 R165): the element of the lane that the pattern names, when that lane is below the width and active; else the lane's own element. Every element is read before any is written. -/
def Obligations.ShuffleResults : Prop :=
  ∀ (s : State) (i : Instr) (k slot : Nat) (g : Group) (p : Split),
    Poised s i k slot g p → (shuffleFrom i g 0).isSome = true → activeLanes g p ≠ 0 →
    ∃ v : SMap Word, exec i s = .next (after s k slot (vectorResult g v 0)) ∧
      ∀ l d a j, l < g.width → hasLane (activeLanes g p) l = true → shuffleFrom i g l = some (d, a, j) →
        smGet 0 v (d * 64 + l) =
          if 0 ≤ j ∧ j < g.width ∧ hasLane (activeLanes g p) j.toNat = true then g.vreg a j.toNat else g.vreg a l

/-- Integer results of the scalar pipeline (06 R121): SADD, SSUB and SMUL of .i32 and .i64 deliver the exact result modulo 2^N, or under SAT clamped into the signed range with SAT raised; SAND, SOR, SXOR, SSHL, SSHR and SMOV as their rows say. Scalar compares and lane moves (06 R122, R123): SCMP of .i32 and .n32 writes 1 or 0; SRD delivers lane n whether or not it is active; SWR writes lane n when it is in %exec, else nothing; SWR completes whenever it takes effect. VOTE (08 R166): any is 1 when some active lane's predicate is 1, all is 1 when no active lane's is 0, ballot gives the active lanes' predicates; the empty set of active lanes gives 0, 1 and 0. REDG (08 R167) delivers the exact sum, rounded once in .f32, the least or greatest, or the bits of the active elements, and of none its identity. -/
def Obligations.ScalarResults : Prop :=
  (∀ (s : State) (i : Instr) (k slot : Nat) (g : Group) (p : Split) (d a b : BitVec 7), Poised s i k slot g p → scalarRuns g p →
      (∀ (t : BitVec 2) (e : Int → Int → Int), t.toNat < 2 →
        (i = .sadd d a b t ∧ e = (fun x y => x + y)) ∨ (i = .ssub d a b t ∧ e = fun x y => x - y) ∨ (i = .smul d a b t ∧ e = fun x y => x * y) →
        ∃ (r : SMap Word) (x : BitVec 8), exec i s = .next (after s k slot (scalarResult g r x)) ∧
          let wide := decide (t = 1)
          let n := if t = 1 then 64 else 32
          let z := e (asInt true n (scalarNat g.s wide a.toNat)) (asInt true n (scalarNat g.s wide b.toNat))
          if satHint p then
            asInt true n (scalarNat r wide d.toNat) = max (leastInt true n) (min (greatestInt true n) z) ∧
              x = if z < leastInt true n ∨ greatestInt true n < z then fSAT else 0
          else (scalarNat r wide d.toNat : Int) = z % 2 ^ n ∧ x = 0)
      ∧ (i = .sand d a b → exec i s = .next (after s k slot (g.setS d.toNat (g.sreg a.toNat &&& g.sreg b.toNat))))
      ∧ (i = .sor d a b → exec i s = .next (after s k slot (g.setS d.toNat (g.sreg a.toNat ||| g.sreg b.toNat))))
      ∧ (i = .sxor d a b → exec i s = .next (after s k slot (g.setS d.toNat (g.sreg a.toNat ^^^ g.sreg b.toNat))))
      ∧ (i = .sshl d a b → exec i s = .next (after s k slot (g.setS d.toNat
          (BitVec.ofNat 32 ((g.sreg a.toNat).toNat * 2 ^ ((g.sreg b.toNat).toNat % 32))))))
      ∧ (i = .sshr d a b → exec i s = .next (after s k slot (g.setS d.toNat
          (BitVec.ofNat 32 ((g.sreg a.toNat).toNat / 2 ^ ((g.sreg b.toNat).toNat % 32))))))
      ∧ (i = .smov d a → exec i s = .next (after s k slot (g.setS d.toNat (g.sreg a.toNat))))
      ∧ ∀ x : BitVec 16, i = .smovImmediate d x →
        exec i s = .next (after s k slot (g.setS d.toNat (BitVec.ofInt 32 (immediate p 16 x.toNat)))))
  ∧ (∀ (s : State) (k slot : Nat) (g : Group) (p : Split), scalarRuns g p →
      (∀ (d : BitVec 5) (a b : BitVec 7) (r t : BitVec 2), t.toNat < 2 → Poised s (.scmp d a b r t) k slot g p →
        exec (.scmp d a b r t) s = .next (after s k slot (g.setS d.toNat
          (if relates r (asInt (t = 0) 32 (g.sreg a.toNat).toNat) (asInt (t = 0) 32 (g.sreg b.toNat).toNat) then 1 else 0))))
      ∧ (∀ (d a : BitVec 7) (n : BitVec 6), Poised s (.srd d a n) k slot g p →
        exec (.srd d a n) s = .next (after s k slot (g.setS d.toNat (g.vreg a.toNat n.toNat))))
      ∧ ∀ (d a : BitVec 7) (n : BitVec 6), Poised s (.swr d a n) k slot g p →
        exec (.swr d a n) s = .next (after s k slot
          (if p.exec.getLsbD n.toNat then g.setV d.toNat n.toNat (g.sreg a.toNat) else g)))
  ∧ (∀ (s : State) (k slot : Nat) (g : Group) (p : Split) (d : BitVec 7) (q : BitVec 5), scalarRuns g p →
      (Poised s (.voteAny d q) k slot g p →
        exec (.voteAny d q) s = .next (after s k slot (g.setS d.toNat
          (if (List.range 64).any (fun l => hasLane (activeLanes g p) l && hasLane (g.preg q.toNat) l) then 1 else 0))))
      ∧ (Poised s (.voteAll d q) k slot g p →
        exec (.voteAll d q) s = .next (after s k slot (g.setS d.toNat
          (if (List.range 64).all (fun l => !hasLane (activeLanes g p) l || hasLane (g.preg q.toNat) l) then 1 else 0))))
      ∧ (Poised s (.voteBallot d q) k slot g p →
        ∃ r : SMap Word, exec (.voteBallot d q) s = .next (after s k slot (scalarResult g r 0)) ∧
          pairNat r d.toNat = (activeLanes g p &&& g.preg q.toNat).toNat))
  ∧ (∀ (s : State) (k slot : Nat) (g : Group) (p : Split) (d a : BitVec 7) (o : BitVec 4), Poised s (.redg d a o) k slot g p → scalarRuns g p →
      let z := reduction o.toNat (roundingOf p) (activeElems g p a.toNat)
      exec (.redg d a o) s = .next (after s k slot ((g.setS d.toNat (BitVec.ofNat 32 z.1)).raise z.2)))

/-- Special registers (04 R58, 05 R86, 06 R110): scalar MOVS reads every one but %lane, vector MOVS every one into each active lane, a 64-bit one into a pair: %lane its number in each lane, %group, %team, %grid, %core, %die, %dev, %exec, %seed, the loss scale and its bounds as FP32 powers of two, %lsclean, %flags, %clock, %time and %ctx. -/
def Obligations.SpecialRegisterReads : Prop :=
  ∀ (s : State) (k slot : Nat) (g : Group) (p : Split) (t : Team) (d : BitVec 7) (n : BitVec 5), s.team? g.team = some t →
    (Poised s (.scalarMovs d 0 n) k slot g p → scalarRuns g p →
      ∃ r : SMap Word, exec (.scalarMovs d 0 n) s = .next (after s k slot (scalarResult g r 0)) ∧
        scalarNat r (specialWide n.toNat) d.toNat = specialValue s k g p t n.toNat)
    ∧ (Poised s (.vectorMovs d n) k slot g p → activeLanes g p ≠ 0 →
      ∃ v : SMap Word, exec (.vectorMovs d n) s = .next (after s k slot (vectorResult g v 0)) ∧
        ∀ l, l < g.width → l < 64 → hasLane (activeLanes g p) l = true →
          laneOf v (specialWide n.toNat) d.toNat l = if n = 0 then l else specialValue s k g p t n.toNat)

/-! ### Special functions, block words, masks, special registers -/

/-- Special functions issue as long-latency operations: the word completes when its flag can be counted, and leaves one operation outstanding on the flag it selects, which is to write the active lanes of d alone; nothing else changes (04 R64). What they deliver (06 R113 to R115): for a NaN, an infinity, a zero and an operand outside the function's domain the row of R115's table; FRCP, FSQRT and FRSQ of every other operand the exact quotient or root rounded once, FRSQ and the other four to nearest; FEXP2 of a whole number its power of two, of 128 and more an infinity or under SAT the largest finite value, of −150 and less +0; FLOG2 of a power of two its exponent; each with its flags. FEXP2 of 1/2, FLOG2 of 3, FSIN and FCOS of 1 are the nearest FP32 values, with NX, and FSIN and FCOS of operands of opposite signs are of opposite signs, and equal. A long-latency word that writes a register and whose selected flag is none traps ILLEGAL_OPCODE; one whose flag counts 63 waits with its word not performed (04 R64). -/
def Obligations.SpecialFunctions : Prop :=
  (∀ (s : State) (i : Instr) (k slot : Nat) (g : Group) (p : Split) (d a : Nat),
      Poised s i k slot g p → specialForm i = some (d, a) → activeLanes g p ≠ 0 → Counted g p true →
      ∃ o : PendOp, exec i s = .next (issuedPending s k slot o) ∧
        o.id = s.fresh ∧ o.pc = p.pc ∧ o.flag = flagOf g p ∧ o.kind = .thread ∧ o.sides = [] ∧
        (∀ key x, (key, x) ∈ o.vals → ∃ l, key = d * 64 + l ∧ l < g.width ∧ hasLane (activeLanes g p) l = true) ∧
        (∀ fl : Nat → BitVec 8, (∀ l, l < g.width → hasLane (activeLanes g p) l = true →
            ∃ n, specialResult i (roundingOf p) (g.vreg a l).toNat = some (n, fl l)) → raisedBy g p fl o.xflags) ∧
        ∀ l, l < g.width → hasLane (activeLanes g p) l = true → ∃ x, alGet o.vals (d * 64 + l) = some x ∧
          (∀ z, specialResult i (roundingOf p) (g.vreg a l).toNat = some z →
            x.toNat = z.1 ∧ ∀ j, z.2.getLsbD j = true → o.xflags.getLsbD j = true) ∧
          (∀ y z, specialSample i = some (y, z) → g.vreg a l = y → x = z) ∧
          (specialResult i (roundingOf p) (g.vreg a l).toNat = none → o.xflags.getLsbD 4 = true) ∧
          ∀ l', l' < g.width → hasLane (activeLanes g p) l' = true → g.vreg a l' = g.vreg a l ^^^ 0x80000000 → allOnes ⟨8, 23⟩ (g.vreg a l).toNat = false →
            ((∃ d' a', i = .fsin d' a') → alGet o.vals (d * 64 + l') = some (x ^^^ 0x80000000)) ∧
            ((∃ d' a', i = .fcos d' a') → alGet o.vals (d * 64 + l') = some x))
  ∧ (∀ (s : State) (i : Instr) (k slot : Nat) (g : Group) (p : Split),
      Poised s i k slot g p → (specialForm i).isSome = true →
      (flagOf g p = none → exec i s = .next (s.wordTrap k slot p.pc (activeLanes g p) (trapOf 0x03)))
      ∧ ∀ n, flagOf g p = some n → 63 ≤ g.flagCount n → activeLanes g p ≠ 0 →
        exec i s = .next (s.mapSplit k slot fun q => { q with park := .retry (.flagFull n) }))

/-- Block words complete when their control word and source pass the checks of 08 R168 to R171: the elements of other registers, and of lanes that are not active unless the form acts on whole slices, are unchanged; the sidecars of other registers are unchanged, and all of them for a form that writes none; flags are only raised; nothing else changes. BSCALE gives each slice that it acts on a's tag, and a's scale plus DELTA clamped to 0 to 254, or 0xFF. BMAX delivers the largest magnitude of the slice, BQ its quantised block (03 R47, R48), BDQ the values of its elements rounded into DT (03 R49), each with its flags; BPACK places the block's record and tag in its slot of the line form, every other bit of the line as it was; BUNPACK takes a slot's scale, tag and elements out of it (08 R171). A block form whose control word has a reserved bit set traps RESERVED_FIELD (08 R168). -/
def Obligations.BlockWords : Prop :=
  (∀ (s : State) (i : Instr) (k slot : Nat) (g : Group) (p : Split) (d n : Nat) (masked : Bool),
      Poised s i k slot g p → blockDest i g = some (d, n, masked) → activeLanes g p ≠ 0 → blockReady i g p →
      ∃ (v : SMap Word) (sd : SMap (BitVec 10)) (x : BitVec 8), exec i s = .next (after s k slot (blockResult g v sd x)) ∧
        (∀ r l, l < 64 → (r < d ∨ d + n ≤ r ∨ (masked = true ∧ hasLane (activeLanes g p) l = false)) → smGet 0 v (r * 64 + l) = g.vreg r l) ∧
        (∀ r q, q < 2 → (r ≠ d ∨ writesSidecar i = false ∨ sliceActive g p q = false) → smGet 0 sd (r * 2 + q) = g.sidecar r q) ∧
        ∀ (a : BitVec 7) (sp : BitVec 6), (∃ d', i = .bscale d' a sp) → ∀ q < 2, sliceActive g p q = true →
          let old := g.sidecar a.toNat q
          let delta := asInt true 8 (controlWord g sp / 2 ^ 24 % 256)
          (smGet 0 sd (d * 2 + q)).toNat / 256 = old.toNat / 256 ∧
            ((smGet 0 sd (d * 2 + q)).toNat % 256 : Int) =
              if old.toNat % 256 = 255 then 255 else max 0 (min 254 ((old.toNat % 256 : Nat) + delta)))
  ∧ (∀ (s : State) (k slot : Nat) (g : Group) (p : Split) (d a : BitVec 7) (sp : BitVec 6), activeLanes g p ≠ 0 →
      let w := controlWord g sp
      let cls := w % 4
      let wrote := fun (v : SMap Word) (val : Nat → Nat → Nat) => ∀ q < 2, sliceActive g p q = true → ∀ j < 32, elementActs g p q j = true →
        (smGet 0 v ((elementPlace g d.toNat q j).1 * 64 + (elementPlace g d.toNat q j).2)).toNat = val q j
      let raised := fun (x : BitVec 8) (fl : Nat → BitVec 8) => ∀ n, x.getLsbD n = true ↔ ∃ q < 2, sliceActive g p q = true ∧ (fl q).getLsbD n = true
      (Poised s (.bmax d a sp) k slot g p → blockReady (.bmax d a sp) g p →
        ∃ v x, exec (.bmax d a sp) s = .next (after s k slot (vectorResult g v x)) ∧ wrote v (fun q _ => (sliceMaximum w g p a.toNat q).1) ∧
          raised x fun q => (sliceMaximum w g p a.toNat q).2)
      ∧ (Poised s (.bscale d a sp) k slot g p → blockReady (.bscale d a sp) g p →
        ∃ v sd x, exec (.bscale d a sp) s = .next (after s k slot (blockResult g v sd x)) ∧
          wrote v (fun q j => blockElement g a.toNat q j % 2 ^ widthOf cls) ∧
          raised x fun q =>
            let t : Int := (g.sidecar a.toNat q).toNat % 256 + asInt true 8 (w / 2 ^ 24 % 256)
            if (g.sidecar a.toNat q).toNat % 256 ≠ 255 ∧ (t < 0 ∨ 254 < t) then fSAT else 0)
      ∧ (Poised s (.bq d a sp) k slot g p → blockReady (.bq d a sp) g p →
        let z := fun q => quantisedSlice w (pairNat g.s (2 * sp.toNat + 2)) g p a.toNat q
        ∃ v sd x, exec (.bq d a sp) s = .next (after s k slot (blockResult g v sd x)) ∧ wrote v (fun q j => (z q).codes.getD j 0) ∧
          (∀ q < 2, sliceActive g p q = true → (smGet 0 sd (d.toNat * 2 + q)).toNat = (z q).tag * 256 + (z q).scale) ∧ raised x fun q => (z q).flags)
      ∧ (Poised s (.bdq d a sp) k slot g p → blockReady (.bdq d a sp) g p →
        ∃ v x, exec (.bdq d a sp) s = .next (after s k slot (vectorResult g v x)) ∧
          wrote v (fun q j => (dequantisedElement w g p a.toNat q j).1) ∧
          ∀ n, x.getLsbD n = true ↔ ∃ q < 2, sliceActive g p q = true ∧ ∃ j < 32, elementActs g p q j = true ∧
            (dequantisedElement w g p a.toNat q j).2.getLsbD n = true)
      ∧ (Poised s (.bpack d a sp) k slot g p → blockReady (.bpack d a sp) g p →
        ∃ v, exec (.bpack d a sp) s = .next (after s k slot (vectorResult g v 0)) ∧
          (∀ q < 2, sliceActive g p q = false → ∀ r, ∀ j < 32, smGet 0 v (r * 64 + (32 * q + j)) = g.vreg r (32 * q + j)) ∧
          ∀ q < 2, sliceActive g p q = true →
            let j := w / 2 ^ 20 % 8
            let side := (g.sidecar a.toNat q).toNat
            let n := 8 * recordBytes cls
            let old := linePayload g.v d.toNat q
            let tags := lineTags g.v d.toNat q
            linePayload v d.toNat q = old - old / 2 ^ (n * j) % 2 ^ n * 2 ^ (n * j)
              + recordNumber cls (side % 256) ((List.range 32).map fun i => blockElement g a.toNat q i) * 2 ^ (n * j) ∧
            lineTags v d.toNat q = tags - tags / 4 ^ j % 4 * 4 ^ j + side / 256 * 4 ^ j ∧
            (smGet 0 v ((d.toNat + 1) * 64 + (32 * q + 2))).toNat / 2 ^ 16 = (g.vreg (d.toNat + 1) (32 * q + 2)).toNat / 2 ^ 16 ∧
            ∀ l, 3 ≤ l → l < 32 → smGet 0 v ((d.toNat + 1) * 64 + (32 * q + l)) = g.vreg (d.toNat + 1) (32 * q + l))
      ∧ (Poised s (.bunpack d a sp) k slot g p → blockReady (.bunpack d a sp) g p →
        ∃ v sd, exec (.bunpack d a sp) s = .next (after s k slot (blockResult g v sd 0)) ∧ ∀ q < 2, sliceActive g p q = true →
          let j := w / 2 ^ 20 % 8
          let r := linePayload g.v a.toNat q / 2 ^ (8 * recordBytes cls * j)
          (smGet 0 sd (d.toNat * 2 + q)).toNat = lineTags g.v a.toNat q / 4 ^ j % 4 * 256 + r % 256 ∧
          ∀ i < 32, (smGet 0 v (d.toNat * 64 + (32 * q + i))).toNat = r / 2 ^ (8 + widthOf cls * i) % 2 ^ widthOf cls))
  ∧ (∀ (s : State) (i : Instr) (k slot : Nat) (g : Group) (p : Split) (d a : BitVec 7) (sp : BitVec 6),
      Poised s i k slot g p → activeLanes g p ≠ 0 →
      (i = .bmax d a sp ∨ i = .bscale d a sp ∨ i = .bq d a sp ∨ i = .bdq d a sp ∨ i = .bpack d a sp ∨ i = .bunpack d a sp) →
      (controlWord g sp / 2 ^ 13 % 8 ≠ 0 ∨ controlWord g sp / 2 ^ 23 % 2 ≠ 0) →
      exec i s = .next (s.wordTrap k slot p.pc (activeLanes g p) (trapOf 0x06)))

/-- Writes of the execute mask (07 R134, 08 R163): EXWR and WRS of %exec set %exec to the pair limited to LIVE; EXPR clears the active lanes whose predicate is 0. Nothing else changes but the PC. Writes of special registers by WRS (17 R342, 04 R58 to R60): the loss-scale registers keep bits [30:23], 0x00 stored as 0x01 and 0xFF as 0xFE, with the order of the three kept; %lsclean takes RUN alone; each 1 bit written to %flags clears it; a write of a read-only register has no effect. Nothing else changes but the PC. SEEDSET and CLKRD (17 R339, R340): SEEDSET writes the pair into the group's %seed when the context's SEEDW is 1, and else traps PRIVILEGE and changes nothing; CLKRD, with nothing outstanding, reads %clock or %time into its pair, and waits otherwise. -/
def Obligations.SpecialWrites : Prop :=
  (∀ (s : State) (k slot : Nat) (g : Group) (p : Split),
      (∀ a : BitVec 7, scalarRuns g p →
        (Poised s (.exwr a) k slot g p →
          exec (.exwr a) s = .next (after s k slot (g.mapSplit slot fun q => { q with exec := g.spair a.toNat &&& q.live })))
        ∧ (Poised s (.wrs 7 a) k slot g p →
          exec (.wrs 7 a) s = .next (after s k slot (g.mapSplit slot fun q => { q with exec := g.spair a.toNat &&& q.live }))))
      ∧ ∀ c : BitVec 5, activeLanes g p ≠ 0 → Poised s (.expr c) k slot g p →
        ∃ m : Mask, exec (.expr c) s = .next (after s k slot (g.mapSplit slot fun q => { q with exec := m &&& q.live })) ∧
          ∀ l < 64, m.getLsbD l = (p.exec.getLsbD l && (!(activeLanes g p).getLsbD l || (g.preg c.toNat).getLsbD l)))
  ∧ (∀ (s : State) (k slot : Nat) (g : Group) (p : Split) (n : BitVec 5) (a : BitVec 7),
      Poised s (.wrs n a) k slot g p → scalarRuns g p → n ≠ 7 →
      ∃ g' : Group, exec (.wrs n a) s = .next (after s k slot g') ∧
        (let x := g.sreg a.toNat
         let e := x.toNat / 2 ^ 23 % 256
         let kept := if e = 0 then 1 else if e = 255 then 254 else e
         g' = { g with lscale := g'.lscale, lsmin := g'.lsmin, lsmax := g'.lsmax, run := g'.run, xflags := g'.xflags } ∧
         (if n = 0x0A then g'.lsmin.toNat = kept else if n = 0x0B then g'.lsmin.toNat = min g.lsmin.toNat kept else g'.lsmin = g.lsmin) ∧
         (if n = 0x0B then g'.lsmax.toNat = kept else if n = 0x0A then g'.lsmax.toNat = max g.lsmax.toNat kept else g'.lsmax = g.lsmax) ∧
         (if n = 0x09 ∨ n = 0x0A ∨ n = 0x0B then
            g'.lscale.toNat = min (max (if n = 0x09 then kept else g.lscale.toNat) g'.lsmin.toNat) g'.lsmax.toNat
          else g'.lscale = g.lscale) ∧
         (if n = 0x0C then g'.run.toNat = x.toNat % 2 ^ 16 else g'.run = g.run) ∧
         (if n = 0x0D then ∀ j < 8, g'.xflags.getLsbD j = (g.xflags.getLsbD j && !x.getLsbD j) else g'.xflags = g.xflags)))
  ∧ (∀ (s : State) (k slot : Nat) (g : Group) (p : Split), scalarRuns g p →
      (∀ q : BitVec 6, Poised s (.seedset q) k slot g p →
        ((s.ctxOf g).field 4 1 % 2 = 1 → exec (.seedset q) s = .next (after s k slot { g with seed := BitVec.ofNat 64 (pairNat g.s (2 * q.toNat)) }))
        ∧ ((s.ctxOf g).field 4 1 % 2 = 0 → exec (.seedset q) s = .next (s.wordTrap k slot p.pc (activeLanes g p) (trapOf 0x15))))
      ∧ ∀ (d : BitVec 6) (sel : BitVec 1), Poised s (.clkrd d sel) k slot g p →
        (g.pend = [] ∧ (∀ o ∈ s.matOps, o.key ≠ k) → ∃ r, exec (.clkrd d sel) s = .next (after s k slot (scalarResult g r 0)) ∧
          pairNat r (2 * d.toNat) = (if sel = 0 then s.cycles else s.nanos) % 2 ^ 64)
        ∧ (g.pend ≠ [] ∨ (∃ o ∈ s.matOps, o.key = k) → exec (.clkrd d sel) s = .next (s.mapSplit k slot fun q => { q with park := .retry .allDone })))

/-- LSUPD updates the loss-scale state by the table of 04 R62: %lscale, COUNT, FLOOR and the step word follow STEPOVF at its issue; every row clears STEPOVF, and no other flag changes. Scales are powers of two, held by their exponent bytes: half and twice a scale are the exponent less and plus 1. -/
def Obligations.LossScaleUpdate : Prop :=
  ∀ (s : State) (k slot : Nat) (g : Group) (p : Split) (d : BitVec 7),
    Poised s (.lsupd d) k slot g p → scalarRuns g p → (∀ o ∈ g.pend, ∃ n, o.kind = .engine n) →
    ∃ (w : Word) (scale : BitVec 8) (count : BitVec 16) (fl : BitVec 8),
      exec (.lsupd d) s = .next (after s k slot ({ g with lscale := scale, count := count, xflags := fl }.setS d.toNat w)) ∧
      (let ovf := g.xflags.getLsbD 6
       (∀ j < 6, fl.getLsbD j = g.xflags.getLsbD j) ∧ fl.getLsbD 6 = false ∧
       (ovf = true → g.lsmin.toNat < g.lscale.toNat →
         scale.toNat + 1 = g.lscale.toNat ∧ count = 0 ∧ fl.getLsbD 7 = g.xflags.getLsbD 7 ∧ w = 0x9) ∧
       (ovf = true → g.lscale = g.lsmin → scale = g.lscale ∧ count = 0 ∧ fl.getLsbD 7 = true ∧ w = 0x3) ∧
       (ovf = false → g.run = 0 →
         scale = g.lscale ∧ count.toNat = min (g.count.toNat + 1) 0xFFFF ∧ fl.getLsbD 7 = g.xflags.getLsbD 7 ∧ w = 0x0) ∧
       (ovf = false → 0 < g.run.toNat → g.count.toNat + 1 < g.run.toNat →
         scale = g.lscale ∧ count.toNat = g.count.toNat + 1 ∧ fl.getLsbD 7 = g.xflags.getLsbD 7 ∧ w = 0x0) ∧
       (ovf = false → 0 < g.run.toNat → g.run.toNat ≤ g.count.toNat + 1 → g.lscale.toNat < g.lsmax.toNat →
         scale.toNat = g.lscale.toNat + 1 ∧ count = 0 ∧ fl.getLsbD 7 = g.xflags.getLsbD 7 ∧ w = 0x4) ∧
       (ovf = false → 0 < g.run.toNat → g.run.toNat ≤ g.count.toNat + 1 → g.lscale = g.lsmax →
         scale = g.lscale ∧ count = g.run ∧ fl.getLsbD 7 = g.xflags.getLsbD 7 ∧ w = 0x0))

/-! ### Hints, transfers, divergence -/

/-- Hints and clause headers change only the split: IMM, PRED, MOD and SCHED become pending beside the others, PRED replacing an open window; SCHED stalls its target; a header sets the clause's wait, flags and attributes and closes a window; NOP counts as one word of a window and binds to nothing (05 R87 to R90). -/
def Obligations.HintWords : Prop :=
  ∀ (s : State) (k slot : Nat) (g : Group) (p : Split),
    (∀ h, Poised s (.himm h) k slot g p →
      exec (.himm h) s = .next (s.mapSplit k slot fun q => { q with pc := q.pc + 4, hints := { q.hints with imm := some h }, wait := 0, starts := false, park := .running }))
    ∧ (∀ c neg n, Poised s (.hpred c neg n) k slot g p →
      exec (.hpred c neg n) s = .next (s.mapSplit k slot fun q =>
        { q with pc := q.pc + 4, hints := { q.hints with window := some ⟨c, neg = 1, n.toNat + 1⟩ }, wait := 0, starts := false, park := .running }))
    ∧ (∀ r m t f c b z, Poised s (.hmod r m t f c b z) k slot g p →
      exec (.hmod r m t f c b z) s = .next (s.mapSplit k slot fun q =>
        { q with pc := q.pc + 4, hints := { q.hints with mod := some ⟨r = 1, m, t = 1, f = 1, c, b = 1, z = 1⟩ }, wait := 0, starts := false, park := .running }))
    ∧ (∀ t n, Poised s (.hsched t n) k slot g p →
      exec (.hsched t n) s = .next (s.mapSplit k slot fun q =>
        { q with pc := q.pc + 4, hints := { q.hints with sched := some (t, n) }, wait := 0, starts := false, park := .running,
                 stallUntil := if t = 0 then 0 else s.cycles + 1 + t.toNat }))
    ∧ (∀ w a b c n, Poised s (.clh w a b c n) k slot g p →
      exec (.clh w a b c n) s = .next (s.mapSplit k slot fun q =>
        { q with pc := q.pc + 4, hints := { q.hints with window := none }, wait := w, fa := a, fb := b, cold := c = 1, noYield := n = 1,
                 starts := false, park := .running }))
    ∧ (Poised s .nop k slot g p →
      ∃ f : Split → Split, exec .nop s = .next (s.mapSplit k slot f) ∧
        ∀ q : Split, f q = { q with pc := q.pc + 4, wait := 0, starts := false, park := .running, hints := (f q).hints } ∧
          (f q).hints.sched = q.hints.sched ∧ (f q).hints.imm = q.hints.imm ∧ (f q).hints.mod = q.hints.mod ∧
          match q.hints.window with
          | none => (f q).hints.window = none
          | some x => if x.left ≤ 1 then (f q).hints.window = none else (f q).hints.window = some { x with left := x.left - 1 })

/-- Uniform transfers (06 R124, R125): BRA, CALL, BRC when its register is as its sense says, RET and JMPI read the word at their target, move the whole split there and close its window, when that word is a clause header; CALL writes the address of the next word into its pair too; a BRC not taken only advances the PC. A transfer to an address whose bits [1:0] are not zero traps MISALIGNED 0x40, to a word that is no clause header CLAUSE_ENTRY 0x0C, to a word that cannot be fetched with the fetch's cause, with the target in FADDR; the transfer is not taken (06 R124). While an engine owns the target's line the word waits (10 R216). Reading the word changes nothing but what a write-back of the core's dirty bytes of its line changes (09 R201). -/
def Obligations.TransferWords : Prop :=
  (∀ (s : State) (i : Instr) (k slot : Nat) (g : Group) (p : Split), Poised s i k slot g p → scalarRuns g p →
      (∀ target t, transferOf i s k g p = some (target, t) → headerAt s k g target →
        ∃ u, transferOf i (wordRead s k g target) k g p = some (target, u) ∧
          exec i s = .next (u.mapSplit k slot fun q => { q with pc := target, hints := Hints.none, wait := 0, starts := false, park := .running }))
      ∧ ((∃ r n o, i = .brc r n o) → transferOf i s k g p = none → exec i s = .next (s.mapSplit k slot Split.advance)))
  ∧ (∀ (s : State) (i : Instr) (k slot : Nat) (g : Group) (p : Split) (target : Pc) (t : State),
      Poised s i k slot g p → scalarRuns g p → transferOf i s k g p = some (target, t) →
      (target.toNat % 4 ≠ 0 → exec i s = .next (s.wordTrap k slot p.pc (activeLanes g p) (trapAt 0x40 target.toNat)))
      ∧ ∀ c, target.toNat % 4 = 0 → s.ctx? g.ctx = some c →
        (∀ o, s.fetchOwned c target.toNat = some o → exec i s = .next (s.mapSplit k slot fun q => { q with park := .retry (.owned [o]) }))
        ∧ (s.fetchOwned c target.toNat = none →
          (∀ w, s.fetchWord (k / 64) c target.toNat = .ok w → w.toNat / 2 ^ 23 % 64 ≠ 0x3F →
            exec i s = .next ((wordRead s k g target).wordTrap k slot p.pc (activeLanes g p) (trapAt 0x0C target.toNat)))
          ∧ ∀ f, s.fetchWord (k / 64) c target.toNat = .error f →
            exec i s = .next (s.wordTrap k slot p.pc (activeLanes g p) ⟨f.cause, BitVec.ofNat 64 target.toNat, none, 0, f.replay⟩)))
  ∧ ∀ (s : State) (k : Nat) (g : Group) (target : Pc),
      let u := wordRead s k g target
      u = { s with mem := u.mem, l1 := u.l1, metWaits := u.metWaits } ∧ (∀ a, uncached s a → memGet u.mem a = memGet s.mem a) ∧
        (cleanAt s k g target → u = s)

/-- BRD (07 R136, 08 R161): with no lane taken it advances; with every lane of LIVE taken it jumps; else, with an entry free, it opens a region: the taken lanes go to T, in a split in the lowest free slot or as the entry's pending side when no slot is free, and the others go on with the entry as theirs. It closes an open window. With no entry free it traps DIVERGENCE_DEPTH. The words at T and, where a region opens, at M are read and are clause headers. -/
def Obligations.DivergentBranch : Prop :=
  ∀ (s : State) (k slot : Nat) (g : Group) (p : Split) (c : BitVec 5) (neg : BitVec 1) (t : BitVec 9) (m : BitVec 8),
    Poised s (.brd c neg t m) k slot g p →
    let tk := takenLanes g p c neg
    let u := wordRead s k g (branchTarget p t)
    let v := wordRead u k g (branchMeet p m)
    (tk = 0 → exec (.brd c neg t m) s = .next (s.mapSplit k slot closed))
    ∧ (tk ≠ 0 → headerAt s k g (branchTarget p t) → p.live &&& ~~~tk = 0 →
      exec (.brd c neg t m) s = .next (u.mapSplit k slot fun q => { closed q with pc := branchTarget p t }))
    ∧ (tk ≠ 0 → headerAt s k g (branchTarget p t) → p.live &&& ~~~tk ≠ 0 → headerAt u k g (branchMeet p m) →
      (∀ e < 16, (alGet g.meet e).isSome = true) →
        exec (.brd c neg t m) s = .next (v.wordTrap k slot p.pc (activeLanes g p) (trapOf 0x0D)))
    ∧ (tk ≠ 0 → headerAt s k g (branchTarget p t) → p.live &&& ~~~tk ≠ 0 → headerAt u k g (branchMeet p m) →
      ∀ e < 16, alGet g.meet e = none → (∀ e' < e, (alGet g.meet e').isSome = true) →
        let kept := fun q : Split => { closed q with live := q.live &&& ~~~tk, exec := q.exec &&& ~~~tk, entry := some e }
        (∀ j < 4, g.split? j = none → (∀ j' < j, (g.split? j').isSome = true) →
          exec (.brd c neg t m) s = .next (v.putGroup k
            ({ g with meet := smIns g.meet e ⟨branchMeet p m, p.live, 0, 0, 0, 0, p.entry⟩,
                      splits := insSplit (newSplit j (branchTarget p t) tk (some e)) g.splits }.mapSplit p.slot kept)))
        ∧ ((∀ j < 4, (g.split? j).isSome = true) →
          exec (.brd c neg t m) s = .next (v.putGroup k
            ({ g with meet := smIns g.meet e ⟨branchMeet p m, p.live, 0, 0, branchTarget p t, tk, p.entry⟩ }.mapSplit p.slot kept))))

/-- MEET and the arrival at a meet point (07 R137, R142): the split leaves its slot and its lanes have arrived; when every lane of FULL has arrived the entry is freed, and a split in the lowest free slot goes on from MPC with the lanes that arrived or were sent there, with the parent as its ENTRY, or none does when there is no such lane. While lanes are missing, the entry's pending side, if it has one, goes on in a split of its own once no other split is within the entry. Outside any region MEET only advances the PC. EXIT and the merge of splits (07 R138, R140, 08 R164): EXIT outside a convened set ends every lane of LIVE; for a split in no region the split is released and nothing else of the group changes; a member of a convened set traps CONVENE_STATE. Two splits of one PC and one ENTRY merge into the lower slot. -/
def Obligations.MeetAndExit : Prop :=
  (∀ (s : State) (k slot : Nat) (g : Group) (p : Split) (ag : AgentRef),
      (Poised s .meet k slot g p → scalarRuns g p → p.entry = none → exec .meet s = .next (s.mapSplit k slot Split.advance))
      ∧ ∀ (i : Instr) (e : Nat) (m : MeetEntry),
        p.entry = some e → alGet g.meet e = some m → keysRise none g.meet = true →
        ((i = .meet ∧ Poised s .meet k slot g p ∧ scalarRuns g p)
          ∨ (i = .meetArrival ag slot ∧ agentKey ag = k ∧ s.group? k = some g ∧ g.split? slot = some p ∧ m.mpc = p.pc)) →
        (m.full &&& ~~~(m.arrived ||| p.live) = 0 → m.arrived ||| p.live ||| m.exitm ≠ 0 →
          ∀ j < 4, (g.dropSplit slot).split? j = none → (∀ j' < j, ((g.dropSplit slot).split? j').isSome = true) →
          ∃ es, exec i s = .next (s.putGroup k
              { g with
                meet := es
                splits := insSplit (newSplit j m.mpc (m.arrived ||| p.live ||| m.exitm) m.parent) (g.splits.filter fun q => q.slot ≠ slot) })
            ∧ alGet es e = none ∧ ∀ e', e' ≠ e → alGet es e' = alGet g.meet e')
        ∧ (m.full &&& ~~~(m.arrived ||| p.live) = 0 → m.arrived ||| p.live ||| m.exitm = 0 →
          ∃ es, exec i s = .next (s.putGroup k { g with meet := es, splits := g.splits.filter fun q => q.slot ≠ slot })
            ∧ alGet es e = none ∧ ∀ e', e' ≠ e → alGet es e' = alGet g.meet e')
        ∧ (m.full &&& ~~~(m.arrived ||| p.live) ≠ 0 → m.pmask = 0 ∨ (∃ q ∈ g.splits, q.slot ≠ slot ∧ within g q e) →
          ∃ es, exec i s = .next (s.putGroup k { g with meet := es, splits := g.splits.filter fun q => q.slot ≠ slot })
            ∧ alGet es e = some { m with arrived := m.arrived ||| p.live } ∧ ∀ e', e' ≠ e → alGet es e' = alGet g.meet e')
        ∧ (m.full &&& ~~~(m.arrived ||| p.live) ≠ 0 → m.pmask ≠ 0 → (∀ q ∈ g.splits, q.slot ≠ slot → ¬ within g q e) →
          ∀ j < 4, (g.dropSplit slot).split? j = none → (∀ j' < j, ((g.dropSplit slot).split? j').isSome = true) →
          ∃ es, exec i s = .next (s.putGroup k
              { g with meet := es, splits := insSplit (newSplit j m.ppc m.pmask (some e)) (g.splits.filter fun q => q.slot ≠ slot) })
            ∧ alGet es e = some { m with arrived := m.arrived ||| p.live, pmask := 0 } ∧ ∀ e', e' ≠ e → alGet es e' = alGet g.meet e'))
  ∧ (∀ (s : State) (k slot : Nat) (g : Group) (p : Split) (ag : AgentRef),
      (Poised s .exit k slot g p → scalarRuns g p →
        ((s.setOf g).isSome = true → exec .exit s = .next (s.wordTrap k slot p.pc (activeLanes g p) (trapOf 0x0F)))
        ∧ (s.setOf g = none → p.entry = none →
          exec .exit s = .next (s.putGroup k { g with splits := g.splits.filter fun q => q.slot ≠ slot })))
      ∧ ∀ a b qa qb, agentKey ag = k → s.group? k = some g → g.splits = [qa, qb] → qa.slot = a → qb.slot = b → a < b →
        qa.pc = qb.pc → qa.entry = qb.entry →
        exec (.splitMerge ag) s = .next (s.putGroup k { g with splits := [{ qa with live := qa.live ||| qb.live, exec := qa.exec ||| qb.exec }] }))

/-- MERGE (07 R142): the split's lanes go to the first other split with its ENTRY; with none, to the entry's pending side when there is one and some split or nothing more holds the region open; with neither it only advances the PC. BRK n (07 R139, 08 R162): with no active lane it only advances; with fewer than n open entries it traps DIVERGENCE_DEPTH; else the active lanes leave FULL of the n innermost entries, join EXITM of the outermost of them, leave the split, which is released when no lane is left, and the entries settle, innermost first. -/
def Obligations.MergeAndBreak : Prop :=
  (∀ (s : State) (k slot : Nat) (g : Group) (p : Split), Poised s .merge k slot g p → scalarRuns g p → p.slot = slot →
      (∀ q, (g.splits.find? fun q => q.slot ≠ slot && q.entry = p.entry) = some q →
        exec .merge s = .next (s.putGroup k
          { g with splits := List.filter (fun x => x.slot ≠ slot) (g.splits.map fun x =>
              if x.slot = q.slot then { x with live := x.live ||| p.live, exec := x.exec ||| p.exec } else x) }))
      ∧ ((∀ q ∈ g.splits, q.slot ≠ slot → q.entry ≠ p.entry) →
        (p.entry = none ∨ (∃ e m, p.entry = some e ∧ alGet g.meet e = some m ∧ m.pmask = 0) →
          exec .merge s = .next (s.mapSplit k slot Split.advance))
        ∧ ∀ e m, p.entry = some e → alGet g.meet e = some m → m.pmask ≠ 0 →
          exec .merge s = .next (s.putGroup k
            (({ g with meet := alMap g.meet e fun m => { m with pmask := m.pmask ||| p.live } }.dropSplit slot).settle e))))
  ∧ (∀ (s : State) (k slot : Nat) (g : Group) (p : Split) (n : BitVec 4), Poised s (.brk n) k slot g p →
      let act := activeLanes g p
      (act = 0 → exec (.brk n) s = .next (s.mapSplit k slot Split.advance))
      ∧ (act ≠ 0 → ∀ es, openAll g p es → es.length < n.toNat + 1 → exec (.brk n) s = .next (s.wordTrap k slot p.pc act (trapOf 0x0D)))
      ∧ (act ≠ 0 → ∀ es, openEntries g p (n.toNat + 1) es →
        ∃ g' : Group, exec (.brk n) s = .next (s.putGroup k (es.foldl Group.settle g')) ∧
          g' = { g with meet := g'.meet, splits := g'.splits } ∧
          g'.splits = (if p.live &&& ~~~act = 0 then g.splits.filter (fun q => q.slot ≠ slot)
            else g.splits.map (fun q => if q.slot = slot then { closed q with live := q.live &&& ~~~act, exec := q.exec &&& ~~~act } else q)) ∧
          ∀ e, alGet g'.meet e = (alGet g.meet e).map fun m =>
            let m := if e ∈ es then { m with full := m.full &&& ~~~act } else m
            if es.getLast? = some e then { m with exitm := m.exitm ||| act } else m))

/-! ### Memory words -/

/-- Loads complete: LDG, LD, LDS and LDW, every active lane reaching a place whose line is free, leave one operation outstanding, which is to write the active lanes of the destination alone; only L1 lines, cached translations and, where a wide scope, an order or a bypass makes the core write back its dirty bytes, the homes of L1 lines change. A relaxed load of lines that no L1 holds, such as scratchpad lines, of lines of which the core holds no dirty byte, and, at .grp or .team without a bypass of the L1, of lines of which the core's copy is whole, leaves all of memory as it was (06 R126, 09 R201, 11 R228 to R231). What loads deliver: for a size code, the little-endian value of the bytes, extended as R230 says. Where no L1 stands between (LDS, LDW; lines that no L1 holds) every active lane of a relaxed load is to receive the bytes of its line; a relaxed load at .grp or .team, with one active lane, delivers what the core sees of the line. Stated for an empty store buffer, whose stores a load of the region would see first. -/
def Obligations.LoadWords : Prop :=
  (∀ (s : State) (i : Instr) (k slot : Nat) (g : Group) (p : Split) (f : MemForm) (ts : Nat → Target),
      Poised s i k slot g p → memForm i = some f → f.stores = false → activeLanes g p ≠ 0 → Counted g p true →
      AllReach i s k slot g g p ts → LinesFree s g g p ts → SysQuiet s k g f.order f.scope →
      ∃ t o, exec i s = .next t ∧ MemoryIssue s k slot o t ∧ pendingOf o s g p ∧ o.sides = [] ∧ o.xflags = 0 ∧
        (∀ key x, (key, x) ∈ o.vals → ∃ l, acts g g p l ∧ (key = f.d * 64 + l ∨ (f.z = 5 ∧ key = (f.d + 1) * 64 + l))) ∧
        (∀ a, uncached s a → memGet t.mem a = memGet s.mem a) ∧
        (f.order = .rlx → (∀ l ln off, acts g g p l → ts l = .line ln off → s.noL1 (k / 64) ln = true ∨
          ∀ x, s.l1Get (k / 64) ln.ia = some x → x.dirty = 0 ∨ ((f.scope = .grp ∨ f.scope = .team) ∧ cachePolicy p ≠ 3 ∧ x.valid = allBytes)) →
          t.mem = s.mem))
  ∧ (∀ (s : State) (i : Instr) (k slot : Nat) (g : Group) (p : Split) (f : MemForm) (ts : Nat → Target) (l : Nat) (ln : LineRef) (off : Nat),
      Poised s i k slot g p → memForm i = some f → f.stores = false → Counted g p true → g.buf = [] → f.order = .rlx → f.z < 6 →
      AllReach i s k slot g g p ts → LinesFree s g g p ts → acts g g p l → ts l = .line ln off →
      let bits := if f.z = 5 then 64 else 32
      ((∀ l ln off, acts g g p l → ts l = .line ln off → s.noL1 (k / 64) ln = true) →
        ∃ t o, exec i s = .next t ∧ MemoryIssue s k slot o t ∧
          delivers o (f.z = 5) f.d l (extended f.z (leNat (s.bytes ln.key off (sizeBytes f.z))) % 2 ^ bits).toNat)
      ∧ (f.scope = .grp ∨ f.scope = .team → cachePolicy p ≠ 3 → onlyLane g g p l → off + sizeBytes f.z ≤ 128 → cachesOk s → homedLine s (k / 64) ln →
        ∃ t o, exec i s = .next t ∧ MemoryIssue s k slot o t ∧
          delivers o (f.z = 5) f.d l (extended f.z (leNat (coreSees s (k / 64) ln off (sizeBytes f.z))) % 2 ^ bits).toNat))

/-- Stores complete outside regions: STG, ST and STS, every active lane reaching a place whose line is free, leave one operation outstanding that writes no register; only memory, L1 lines and cached translations change, and every byte of memory that no active lane stores to, and whose line no L1 holds, is as it was (06 R126, 11 R227 to R231). Stores in an open region are buffered: STG, ST and STS to global lines, and to scratchpad lines that are present, when their lines fit the store buffer, leave memory as it was; the group's buffer gains one effect for each active lane, at the place the lane reaches, with the bytes of its element; the word is counted as outside a region. Beyond the buffer's lines they trap REGION_OVERFLOW (11 R229, 16 R316). -/
def Obligations.StoreWords : Prop :=
  (∀ (s : State) (i : Instr) (k slot : Nat) (g : Group) (p : Split) (f : MemForm) (ts : Nat → Target),
      Poised s i k slot g p → memForm i = some f → f.stores = true → activeLanes g p ≠ 0 → Counted g p false → g.region = none →
      AllReach i s k slot g g p ts → LinesFree s g g p ts → SysQuiet s k g f.order f.scope →
      ∃ t o, exec i s = .next t ∧ MemoryIssue s k slot o t ∧ pendingOf o s g p ∧ o.vals = [] ∧ o.sides = [] ∧ o.xflags = 0 ∧
        ∀ a, uncached s a → (∀ l ln off, acts g g p l → ts l = .line ln off → a < ln.key * 256 + off ∨ ln.key * 256 + off + sizeBytes f.z ≤ a) →
          memGet t.mem a = memGet s.mem a)
  ∧ (∀ (s : State) (i : Instr) (k slot : Nat) (g : Group) (p : Split) (f : MemForm) (ts : Nat → Target),
      Poised s i k slot g p → memForm i = some f → f.stores = true → activeLanes g p ≠ 0 → Counted g p false → g.region.isSome = true →
      (∀ l, acts g g p l → ∃ ln off, ts l = .line ln off ∧ (keyIsSram ln.key = true → (s.sramSt ln.key).present = true)) →
      AllReach i s k slot g g p ts →
      ∃ es : List BufEntry,
        (∀ b ∈ es, ∃ l ln off, acts g g p l ∧ ts l = .line ln off ∧ b.line = ln ∧ b.order = f.order ∧ b.scope = f.scope ∧
          b.kind = .store off (natLe (laneOf g.v (f.z = 5) f.d l) (sizeBytes f.z)) none) ∧
        es.length = ((List.range 64).filter fun l => decide (l < g.width) && hasLane (activeLanes g p) l).length ∧
        (bufFits (if g.glint.isSome then 8 else 32) g.buf es = true →
          ∃ t o, exec i s = .next t ∧ pendingOf o s g p ∧ o.vals = [] ∧
            t = { issuedPending (s.mapGroup k fun g => { g with buf := g.buf ++ es }) k slot o with l1 := t.l1 })
        ∧ (bufFits (if g.glint.isSome then 8 else 32) g.buf es = false →
          exec i s = .next (s.wordTrap k slot p.pc (activeLanes g p) (trapOf 0x67))))

/-- What stores leave. Where no L1 stands between (STS; lines that no L1 holds), with no order: each byte that active lanes store to holds the value of the highest of them, and every other byte of memory is as it was. With one active lane, a relaxed store at .grp or .team: the core sees the stored value (11 R227, R230). -/
def Obligations.StoredValues : Prop :=
  ∀ (s : State) (i : Instr) (k slot : Nat) (g : Group) (p : Split) (f : MemForm) (ts : Nat → Target),
    Poised s i k slot g p → memForm i = some f → f.stores = true → activeLanes g p ≠ 0 → Counted g p false → g.region = none →
    AllReach i s k slot g g p ts → LinesFree s g g p ts → f.order = .rlx → f.z < 6 →
    let covers := fun l a => ∃ ln off, ts l = .line ln off ∧ ln.key * 256 + off ≤ a ∧ a < ln.key * 256 + off + sizeBytes f.z
    ((∀ l ln off, acts g g p l → ts l = .line ln off → s.noL1 (k / 64) ln = true) →
      ∃ t, exec i s = .next t ∧ ∀ a,
        ((∀ l, acts g g p l → ¬covers l a) → memGet t.mem a = memGet s.mem a) ∧
        ∀ l ln off, acts g g p l → ts l = .line ln off → covers l a → (∀ l', acts g g p l' → l < l' → ¬covers l' a) →
          memGet t.mem a = byteAt (natLe (laneOf g.v (f.z = 5) f.d l) (sizeBytes f.z)) (a - (ln.key * 256 + off)))
    ∧ (f.scope = .grp ∨ f.scope = .team → cachesOk s → ∀ l ln off, onlyLane g g p l → ts l = .line ln off → off + sizeBytes f.z ≤ 128 →
      ∃ t, exec i s = .next t ∧ coreSees t (k / 64) ln off (sizeBytes f.z) = natLe (laneOf g.v (f.z = 5) f.d l) (sizeBytes f.z))

/-- A lane form whose active lanes meet faults traps on one of them: the first cause in the order of 11 R226 that holds for some lane, its address in FADDR, and LANES holding that lane; nothing of the form is performed. It covers LDG, STG, LD, ST, LDS, STS, LDW and RED. -/
def Obligations.LaneFaultsTrap : Prop :=
  ∀ (s : State) (i : Instr) (k slot : Nat) (g : Group) (p : Split) (bad : Nat) (f : AccFault),
    Poised s i k slot g p →
    ((memForm i).isSome = true ∨ (p.midLanes = false ∧ ∃ d a o c r, i = .red d a o c r)) →
    Counted g p ((memForm i).map (fun f => !f.stores) |>.getD false) →
    acts g g p bad → laneReaches i s k slot g g p bad = some (.error f) →
    ∃ (tr : TrapInfo) (l : Nat) (f' : AccFault), exec i s = .next (s.wordTrap k slot p.pc (activeLanes g p) tr) ∧
      acts g g p l ∧ laneReaches i s k slot g g p l = some (.error f') ∧ f'.rank ≤ f.rank ∧
      tr.cause = f'.cause ∧ tr.faddr = BitVec.ofNat 64 (laneAddress i g p l) ∧ ∃ m, tr.lanes = some m ∧ hasLane m l = true

/-- Block records complete (11 R232). BLD, its lines reached and free, leaves one operation outstanding, which is to write the active lanes of the destination block and the sidecars of d; with no store of the region buffered, of lines that its core sees whole, an active lane of slice q is to receive element i of the record in slot (s[b] + q) mod RPL, and the sidecar of slice q the record's scale and the slot's two tag bits. BST outside a region writes the record and the tag of each slice: the core then sees, in that slot of the slice's line, the scale byte, the 32 elements packed and the tag; every byte of memory in a line that it does not store to, and that no L1 holds, is as it was. In a region it buffers one effect for each slice: the record's bytes at the slot's offset with the slot's tag; beyond the buffer's lines it traps REGION_OVERFLOW. -/
def Obligations.BlockRecordsComplete : Prop :=
  ∀ (s : State) (k slot : Nat) (g : Group) (p : Split) (d b : BitVec 7) (a : BitVec 6) (c : BitVec 2) (bs : List (Nat × Nat × LineRef)),
    activeLanes g p ≠ 0 →
    (∀ x ∈ bs, s.isOwned x.2.2 = false ∧ (keyIsSram x.2.2.key = true → (s.sramSt x.2.2.key).present = true)) →
    let at' := fun q => recordSlot g b.toNat c.toNat q * recordBytes c.toNat
    (Poised s (.bld d a b c) k slot g p → Counted g p true → s.reachBlocks (wordEnv k slot g g p) a b c.toNat .load = .ok bs →
      ∃ t o, exec (.bld d a b c) s = .next t ∧ MemoryIssue s k slot o t ∧ pendingOf o s g p ∧ o.xflags = 0 ∧
        (∀ key x, (key, x) ∈ o.vals → ∃ l, acts g { g with width := 64 } p l ∧ (key = d.toNat * 64 + l ∨ (g.width = 16 ∧ key = (d.toNat + 1) * 64 + l))) ∧
        (∀ key x, (key, x) ∈ o.sides → key = d.toNat * 2 ∨ key = d.toNat * 2 + 1) ∧
        (∀ a, uncached s a → memGet t.mem a = memGet s.mem a) ∧
        (g.buf = [] → cachePolicy p ≠ 3 → (∀ x ∈ bs, wholeLine s (k / 64) x.2.2) → ∀ q va ln, (q, va, ln) ∈ bs →
          let n := leNat (coreSees s (k / 64) ln (at' q) (recordBytes c.toNat))
          let tags := leNat (coreSees s (k / 64) ln 136 2)
          alGet o.sides (d.toNat * 2 + q) = some (BitVec.ofNat 10 (tags / 4 ^ recordSlot g b.toNat c.toNat q % 4 * 256 + n % 256)) ∧
          ∀ i < 32, elementActs g p q i = true →
            delivers o false (elementPlace g d.toNat q i).1 (elementPlace g d.toNat q i).2
              (n / 256 / 2 ^ (widthOf c.toNat * i) % 2 ^ widthOf c.toNat)))
    ∧ (Poised s (.bst d a b c) k slot g p → Counted g p false → s.reachBlocks (wordEnv k slot g g p) a b c.toNat .store = .ok bs →
      (g.region = none →
        ∃ t o, exec (.bst d a b c) s = .next t ∧ MemoryIssue s k slot o t ∧ pendingOf o s g p ∧ o.vals = [] ∧ o.sides = [] ∧
          (∀ a, uncached s a → (∀ x ∈ bs, x.2.2.key ≠ a / 256) → memGet t.mem a = memGet s.mem a) ∧
          (cachesOk s → (∀ x ∈ bs, homedLine s (k / 64) x.2.2) →
            (∀ x ∈ bs, ∀ y ∈ bs, x.2.2 = y.2.2 ∨ (x.2.2.key ≠ y.2.2.key ∧ x.2.2.ia ≠ y.2.2.ia)) → ∀ q va ln, (q, va, ln) ∈ bs →
            coreSees t (k / 64) ln (at' q) (recordBytes c.toNat) = storedRecord g c.toNat d.toNat q ∧
            leNat (coreSees t (k / 64) ln 136 2) / 4 ^ recordSlot g b.toNat c.toNat q % 4 = (storedTag g d.toNat q).toNat))
      ∧ (g.region.isSome = true →
        let es := bs.map fun x =>
          ({ line := x.2.2, va := BitVec.ofNat 64 x.2.1,
             kind := .store (at' x.1) (storedRecord g c.toNat d.toNat x.1) (some (recordSlot g b.toNat c.toNat x.1, storedTag g d.toNat x.1)),
             order := .rlx, scope := .grp, cp := cachePolicy p, pc := p.pc } : BufEntry)
        (bufFits (if g.glint.isSome then 8 else 32) g.buf es = true →
          ∃ t o, exec (.bst d a b c) s = .next t ∧ pendingOf o s g p ∧ o.vals = [] ∧ o.sides = [] ∧
            t = issuedPending (s.mapGroup k fun g => { g with buf := g.buf ++ es }) k slot o)
        ∧ (bufFits (if g.glint.isSome then 8 else 32) g.buf es = false →
          exec (.bst d a b c) s = .next (s.wordTrap k slot p.pc (activeLanes g p) (trapOf 0x67)))))

/-- Atomics complete: outside regions, and an ATOM in a region whose log does not hold it, performed at once and logged; a releasing ATOM after the commit that it makes first. ATOM leaves one operation outstanding that is to write the old values and raise its flags, RED one that writes no register and raises its flags; every byte of memory that no active lane's location covers, and whose line no L1 holds, is as it was. With one active lane and no L1 copy of its line, the location holds the value of 11 R233, the flags of its operation are raised, and ATOM is to deliver the old value (11 R229, R234, 16 R317; when STEPOVF is raised is the model's reading, log entry 107). Writes of other agents may come between two lanes (11 R227): where they do after m lanes, which the model takes from a field of State (log entry 5), those lanes act, in lane order, and the word goes on from the next lane when it issues again; it completes with the last. Atomics in an open region (11 R229, 16 R316, R317): a RED whose lines fit is buffered, one effect for each active lane, memory as it was; an ATOM that replays delivers the logged values without touching memory, raises no flag but STEPOVF for an infinity or a NaN that it delivers, and the log's next entry is due; one that the log does not hold is performed and logged after the entries before it. -/
def Obligations.AtomicWords : Prop :=
  (∀ (s s1 : State) (i : Instr) (k slot : Nat) (g g1 : Group) (p : Split) (d : Nat) (op : BitVec 4) (o : MemOrder) (c : Scope) (returns : Bool)
      (ts : Nat → Target),
      Poised s i k slot g p → p.midLanes = false → atomForm i = some (d, op, o, c, returns) → activeLanes g p ≠ 0 → Counted g p returns →
      StartsIn (returns && o.rels) s k slot g p s1 g1 → ¬glintBar i g g1 p →
      (g1.region = none ∨ (returns = true ∧ ∃ keep later, g1.logStep (activeLanes g p) (laneLocations i g g1 p) = .perform keep later)) →
      AllReach i s1 k slot g g1 p ts → LinesFree s1 g g1 p ts → SysQuiet s1 k g1 o c →
      (s1.laneCut = none → ∃ t q x, exec i s = .next t ∧ pendingOf q s1 g1 p ∧ q.sides = [] ∧ (returns = false → q.vals = [] ∧ q.xflags = 0) ∧
        t = { issuedPending (s1.mapGroup k fun g => g.raise x) k slot q with
              mem := t.mem, l1 := t.l1, tlb := t.tlb, teamRels := t.teamRels, metWaits := t.metWaits, groups := t.groups } ∧
        (returns = true → x = 0) ∧
        (g1.region = none → t.groups = (issuedPending (s1.mapGroup k fun g => g.raise x) k slot q).groups) ∧
        (g1.region.isSome = true → ∀ keep later, g1.logStep (activeLanes g p) (laneLocations i g g1 p) = .perform keep later →
          ∃ g' vals, t.group? k = some g' ∧ q.vals = atomValues d vals ∧ g'.replayPos = keep.length + 1 ∧
            g'.log = keep ++ ⟨activeLanes g p, laneLocations i g g1 p, vals, false⟩ :: later ∧ g'.v = g1.v ∧ g'.s = g1.s ∧ g'.p = g1.p ∧
            g'.xflags = g1.xflags) ∧
        (∀ a, uncached s1 a → (∀ l ln off, acts g g1 p l → ts l = .line ln off → a < ln.key * 256 + off ∨ ln.key * 256 + off + atomSize op ≤ a) →
          memGet t.mem a = memGet s1.mem a) ∧
        ∀ l ln off, onlyLane g g1 p l → ts l = .line ln off → s1.l1Get (k / 64) ln.ia = none → o.rels = false → ¬(o.acqs = true ∧ c = .prom) →
          let old := leNat (s1.bytes ln.key off (atomSize op))
          let new := atomMeaning (roundingOf p) op old ((List.range (atomWords op)).map fun j => g1.vreg (d + j) l)
          leNat (t.bytes ln.key off (atomSize op)) = new.1 ∧
            (returns = true → delivers q (atomSize op = 8) d l old ∧ q.xflags = atomRaises new.2 op (some old)) ∧
            (returns = false → x = atomRaises new.2 op none))
      ∧ (∀ m, s1.laneCut = some m → m < (laneLocations i g g1 p).length →
        ∃ t g' all vals fl, exec i s = .next t ∧ t.laneCut = none ∧ t.group? k = some g' ∧
          g' = g1.mapSplit slot (fun q => { q with park := .retry (.lanes all vals fl) }) ∧
          all.map (·.1) = (laneLocations i g g1 p).map (·.1) ∧ vals.map (·.1) = ((laneLocations i g g1 p).map (·.1)).take m ∧
          (∀ k', k' ≠ k → t.group? k' = s1.group? k') ∧
          ∀ a, uncached s1 a → (∀ l ln off, l ∈ vals.map (·.1) → ts l = .line ln off → a < ln.key * 256 + off ∨ ln.key * 256 + off + atomSize op ≤ a) →
            memGet t.mem a = memGet s1.mem a))
  ∧ (∀ (s : State) (i : Instr) (k slot : Nat) (g : Group) (p : Split) (d : Nat) (op : BitVec 4) (o : MemOrder) (c : Scope) (returns : Bool)
      (all : List (Nat × BufEntry)) (vals : List (Nat × List Word)) (fl : BitVec 8),
      Poised s i k slot g p → p.park = .retry (.lanes all vals fl) → atomForm i = some (d, op, o, c, returns) → activeLanes g p ≠ 0 →
      Counted g p returns → ¬glintBar i g g p → g.region = none → s.laneCut = none → vals.length ≤ all.length →
      (∀ x ∈ all, ∃ off w m sat flush, x.2.kind = .red off op w m sat flush) →
      ∃ t q new x, exec i s = .next t ∧ pendingOf q s g p ∧ new.map (·.1) = (all.drop vals.length).map (·.1) ∧
        q.vals = (if returns then atomValues d (vals ++ new) else []) ∧ (if returns then q.xflags &&& fl = fl ∧ x = 0 else q.xflags = 0 ∧ x &&& fl = fl) ∧
        t.groups = (issuedPending (s.mapGroup k fun g => g.raise x) k slot q).groups ∧
        ∀ a, uncached s a → (∀ x ∈ all.drop vals.length, ∀ off w m sat flush, x.2.kind = .red off op w m sat flush →
            a < x.2.line.key * 256 + off ∨ x.2.line.key * 256 + off + atomSize op ≤ a) → memGet t.mem a = memGet s.mem a)
  ∧ (∀ (s : State) (k slot : Nat) (g : Group) (p : Split) (d a : BitVec 7) (o : BitVec 4) (c : BitVec 3) (r : BitVec 2),
      activeLanes g p ≠ 0 → p.midLanes = false → g.region.isSome = true →
      (∀ ts, Poised s (.red d a o c r) k slot g p → Counted g p false → AllReach (.red d a o c r) s k slot g g p ts →
        (∀ l, acts g g p l → ∃ ln off, ts l = .line ln off ∧ (keyIsSram ln.key = true → (s.sramSt ln.key).present = true)) →
        ∃ es : List BufEntry, es.length = (laneLocations (.red d a o c r) g g p).length ∧
          (∀ b ∈ es, ∃ l ln off, acts g g p l ∧ ts l = .line ln off ∧ b.line = ln ∧ b.order = memOrder r ∧
            b.kind = .red off o ((List.range (atomWords o)).map fun j => g.vreg (d.toNat + j) l) (roundingOf p).mode (roundingOf p).sat (roundingOf p).flush) ∧
          (bufFits (if g.glint.isSome then 8 else 32) g.buf es = true →
            ∃ t q, exec (.red d a o c r) s = .next t ∧ pendingOf q s g p ∧ q.vals = [] ∧
              t = { issuedPending (s.mapGroup k fun g => { g with buf := g.buf ++ es }) k slot q with l1 := t.l1 }))
      ∧ (Poised s (.atom d a o c r) k slot g p → Counted g p true → (memOrder r).rels = false → ¬glintBar (.atom d a o c r) g g p →
        ∀ en, g.log[g.replayPos]? = some en → en.failed = false → en.lanes = activeLanes g p → en.locs = laneLocations (.atom d a o c r) g g p →
          ∃ q, exec (.atom d a o c r) s = .next (issuedPending (s.mapGroup k fun g => { g with replayPos := g.replayPos + 1 }) k slot q) ∧
            pendingOf q s g p ∧ q.vals = atomValues d.toNat en.vals ∧
            q.xflags = if en.vals.any (fun v => atomInfinite o ((v.2.getD 0 0).toNat + 2 ^ 32 * (v.2.getD 1 0).toNat)) then fSTEPOVF else 0))

/-- ATOM.DET completes: outside a region one entry for each active lane is on its way to the word's home slice, with the lane's value, in the lanes' order, and the operation that counts them is outstanding; in a region whose buffer they fit the entries are buffered; memory is as it was, but for dirty bytes that the core held of those lines, which an entry sent writes back first (09 R201), and the word is counted (11 R235); beyond the buffer's lines it traps REGION_OVERFLOW. DSYNC and DSYNC.all (11 R237, R238): while an entry of the grid is on its way they wait; when none is held for the grid they only acquire at device scope. When every entry of the grid is in a holding buffer, each buffer at a word of its own whose line is ready, free, held dirty by no L1 and reached by a cached translation or in the Prism, DSYNC.all completes: each word gains its buffer's entries, one rounded addition after another in the order of their keys, every other byte of memory is as it was, and the buffers are freed. -/
def Obligations.DeterministicWords : Prop :=
  (∀ (s : State) (i : Instr) (bf : Bool) (d a : BitVec 7) (k slot : Nat) (g : Group) (p : Split) (ts : Nat → Target),
      ((i = .atomDetFadd d a ∧ bf = false) ∨ (i = .atomDetBfadd2 d a ∧ bf = true)) → Poised s i k slot g p → (∃ l, acts g g p l) →
      Counted g p.dropMod false → AllReach i s k slot g g p ts → (∀ l, acts g g p l → ∃ ln off, ts l = .line ln off) →
      (g.region = none → g.glint = none → (∀ o ∈ g.pend, o.id < s.fresh) →
        ∃ (t : State) (reqs : List SliceReq) (n : Nat), exec i s = .next t ∧ (∀ b, uncached s b → memGet t.mem b = memGet s.mem b) ∧
          ((∀ l ln off x, acts g g p l → ts l = .line ln off → s.l1Get (k / 64) ln.ia = some x → x.dirty = 0) → t.mem = s.mem) ∧
          t.sliceReqs = s.sliceReqs ++ reqs ∧
          reqs.map (·.lane) = (laneLocations i g g p).map (·.1) ∧ n = reqs.length ∧
          (∀ q ∈ reqs, ∃ ln off, acts g g p q.lane ∧ ts q.lane = .line ln off ∧ q.line = ln ∧ q.off = off ∧ q.bf = bf ∧
            q.slice = homeSlice (ln.ia * 128) ∧ q.value = g.vreg d.toNat q.lane ∧ q.key = k ∧ q.pc = p.pc ∧ q.promoted = false) ∧
          ∃ g' o, t.group? k = some g' ∧ g'.pend = g.pend ++ [o] ∧ (∀ q ∈ reqs, q.pend = o.id) ∧ o.flag = flagOf g p.dropMod ∧
            o.kind = .det n none false ∧ g'.v = g.v ∧ g'.s = g.s ∧ g'.p = g.p ∧ g'.xflags = g.xflags ∧ g'.detSeq = g.detSeq)
      ∧ (g.region.isSome = true →
        ∃ es : List BufEntry, es.length = (laneLocations i g g p).length ∧
          (∀ b ∈ es, ∃ l ln off, acts g g p l ∧ ts l = .line ln off ∧ b.line = ln ∧ b.kind = .det off l bf (g.vreg d.toNat l) s.fresh) ∧
          (bufFits (if g.glint.isSome then 8 else 32) g.buf es = true →
            ∃ t o, exec i s = .next t ∧ t.mem = s.mem ∧ t.group? k = ((advanced (s.mapGroup k fun g =>
                { g with buf := g.buf ++ es, pend := g.pend ++ [o] }) k slot).group? k) ∧ o.kind = .thread ∧ o.vals = [] ∧
              o.flag = flagOf g p.dropMod) ∧
          (bufFits (if g.glint.isSome then 8 else 32) g.buf es = false → exec i s = .next (s.wordTrap k slot p.pc (activeLanes g p) (trapOf 0x67)))))
  ∧ (∀ (s s1 : State) (i : Instr) (k slot : Nat) (g g1 : Group) (p : Split) (tm : Team),
      Poised s i k slot g p → scalarRuns g p → StartsIn true s k slot g p s1 g1 → s1.team? g1.team = some tm → tm.ctx = g1.ctx →
      (i = .dsyncAll ∨ ∃ a l, i = .dsync a ∧ s1.reachScalar (wordEnv k slot g g1 p) (pairNat g1.s a.toNat) 4 .store true = .ok l) →
      let mine := s1.detBufs.filter fun b => decide (b.ctx = tm.ctx) && decide (b.grid = tm.grid)
      ((∃ q ∈ s1.sliceReqs, q.ctx = tm.ctx ∧ q.grid = tm.grid) →
        exec i s = .next (s1.mapSplit k slot fun q => { q with park := .retry .detInFlight }))
      ∧ ((∀ q ∈ s1.sliceReqs, ¬(q.ctx = tm.ctx ∧ q.grid = tm.grid)) → (∀ r ∈ s1.detRuns, ¬(r.ctx = tm.ctx ∧ r.grid = tm.grid)) →
        (mine = [] → ∃ t, exec i s = .next t ∧ t = { advanced s1 k slot with l1 := t.l1 })
        ∧ ∀ place : DetBuf → LineRef, i = .dsyncAll → mine.Nodup →
          (∀ b ∈ mine, MergesAt s1 tm b (place b)) →
          (∀ b ∈ mine, ∀ b' ∈ mine, b ≠ b' → wordAddr (place b) b + 4 ≤ wordAddr (place b') b' ∨ wordAddr (place b') b' + 4 ≤ wordAddr (place b) b) →
          ∃ t, exec i s = .next t ∧ t.detBufs = s1.detBufs.filter (fun b => !(decide (b.ctx = tm.ctx) && decide (b.grid = tm.grid))) ∧
            (∀ b ∈ mine, ∃ es : List DetEntry, es.Perm b.entries ∧ es.Pairwise keyOrder ∧
              leNat (t.bytes (place b).key b.off 4) = es.foldl detSum (leNat (s1.bytes (place b).key b.off 4))) ∧
            ∀ a, (∀ b ∈ mine, a < wordAddr (place b) b ∨ wordAddr (place b) b + 4 ≤ a) → memGet t.mem a = memGet s1.mem a))

/-- FENCE (10 R219, R220, 11 R239, 19 R352): one with an acquire half waits until the operations of its domains have ended, and one with a release half at .sys until no fabric operation of the group is outstanding. When what it waits for has ended it completes: it changes L1 lines, the homes of L1 lines, what is remembered of team releases and satisfied waits and, with .pt, the cached translations, which it discards; after one of order other than .rlx at .die or wider, with .pt, or with a release half that names an engine domain, the core holds no dirty byte; after one with an acquire half at .die or wider its L1 holds no line. -/
def Obligations.FenceCompletes : Prop :=
  ∀ (s s1 : State) (k slot : Nat) (g g1 : Group) (p : Split) (m : BitVec 4) (c : BitVec 3) (pt : BitVec 1) (r : BitVec 2),
    Poised s (.fence m c pt r) k slot g p → scalarRuns g p → StartsIn (memOrder r).rels s k slot g p s1 g1 →
    ((memOrder r).acqs = true → s1.domainsDone k g1 m = false →
      exec (.fence m c pt r) s = .next (s1.mapSplit k slot fun q => { q with park := .retry (.domains m) }))
    ∧ (((memOrder r).acqs = true → s1.domainsDone k g1 m = true) → (memOrder r).rels = true → memScope c = .sys → s1.fabricPending k g1 = true →
      exec (.fence m c pt r) s = .next (s1.mapSplit k slot fun q => { q with park := .retry .fence }))
    ∧ (((memOrder r).acqs = true → s1.domainsDone k g1 m = true) → SysQuiet s1 k g1 (memOrder r) (memScope c) →
      ∃ t, exec (.fence m c pt r) s = .next t ∧
        t = { advanced s1 k slot with mem := t.mem, l1 := t.l1, tlb := t.tlb, teamRels := t.teamRels, metWaits := t.metWaits } ∧
        (∀ a, uncached s1 a → memGet t.mem a = memGet s1.mem a) ∧
        t.tlb = (if pt = 1 then [] else s1.tlb) ∧
        ((memOrder r ≠ .rlx ∧ 2 ≤ c.toNat) ∨ pt = 1 ∨ ((memOrder r).rels = true ∧ m.toNat % 8 ≠ 0) → keysRise none s1.l1 = true →
          ∀ x ∈ t.l1, x.1 / 2 ^ 45 = k / 64 → x.2.dirty = 0) ∧
        ((memOrder r).acqs = true → 2 ≤ c.toNat → keysRise none s1.l1 = true → ∀ x ∈ t.l1, x.1 / 2 ^ 45 ≠ k / 64))

/-- Waits on words (09 R202, 11 R240): WAITGE of a word that can be read and that no core holds dirty completes when the word's 64-bit value is at least the one it names, and else parks the split on the word. VPUB completes (11 R240): outside a region, the word it names, whose line is free and not in the core's L1, gains 1 modulo 2^64 and every byte outside it, of a line that no L1 holds, is as it was; the word is counted. -/
def Obligations.VersionWords : Prop :=
  (∀ (s : State) (k slot : Nat) (g : Group) (p : Split) (d a : BitVec 7) (c : BitVec 3) (l : LineRef),
      Poised s (.waitge d a c) k slot g p → scalarRuns g p →
      s.reachScalar (wordEnv k slot g g p) (pairNat g.s a.toNat) 8 .load false = .ok l → s.isOwned l = false → keyIsSram l.key = false →
      (∀ x ∈ s.l1, x.2.dirty ≠ 0 → x.1 % 2 ^ 45 ≠ l.ia ∧ x.2.home ≠ l.key) →
      let value := leNat (overlayBuf l.key (pairNat g.s a.toNat % 128) (s.bytes l.key (pairNat g.s a.toNat % 128) 8) g.buf)
      (pairNat g.s d.toNat ≤ value → ∃ t, exec (.waitge d a c) s = .next t ∧ (memScope c ≠ .prom → t.mem = s.mem ∧ t.teamRels = s.teamRels ∧ t.metWaits = s.metWaits) ∧
        t = { advanced s k slot with mem := t.mem, l1 := t.l1, tlb := t.tlb, teamRels := t.teamRels, metWaits := t.metWaits })
      ∧ (value < pairNat g.s d.toNat → ∃ t w, exec (.waitge d a c) s = .next t ∧ w.line = l ∧ w.off = pairNat g.s a.toNat % 128 ∧
        w.least.toNat = pairNat g.s d.toNat ∧ (memScope c ≠ .prom → t.mem = s.mem ∧ t.teamRels = s.teamRels ∧ t.metWaits = s.metWaits) ∧
        t = { s.mapSplit k slot (fun q => { q with park := .word w }) with
              mem := t.mem, l1 := t.l1, tlb := t.tlb, teamRels := t.teamRels, metWaits := t.metWaits }))
  ∧ (∀ (s s1 : State) (k slot : Nat) (g g1 : Group) (p : Split) (a : BitVec 7) (c : BitVec 3) (l : LineRef),
      Poised s (.vpub a c) k slot g p → scalarRuns g p → Counted g p.dropMod false → StartsIn true s k slot g p s1 g1 → g1.region = none →
      s1.reachScalar (wordEnv k slot g g1 p) (pairNat g1.s a.toNat) 8 .store true = .ok l → s1.isOwned l = false → keyIsSram l.key = false →
      SysQuiet s1 k g1 .rel (memScope c) →
      ∃ t q, exec (.vpub a c) s = .next t ∧ MemoryIssue s1 k slot q t ∧ q.vals = [] ∧ q.flag = flagOf g p.dropMod ∧
        (∀ b, uncached s1 b → (b < l.key * 256 + pairNat g1.s a.toNat % 128 ∨ l.key * 256 + pairNat g1.s a.toNat % 128 + 8 ≤ b) →
          memGet t.mem b = memGet s1.mem b) ∧
        (s1.l1 = [] → leNat (t.bytes l.key (pairNat g1.s a.toNat % 128) 8) =
          (leNat (s1.bytes l.key (pairNat g1.s a.toNat % 128) 8) + 1) % 2 ^ 64))

/-- PRIVADDR and PREF (11 R241, R242): PRIVADDR delivers an address outside the private window as it is, and one at offset o inside it, below PRIVSZ, as PRIVBASE + (64 q + l) × PRIVSZ + o; an offset beyond traps ADDRESS_RANGE, with the code of a load, 0x44, which R241 does not say and is the model's reading (log entry 47); PREF completes whatever its addresses are, and changes L1 lines and cached translations alone. -/
def Obligations.PrivateAddressAndPrefetch : Prop :=
  ∀ (s : State) (k slot : Nat) (g : Group) (p : Split) (d a : BitVec 7) (lev : BitVec 2), activeLanes g p ≠ 0 →
    let c := s.ctxOf g
    let inside := fun x : Nat => 0xFF000000000000 ≤ x ∧ x < 0xFF000100000000
    (Poised s (.privaddr d a) k slot g p →
      ((∀ l, acts g g p l → ¬inside (laneOf g.v true a.toNat l) ∨ laneOf g.v true a.toNat l % 2 ^ 32 < c.privsz) →
        ∃ v, exec (.privaddr d a) s = .next (after s k slot (vectorResult g v 0)) ∧
          ∀ l, acts g g p l → laneOf v true d.toNat l =
            if inside (laneOf g.v true a.toNat l) then (c.privbase + (64 * g.pslot + l) * c.privsz + laneOf g.v true a.toNat l % 2 ^ 32) % 2 ^ 64
            else laneOf g.v true a.toNat l)
      ∧ ((∃ l, acts g g p l ∧ inside (laneOf g.v true a.toNat l) ∧ c.privsz ≤ laneOf g.v true a.toNat l % 2 ^ 32) →
        ∃ tr, exec (.privaddr d a) s = .next (s.wordTrap k slot p.pc (activeLanes g p) tr) ∧ tr.cause = 0x44))
    ∧ (Poised s (.pref a lev) k slot g p → ∃ t, exec (.pref a lev) s = .next t ∧ t = { advanced s k slot with l1 := t.l1, tlb := t.tlb })

/-! ### Barriers -/

/-- BARINIT (14 R298): it sets INIT, LAX and EXPECT, clears OVR, FLT, PEND and LSTAT, loads REMAIN and keeps PHASE; with REMAIN ≠ EXPECT, PEND ≠ 0 or a group parked on the barrier it traps BAR_STATE and changes nothing. Arrivals, byte counts, tests and waits at a barrier (12 R259, 14 R299 to R302, 08 R172). An arrival, which releases at team scope first, and is not the last, gives s[d] the PHASE and takes REMAIN down by 1; an arrival with none awaited is an overrun, which sets OVR in strict mode; BAREXP adds to PEND, or traps BAR_STATE when the sum reaches 2^32; BARTEST reads the 64 bits; BARWAIT on the current phase parks, on the one just past it traps BAR_OVERRUN when that phase had an overrun in strict mode, and else it completes; TBAR parks. When neither an arrival nor a byte is awaited any more, after an arrival or a BAREXP, the phase completes: LSTAT takes OVR and FLT, which are cleared, PHASE goes up, and REMAIN is EXPECT again. That wakes every split that waits on the barrier: after BARARR as the last arrival each split of each group of the team that was parked on the barrier stands past its word, or in strict mode with an overrun is to trap BAR_OVERRUN, and the others stand as they stood. -/
def Obligations.BarrierWords : Prop :=
  (∀ (s s1 : State) (k slot : Nat) (g g1 : Group) (p : Split) (n : BitVec 4) (lax : BitVec 1) (x : BitVec 7) (t : Team),
      Poised s (.barinit n lax x) k slot g p → scalarRuns g p → StartsIn true s k slot g p s1 g1 → s1.team? g1.team = some t →
      let b := t.barrier n.toNat
      (b.remain = b.expect → b.pend = 0 → s1.parkedOn g1.team n.toNat = false →
        exec (.barinit n lax x) s = .next (advanced
          (s1.mapTeam g1.team fun t => t.setBarrier n.toNat ⟨true, lax = 1, false, false, b.phase, x, x, 0, 0⟩) k slot))
      ∧ (b.remain ≠ b.expect ∨ b.pend ≠ 0 ∨ s1.parkedOn g1.team n.toNat = true →
        exec (.barinit n lax x) s = .next (s1.wordTrap k slot p.pc (activeLanes g p) (trapOf 0x79))))
  ∧ (∀ (s s1 : State) (k slot : Nat) (g g1 : Group) (p : Split) (n : BitVec 4) (t : Team), scalarRuns g p → s1.team? g1.team = some t →
      let b := t.barrier n.toNat
      let turned : Barrier := { b with remain := b.expect, phase := b.phase + 1, lstat := BitVec.ofNat 2 ((if b.ovr then 2 else 0) + if b.flt then 1 else 0),
                                       ovr := false, flt := false }
      (∀ d : BitVec 7, Poised s (.bararr n d) k slot g p → StartsIn true s k slot g p s1 g1 → g1.splits.length ≤ 1 →
        (1 < b.remain.toNat ∨ (b.remain.toNat = 1 ∧ b.pend ≠ 0) →
          exec (.bararr n d) s = .next (advanced (((s1.release (k / 64) t.pair .team).mapGroup k fun g => g.setS d.toNat (BitVec.ofNat 32 b.phase.toNat)).mapTeam g1.team
            fun t => t.setBarrier n.toNat { b with remain := b.remain - 1 }) k slot))
        ∧ (b.remain = 0 → b.pend ≠ 0 →
          exec (.bararr n d) s = .next (advanced (((s1.release (k / 64) t.pair .team).mapGroup k fun g => g.setS d.toNat (BitVec.ofNat 32 b.phase.toNat)).mapTeam g1.team
            fun t => t.setBarrier n.toNat { b with ovr := b.ovr || !b.lax }) k slot))
        ∧ (b.remain.toNat = 1 → b.pend = 0 → s1.parkedOn g1.team n.toNat = false →
          exec (.bararr n d) s = .next (advanced (((s1.release (k / 64) t.pair .team).mapGroup k fun g => g.setS d.toNat (BitVec.ofNat 32 b.phase.toNat)).mapTeam g1.team
            fun t => t.setBarrier n.toNat turned) k slot)))
      ∧ (∀ a : BitVec 7, Poised s (.barexp n a) k slot g p → StartsIn true s k slot g p s1 g1 →
        (b.pend.toNat + (g1.sreg a.toNat).toNat < 2 ^ 32 → b.remain ≠ 0 ∨ 0 < b.pend.toNat + (g1.sreg a.toNat).toNat →
          exec (.barexp n a) s = .next (advanced (s1.mapTeam g1.team fun t => t.setBarrier n.toNat { b with pend := b.pend + g1.sreg a.toNat }) k slot))
        ∧ (b.remain = 0 → b.pend = 0 → g1.sreg a.toNat = 0 → s1.parkedOn g1.team n.toNat = false →
          exec (.barexp n a) s = .next (advanced (s1.mapTeam g1.team fun t => t.setBarrier n.toNat turned) k slot))
        ∧ (2 ^ 32 ≤ b.pend.toNat + (g1.sreg a.toNat).toNat →
          exec (.barexp n a) s = .next (s1.wordTrap k slot p.pc (activeLanes g p) (trapOf 0x7A))))
      ∧ (∀ a : BitVec 7, Poised s (.barwait n a) k slot g p → s1 = s → g1 = g →
        (b.phase.toNat = (g.sreg a.toNat).toNat % 256 →
          exec (.barwait n a) s = .next (s.mapSplit k slot fun q => { q with park := .barrier n.toNat }))
        ∧ ((b.phase.toNat + 255) % 256 = (g.sreg a.toNat).toNat % 256 → b.lax = false → b.lstat.getLsbD 1 = true →
          exec (.barwait n a) s = .next (s.wordTrap k slot p.pc (activeLanes g p) (trapOf 0x7C)))
        ∧ (b.phase.toNat ≠ (g.sreg a.toNat).toNat % 256 →
          (b.phase.toNat + 255) % 256 ≠ (g.sreg a.toNat).toNat % 256 ∨ b.lax = true ∨ b.lstat.getLsbD 1 = false →
          ∃ t', exec (.barwait n a) s = .next t' ∧ t' = { advanced s k slot with l1 := t'.l1 }))
      ∧ (∀ d : BitVec 6, Poised s (.bartest n d) k slot g p → s1 = s → g1 = g →
        ∃ t' r, exec (.bartest n d) s = .next t' ∧ t' = { advanced (s.mapGroup k fun g => { g with s := r }) k slot with l1 := t'.l1 } ∧
          pairNat r (2 * d.toNat) = (if b.init then 2 ^ 63 else 0) + (if b.lax then 2 ^ 62 else 0) + (if b.flt then 2 ^ 61 else 0)
            + (if b.ovr then 2 ^ 60 else 0) + b.phase.toNat * 2 ^ 52 + b.expect.toNat * 2 ^ 45 + b.remain.toNat * 2 ^ 38 + b.lstat.toNat * 2 ^ 36
            + b.pend.toNat)
      ∧ (Poised s (.tbar n) k slot g p → StartsIn true s k slot g p s1 g1 → g1.splits.length ≤ 1 →
        (1 < b.remain.toNat ∨ (b.remain.toNat = 1 ∧ b.pend ≠ 0) →
          exec (.tbar n) s = .next (((s1.release (k / 64) t.pair .team).mapSplit k slot fun q => { q with park := .barrier n.toNat }).mapTeam g1.team
            fun t => t.setBarrier n.toNat { b with remain := b.remain - 1 }))
        ∧ (b.remain.toNat = 1 → b.pend = 0 → s1.parkedOn g1.team n.toNat = false → b.lax = true ∨ b.ovr = false →
          ∃ t', exec (.tbar n) s = .next t' ∧
            t' = { advanced ((s1.release (k / 64) t.pair .team).mapTeam g1.team fun t => t.setBarrier n.toNat turned) k slot with l1 := t'.l1 })))
  ∧ (∀ (s s1 : State) (k slot k' : Nat) (g g1 h : Group) (p : Split) (n : BitVec 4) (d : BitVec 7) (t : Team),
      Poised s (.bararr n d) k slot g p → scalarRuns g p → StartsIn true s k slot g p s1 g1 → g1.splits.length ≤ 1 → s1.team? g1.team = some t →
      (t.barrier n.toNat).remain.toNat = 1 → (t.barrier n.toNat).pend = 0 →
      k' ≠ k → s1.group? k' = some h → h.team = g1.team → h.glint = none →
      ∃ t' h', exec (.bararr n d) s = .next t' ∧ t'.group? k' = some h' ∧
        h'.splits = h.splits.map fun q =>
          if q.park = .barrier n.toNat then
            if (t.barrier n.toNat).ovr && !(t.barrier n.toNat).lax then { q with park := .trapDue 0x7C } else q.advance
          else q)

/-! ### Regions -/

/-- Regions open (16 R314, 17 R334, R335): RBEG, and SAFE with none open, by a group of one split whose completion flags are clear, open a region at the word, with its live mask; the shadow set holds the named registers, the predicates, the flags and the loss scale; the PC advances and nothing outside the group changes. With more than one split, and the flags clear, they trap SPLIT_STATE; RBEG in a region traps REGION_STATE. Regions commit (16 R315, 10 R221): RCOM, and SAFE with a region open, by a group of one split, once nothing keeps the buffer waiting, perform the buffered effects; RCOM leaves no region, SAFE a new one; the buffer and the log are empty. Where no L1 stands between, for any number of buffered stores, block records and reductions, memory and the flags are what the effects leave when they act one after another in the order of the buffer; every byte of a line that no effect names, and that no L1 holds, is as it was. RCOM with no region open traps REGION_STATE. -/
def Obligations.RegionWords : Prop :=
  (∀ (s : State) (i : Instr) (k slot : Nat) (g : Group) (p : Split) (m : BitVec 16), Poised s i k slot g p → scalarRuns g p →
      (i = .rbeg m ∨ i = .safe m) → (∀ o ∈ g.pend, o.flag = none) →
      (g.splits.length ≤ 1 → g.region = none →
        ∃ g', exec i s = .next (advanced { s with fresh := s.fresh + 1, groups := alMap s.groups k fun _ => g' } k slot) ∧
          openedAt g g' p slot (maskOfWord p m) ∧
          g' = { g with region := g'.region, buf := [], log := [], replayPos := 0, edge := if i = .safe m then .safe else g.edge })
      ∧ (1 < g.splits.length → exec i s = .next (s.wordTrap k slot p.pc (activeLanes g p) (trapOf 0x0E)))
      ∧ (i = .rbeg m → g.splits.length ≤ 1 → g.region.isSome = true →
        exec i s = .next (s.wordTrap k slot p.pc (activeLanes g p) (trapOf 0xB1))))
  ∧ (∀ (s : State) (k slot : Nat) (g : Group) (p : Split) (r : Region), scalarRuns g p → (∀ o ∈ g.pend, o.flag = none) →
      (1 < g.splits.length → Poised s .rcom k slot g p →
        exec .rcom s = .next (s.wordTrap k slot p.pc (activeLanes g p) (trapOf 0x0E)))
      ∧ (g.splits.length ≤ 1 → g.region = none → Poised s .rcom k slot g p →
        exec .rcom s = .next (s.wordTrap k slot p.pc (activeLanes g p) (trapOf 0xB1)))
      ∧ ∀ i, g.splits.length ≤ 1 → g.region = some r → CanCommit s k g → (i = .rcom ∨ ∃ m, i = .safe m) → Poised s i k slot g p →
        ∃ t g', exec i s = .next t ∧ t.group? k = some g' ∧ g'.buf = [] ∧ g'.log = [] ∧ g'.aborts = 0 ∧
          g'.v = g.v ∧ g'.side = g.side ∧ g'.s = g.s ∧ g'.p = g.p ∧
          (i = .rcom → g'.region = none) ∧ (∀ m, i = .safe m → ∃ r', g'.region = some r' ∧ r'.rbeg = p.pc ∧ r'.mask = maskOfWord p m) ∧
          (∀ a, uncached s a → (∀ e ∈ g.buf, e.line.key ≠ a / 256) → memGet t.mem a = memGet s.mem a) ∧
          ((∀ x ∈ s.l1, x.2.dirty = 0) → (∀ e ∈ g.buf, s.noL1 (k / 64) e.line = true) →
            let done := g.buf.foldl (fun x e => BufEntry.acts e x) (memGet s.mem, g.xflags)
            (∀ a, memGet t.mem a = done.1 a) ∧ g'.xflags = done.2))

/-- An abort restores what the region's live mask and shadow set name (16 R318): every vector register of a named block with its sidecars, every scalar register of a named block, the predicates, %flags, the loss scale, the seed, the splits and the meet stack are as they were when the region opened; every other vector register, sidecar and scalar register stays as it is; the buffer is discarded, the abort is counted, and the region stands to be replayed at its RBEG address. -/
def Obligations.AbortRestores : Prop :=
  ∀ (s : State) (k : Nat) (g : Group) (r : Region) (cause : Option ReplayCause),
    s.group? k = some g → g.region = some r → shadowFits r →
    ∃ g', (s.abortRegion k cause).group? k = some g' ∧
      g'.region = some { r with issued := 0, replaying := true } ∧ g'.buf = [] ∧ g'.replay = cause ∧
      g'.aborts = (if g.abortsAt = r.rbeg then g.aborts + 1 else 1) ∧ g'.log = g.log ∧ g'.replayPos = 0 ∧
      g'.p = r.shadow.p ∧ g'.xflags = r.shadow.xflags ∧ g'.lscale = r.shadow.lscale ∧ g'.lsmin = r.shadow.lsmin ∧ g'.lsmax = r.shadow.lsmax ∧
      g'.run = r.shadow.run ∧ g'.count = r.shadow.count ∧ g'.seed = r.shadow.seed ∧ g'.splits = r.shadow.splits ∧ g'.meet = r.shadow.meet ∧
      (∀ x ∈ g'.pend, ∃ y ∈ g.pend, y.id = x.id ∧ PendOp.outlives y = true ∧ x.flag = none) ∧
      ∀ x, x < 128 →
        (∀ l, l < 64 → g'.vreg x l = if r.mask.getLsbD (x / 8) then smGet 0 r.shadow.v (x * 64 + l) else g.vreg x l) ∧
        (∀ q, q < 2 → g'.sidecar x q = if r.mask.getLsbD (x / 8) then smGet 0 r.shadow.side (x * 2 + q) else g.sidecar x q) ∧
        g'.sreg x = if r.mask.getLsbD (16 + x / 8) then smGet 0 r.shadow.s x else g.sreg x

/-! ### Traps -/

/-- Taking a trap (16 R322, R323, R325): a precise trap of a group outside regions and handlers, whose cause does not report the grid, writes the 64-byte frame at TFBASE + 64 q as the group's own core sees it, sets the splits, the meet stack and the counts aside, and goes on in one split of every lane at HANDLER. FPC names the word, RESUME the word or, for the causes that continue, the next. In a region (16 R318, R331): a cause of column Abort aborts it and enters the handler with FPC naming the word, RPC and RESUME the RBEG address; one of column Replay only aborts it, and the group parks; one of column Commit that continues, where nothing is buffered, commits it and opens a new one at the word, with the same mask, and enters the handler with RPC naming the word and RESUME the next. Traps raised on purpose (17 R336): TRAP, SVC and BKPT enter the handler with their cause, n in FADDR, and RESUME at the next word; HALT reports the grid. The model's readings, not the spec's words: SEQ counts the entry whose frame is written (log entry 15); the region, its log and its replay position are set aside (log entry 14), and so are the flags that outstanding operations count on (log entry 19). -/
def Obligations.TrapWords : Prop :=
  (∀ (s : State) (k slot : Nat) (g : Group) (c : Context) (l : LineRef) (p : Split) (act : Mask) (tr : TrapInfo),
      CanEnter s k g c l → g.split? slot = some p → alwaysReports tr.cause = false → tr.cause ≠ 0x64 →
      Entered s k slot g c l tr.cause p.pc tr.faddr.toNat (tr.lanes.getD act).toNat
        (if continues tr.cause then (p.pc + 4).toNat else p.pc.toNat) tr.detail.toNat (s.wordTrap k slot p.pc act tr))
  ∧ (∀ (s : State) (k slot : Nat) (g : Group) (r : Region) (c : Context) (l : LineRef) (p : Split) (act : Mask) (tr : TrapInfo),
      CanAbort s k g r c l → g.split? slot = some p →
      let t := s.wordTrap k slot p.pc act tr
      let lanes := (tr.lanes.getD act).toNat
      (abortsRegion tr.cause = true →
        ∃ g' a, t.group? k = some g' ∧ inHandler g g' c a ∧ a.split = r.slot ∧
          a.region = some { r with issued := 0, replaying := true } ∧ a.splits = r.shadow.splits ∧ a.log = g.log ∧ a.replayPos = 0 ∧
          frameSeen s t k g c l
            (trapFrame tr.cause 3 slot (g.seq + 1).toNat p.pc.toNat tr.faddr.toNat lanes r.rbeg.toNat r.rbeg.toNat 0 tr.detail.toNat))
      ∧ (replaysRegion tr.cause = true → t = s.abortRegion k (some (tr.replay.getD .noCause)))
      ∧ (continues tr.cause = true → r.replaying = false → g.buf = [] → CanCommit s k g → s.readsLeft k = [] →
        ∃ g' a r', t.group? k = some g' ∧ inHandler g g' c a ∧ a.split = slot ∧ a.region = some r' ∧ r'.rbeg = p.pc ∧ r'.slot = slot ∧
          r'.mask = r.mask ∧ a.log = [] ∧
          frameSeen s t k g c l
            (trapFrame tr.cause 7 slot (g.seq + 1).toNat p.pc.toNat tr.faddr.toNat lanes (p.pc + 4).toNat p.pc.toNat 0 tr.detail.toNat)))
  ∧ (∀ (s : State) (i : Instr) (k slot : Nat) (g : Group) (p : Split) (c : Context) (l : LineRef), Poised s i k slot g p → scalarRuns g p →
      CanEnter s k g c l →
      (∀ n : BitVec 3, i = .trap n → ∃ t, exec i s = .next t ∧
        Entered s k slot g c l (BitVec.ofNat 8 (0x18 + n.toNat)) p.pc n.toNat (activeLanes g p).toNat (p.pc + 4).toNat 0 t)
      ∧ (∀ n : BitVec 16, i = .svc n → ∃ t, exec i s = .next t ∧
        Entered s k slot g c l 0xB2 p.pc n.toNat (activeLanes g p).toNat (p.pc + 4).toNat 0 t)
      ∧ (∀ n : BitVec 16, i = .bkpt n → ∃ t, exec i s = .next t ∧
        Entered s k slot g c l 0x12 p.pc n.toNat (activeLanes g p).toNat (p.pc + 4).toNat 0 t)
      ∧ ∀ n : BitVec 16, i = .halt n → c.preempting = none → ∃ t, exec i s = .next t ∧ Reported s g.ctx 0x16 t ∧ t.mem = s.mem)

/-- ERET (16 R326): in a handler whose frame can be read it reads RESUME from the frame, which changes L1 lines alone but for dirty bytes that the core held of the frame's line (09 R201), and goes on with what the trap set aside, the split that trapped at RESUME, when the word at RESUME is a clause header; registers, predicates and flags stay as the handler left them. To a word that is no clause header it traps CLAUSE_ENTRY, with the address in FADDR, and to one that cannot be fetched with the fetch's cause. Outside a handler it traps ERET_STATE. The model's readings: a RESUME of 2^56 or more traps CLAUSE_ENTRY too (log entry 21); RESUME may be the RBEG word of the region that the device aborted at the trap, which it named itself (16 R318, R325; log entries 21 and 98); the region and its log, set aside at the trap, are restored (log entry 14). -/
def Obligations.TrapReturn : Prop :=
  ∀ (s : State) (k slot : Nat) (g : Group) (p : Split), Poised s .eret k slot g p → scalarRuns g p →
    (g.handler = none → exec .eret s = .next (s.wordTrap k slot p.pc (activeLanes g p) (trapOf 0x17)))
    ∧ ∀ a l, g.handler = some a → s.resolveScalar (s.ctxOf g) (a.frame.toNat + 32) .load false = .ok l → s.isOwned l = false → keyIsSram l.key = false →
      a.frame.toNat % 64 = 0 → cachesOk s → homedLine s (k / 64) l →
      let resume := leNat (coreSees s (k / 64) l ((a.frame.toNat + 32) % 128) 8)
      let u := (s.load (k / 64) l ((a.frame.toNat + 32) % 128) 8 .grp 0).2
      let back := fun (v t : State) => ∃ g', t = { v with groups := alMap s.groups k fun _ => g' } ∧
        g'.handler = none ∧ g'.meet = a.meet ∧ g'.lastSplit = a.lastSplit ∧ g'.region = a.region ∧ g'.buf = [] ∧ g'.log = a.log ∧
        g'.splits = (a.splits.map fun q => if q.slot = a.split then { q with pc := BitVec.ofNat 56 resume, park := .running, stallUntil := 0 } else q) ∧
        g'.v = g.v ∧ g'.s = g.s ∧ g'.p = g.p ∧ g'.xflags = g.xflags
      let target : Pc := BitVec.ofNat 56 resume
      let named := ∃ r, a.region = some r ∧ r.replaying = true ∧ r.rbeg.toNat = resume
      (u = { s with mem := u.mem, l1 := u.l1, metWaits := u.metWaits } ∧ (∀ b, uncached s b → memGet u.mem b = memGet s.mem b) ∧
        ((∀ x, s.l1Get (k / 64) l.ia = some x → x.dirty = 0) → u.mem = s.mem ∧ u.metWaits = s.metWaits))
      ∧ (2 ^ 56 ≤ resume → exec .eret s = .next (s.wordTrap k slot p.pc (activeLanes g p) (trapAt 0x0C resume)))
      ∧ (named → ∃ t, exec .eret s = .next t ∧ back u t)
      ∧ (resume < 2 ^ 56 → ¬named →
        (headerAt u k g target → ∃ t, exec .eret s = .next t ∧ back (wordRead u k g target) t)
        ∧ ∀ c, resume % 4 = 0 → s.ctx? g.ctx = some c → u.fetchOwned c resume = none →
          (∀ w, u.fetchWord (k / 64) c resume = .ok w → w.toNat / 2 ^ 23 % 64 ≠ 0x3F →
            exec .eret s = .next ((wordRead u k g target).wordTrap k slot p.pc (activeLanes g p) (trapAt 0x0C resume)))
          ∧ ∀ f, u.fetchWord (k / 64) c resume = .error f →
            exec .eret s = .next (u.wordTrap k slot p.pc (activeLanes g p) ⟨f.cause, BitVec.ofNat 64 resume, none, 0, f.replay⟩))

/-! ### Seed, clock, completion flags -/

/-- FLRD and FLRD.cnt (17 R341): bit k of the result of FLRD is 1 when the count of fk is not zero, for k = 0 to 11, and its other bits are zero; FLRD.cnt delivers the count of fk; a k of 12 to 15 traps RESERVED_FIELD, and so does the decode of an FLRD whose k is not zero. -/
def Obligations.FlagReads : Prop :=
  (∀ (s : State) (k slot : Nat) (g : Group) (p : Split) (d : BitVec 7), scalarRuns g p → Poised s (.flrd d) k slot g p →
    ∃ w : Word, exec (.flrd d) s = .next (after s k slot (g.setS d.toNat w)) ∧
      ∀ j < 32, w.getLsbD j = (decide (j < 12) && decide (g.flagCount j ≠ 0)))
  ∧ (∀ (s : State) (k slot : Nat) (g : Group) (p : Split) (d : BitVec 7) (n : BitVec 4), scalarRuns g p → Poised s (.flrdCnt d n) k slot g p →
    exec (.flrdCnt d n) s = .next (after s k slot (g.setS d.toNat (BitVec.ofNat 32 (g.flagCount n.toNat)))))
  ∧ (∀ (s : State) (k slot : Nat) (g : Group) (p : Split) (d : BitVec 7) (n : BitVec 4), s.focus = some (k, slot) → s.group? k = some g →
    g.split? slot = some p → g.glint = none → p.hints.imm = none → 12 ≤ n.toNat →
    exec (.flrdCnt d n) s = .next (s.wordTrap k slot p.pc (activeLanes g p) (trapOf 0x04)))
  ∧ ∀ (d : BitVec 7) (n : BitVec 4), n ≠ 0 →
    decodeWord (BitVec.ofNat 32 (0x1E540000 + d.toNat * 2 ^ 11 + n.toNat * 2 ^ 6)) = .error (.reserved (.flrd d))


/-! ### Copies, bulk reads, glints -/

/-- The forms of the copy unit complete (14 R292 to R295, 12 R256, R265). CPY, CPYM and BREAD whose record and completion record are reached, and whose record passes its checks, start one operation, which counts on the flag that the word selects; its destination lines in the scratchpad are no longer present; memory, but for lines that an L1 held, is as it was; nothing else changes but the PC. A BREAD reads the word at its handler as a fetch of its core does, dirty bytes of that line being written back first (09 R201). A CPYM has one receiver for each core of its mask. GRET removes its glint: with nothing buffered nothing else changes but the flags that its BREAD gathers; where no L1 stands between and every line is ready, its buffered effects act in the order of the buffer. -/
def Obligations.CopyWords : Prop :=
  ∀ (s s1 : State) (k slot : Nat) (g g1 : Group) (p : Split) (tm : Team) (pr : BitVec 6) (rc rn cc cn : Nat),
    scalarRuns g p → Counted g p false → s1.team? g1.team = some tm →
    (∀ (r : BitVec 1) (kb : BitVec 4) (n : BitVec 1), Poised s (.cpy r pr kb n) k slot g p → StartsIn true s k slot g p s1 g1 →
      let bar := if n = 1 then none else some kb.toNat
      EngineReady s1 g1 tm pr bar rc rn cc cn →
      let y : Layout := ⟨recordOf s1 g1 pr rc rn, r = 1, false⟩
      s1.recordCheck tm y .copy = none → (r = 0 → y.tileLines.contains ((g1.sreg (2 * pr.toNat + 1)).toNat / 128) = false) →
      ∃ t o c, exec (.cpy r pr kb n) s = .next t ∧
        t = { issuedPending s1 k slot o with
                copies := s1.copies ++ [c], mem := t.mem, l1 := t.l1, owned := t.owned, lineState := t.lineState, metWaits := t.metWaits } ∧
        countsOn o g p s1.fresh ∧ Started s1 g1 tm pr bar rc rn k c ∧ c.kind = (if r = 1 then .toGlobal else .toScratch) ∧
        (∀ a, uncached s1 a → memGet t.mem a = memGet s1.mem a) ∧
        (r = 0 → t.mem = s1.mem ∧ t.l1 = s1.l1 ∧
          ∀ x ∈ y.tileLines, ∀ core m, tm.line x = some (core, m) → (t.lineSt core m).present = false))
    ∧ (∀ (m : BitVec 7) (kb : BitVec 4), Poised s (.cpym pr m kb) k slot g p → StartsIn true s k slot g p s1 g1 →
      EngineReady s1 g1 tm pr none rc rn cc cn → g1.sreg m.toNat ≠ 0 → (g1.sreg m.toNat).toNat < 2 ^ 24 →
      s1.recordCheck tm ⟨recordOf s1 g1 pr rc rn, false, false⟩ .multicast = none → (∀ c ∈ s1.copies, c.id ≠ s1.fresh) →
      ∃ t o c, exec (.cpym pr m kb) s = .next t ∧
        t = { issuedPending s1 k slot o with copies := s1.copies ++ [c], owned := t.owned, lineState := t.lineState, tick := s1.tick + 1 } ∧
        countsOn o g p s1.fresh ∧ Started s1 g1 tm pr (some kb.toNat) rc rn k c ∧ c.kind = .multicast (g1.sreg m.toNat) ∧
        c.receivers.map Receiver.core = ((List.range 24).filter fun j => (g1.sreg m.toNat).getLsbD j).map (clusterCore (k / 64)))
    ∧ (∀ (h : BitVec 6) (kb : BitVec 4), Poised s (.bread pr h kb) k slot g p → StartsIn true s k slot g p s1 g1 →
      EngineReady s1 g1 tm pr (some kb.toNat) rc rn cc cn →
      let va := pairNat g1.s (2 * h.toNat)
      (va < 2 ^ 56 ∧ inFixed va = false ∧ va % 4 = 0 ∧ s1.fetchOwned (s1.ctxOf g1) va = none ∧
        ∃ w, s1.fetchWord (k / 64) (s1.ctxOf g1) va = .ok w ∧ w.toNat / 2 ^ 23 % 64 = 0x3F) →
      (s1.fetched (k / 64) (s1.ctxOf g1) va).recordCheck tm ⟨recordOf s1 g1 pr rc rn, false, true⟩ .bulk = none →
      ∃ t o c, exec (.bread pr h kb) s = .next t ∧
        t = { issuedPending s1 k slot o with copies := s1.copies ++ [c], mem := t.mem, l1 := t.l1, metWaits := t.metWaits } ∧
        (∀ a, uncached s1 a → memGet t.mem a = memGet s1.mem a) ∧ countsOn o g p s1.fresh ∧ Started s1 g1 tm pr (some kb.toNat) rc rn k c ∧
        c.kind = .bulk (BitVec.ofNat 56 va) (BitVec.ofNat 64 (pairNat g1.s (2 * pr.toNat + 2))))
    ∧ ∀ x, Poised s .gret k slot g p → g.splits.length ≤ 1 → g.glint = some x →
      ∃ t, exec .gret s = .next t ∧ t.group? k = none ∧
        (g.buf = [] → t = { s with groups := s.groups.filter fun e => decide (e.1 ≠ k),
                                   copies := s.copies.map fun c => if c.id = x.op then { c with flags := c.flags ||| (g.xflags &&& 0x3F) } else c }) ∧
        ((∀ y ∈ s.l1, y.2.dirty = 0) →
          (∀ e ∈ g.buf, s.noL1 (k / 64) e.line = true ∧ s.entryPoisoned e = false ∧ s.entryAbsent e = false ∧ s.entryOwned e = false) →
          let done := g.buf.foldl (fun x e => BufEntry.acts e x) (memGet s.mem, g.xflags)
          (∀ a, memGet t.mem a = done.1 a) ∧
          t.copies = s.copies.map fun c => if c.id = x.op then { c with flags := c.flags ||| (done.2 &&& 0x3F) } else c)

/-- The events of copies complete (09 R196, 12 R252 to R255, R260 to R262). A line whose sources are read, and which the operation may finish, lands: it is recorded, and no other byte of memory changes; a line that meets a fault fails with its cause, and memory is as it was, and so does a TKEEP line that would quantise a CB4 block under a rounding other than RNE, with RESERVED_FIELD: that such a line fails as it is converted, and the copy does not trap at its issue, is the model's reading (log entry 40); a retry reads the sources of a line whole; an access that has waited ENGWAIT on a page fails its line with ENGINE_TIMEOUT 0x88, 0x89 or 0x8A, and a source line that was not read in that time stays failed for every line that depends on it (log entry 41); a burst returns into the return buffer; an entry of it spawns a glint of 32 lanes in the lowest free glint slot, whose v0 holds the line; a copy all of whose lines have ended writes its completion record, RMASK naming its faulty receivers, and its flag count falls. -/
def Obligations.CopyEvents : Prop :=
  ∀ (s : State) (op line : Nat) (o : CopyOp), s.copy? op = some o →
    (isCopy s op → s.openLine op line = some o →
      (∀ s1, o.kind = .toScratch ∨ (o.kind = .toGlobal ∧ o.layout.cen = false) → s.readFor o line = (s1, none) →
        o.layout.cb4Refused (((s1.copy? op).map CopyOp.sources).getD []) (o.layout.elemsOf (o.unit line)) = false →
        ∀ key, (o.kind = .toScratch ∧ ∃ core n, s1.tileTarget o line = some (core, n) ∧ s.ownerOf (sramOwn core n) = some op ∧ key = sramKey core n) ∨
            (o.kind = .toGlobal ∧ ∃ r,
              let va := o.layout.globalLines.getD line 0 * 128
              let c := (s.ctx? o.ctx).getD Context.blank
              s.ownsVa c va op = true ∧ s1.engineLine c va .engineWrite (!o.layout.covers (o.layout.elemsOf line)) = .ready r ∧ key = r.key) →
          ∃ t o', exec (.engineLineLanding op line) s = .next t ∧ t.copy? op = some o' ∧ o'.landed = o.landed ++ [line] ∧ o'.failed = o.failed ∧
            o'.lines = o.lines + 1 ∧ ∀ a, a / 256 ≠ key → memGet t.mem a = memGet s.mem a)
      ∧ (∀ s1, o.isBulk = false → s.readFor o line = (s1, none) →
        o.layout.cb4Refused (((s1.copy? op).map CopyOp.sources).getD []) (o.layout.elemsOf (o.unit line)) = true →
        ∃ t o', exec (.engineLineFailure op line) s = .next t ∧ t.copy? op = some o' ∧ o'.failed = o.failed ++ [line] ∧
          (∃ x ∈ o'.fails, x.cause = 0x07) ∧ t.mem = s.mem)
      ∧ (∀ cause faddr, (s.tryAny o line).2 = some (.fails cause faddr) →
        ∃ t o', exec (.engineLineFailure op line) s = .next t ∧ t.copy? op = some o' ∧ o'.failed = o.failed ++ [line] ∧ o'.landed = o.landed ∧
          o'.lineFailed = true ∧ (∃ x ∈ o'.fails, x.cause = cause ∧ x.faddr = faddr) ∧ t.mem = s.mem)
      ∧ (∀ s1, o.isBulk = false → s.readFor o line = (s1, none) →
        ∃ t o', exec (.engineAccessRetry op line) s = .next t ∧ t = { s with copies := t.copies } ∧ t.copy? op = some o' ∧ o'.landed = o.landed ∧
          ∀ l ∈ o.layout.needs (o.layout.elemsOf (o.unit line)), (SrcLines.at o'.sources l).length = 138)
      ∧ (∀ since w va, (s.tryAny o line).2 = some (.waits w va) → alGet o.waits (CopyOp.waitKey line w va) = some since →
        since + ((s.ctx? o.ctx).getD Context.blank).engwait ≤ s.nanos →
        ∃ t o' x, exec (.engineWaitTimeout op line) s = .next t ∧ t.copy? op = some o' ∧ o'.failed = o.failed ++ [line] ∧ x ∈ o'.fails ∧
          x.cause = (if o.isBulk then 0x8A else if w then 0x89 else 0x88) ∧ x.faddr = va ∧ t.mem = s.mem ∧
          (o.isBulk = false → w = false → alGet o'.badSources (va.toNat / 128) = some (0x88, va)))
      ∧ (∀ l coords r, o.isBulk = true → o.layout.bursts[line]? = some (l, coords) → (s.burstsOf o.core).length < 64 →
        s.engineLine ((s.ctx? o.ctx).getD Context.blank) (l * 128) .engineRead true = .ready r → s.readWaits r.own op = false →
        ∃ t b o', exec (.burstReturn op line) s = .next t ∧ t = { s with bursts := s.bursts ++ [(o.core, b)], copies := t.copies } ∧
          b.op = op ∧ b.burst = line ∧ b.va = BitVec.ofNat 64 (l * 128) ∧ b.coords = coords ∧ b.bytes = s.line r.key ∧
          t.copy? op = some o' ∧ o'.landed = o.landed ++ [line]))
    ∧ (∀ core entry b slot handler arg g, (s.burstsOf core)[entry]? = some b → slot < 8 → s.group? (core * 64 + 32 + slot) = none →
      (∀ j < slot, (s.group? (core * 64 + 32 + j)).isSome = true) → s.burstReady b = true → b.op = op → o.kind = .bulk handler arg →
      s.group? o.key = some g →
      ∃ x, exec (.glintSpawn core entry) s = .next { s with fresh := s.fresh + 1, bursts := dropBurst core entry s.bursts,
                                                              groups := smIns s.groups (core * 64 + 32 + slot) x } ∧
        x.width = 32 ∧ x.team = g.team ∧ x.ctx = g.ctx ∧ x.glint.isSome = true ∧ x.splits = [newSplit 0 handler 0xFFFFFFFF none] ∧
        (∀ l < 32, (x.vreg 0 l).toNat = leNat (slice b.bytes (4 * l) 4)) ∧ pairNat x.s 8 = arg.toNat ∧ (x.sreg 3).toNat = b.burst % 2 ^ 32)
    ∧ (s.copyDone o = true →
      let faulty := (o.receivers.filter Receiver.fault).map fun r => coreJ r.core
      ∃ t f m, exec (.copyCompletion op) s = .next t ∧ t.copy? op = none ∧ (o.bad = false → f = (⟨0, 0, 0⟩ : EngineFail)) ∧
        (∀ j, m.testBit j = faulty.contains j) ∧
        (∀ tm core n, s.team? o.team = some tm → tm.line (o.recOff / 128) = some (core, n) →
          t.bytes (sramKey core n) (o.recOff % 128) 32 =
            natLe (if o.bad then 1 else 0) 1 ++ natLe (o.flags.toNat % 64) 1 ++ [0, 0] ++ natLe o.lines 4 ++ natLe o.fallback 4 ++
            natLe f.cause.toNat 1 ++
            natLe (if o.fails = [] then faulty.headD 0xFF else if o.bad = true ∧ (∃ m, o.kind = .multicast m) then coreJ f.core else 0xFF) 1 ++ [0, 0] ++
            natLe f.faddr.toNat 8 ++ natLe m 4 ++ natLe 0 4 ∧
          ∀ a, (a < sramKey core n * 256 + o.recOff % 128 ∨ sramKey core n * 256 + o.recOff % 128 + 32 ≤ a) → memGet t.mem a = memGet s.mem a) ∧
        ∀ g, s.group? o.key = some g → ∃ g', t.group? o.key = some g' ∧ g'.pend = g.pend.filter (fun x => x.kind ≠ .engine op) ∧
          g'.imprecise.length = g.imprecise.length + (if o.bad then 1 else 0))

/-! ### The matrix array, convened sets -/

/-- The matrix forms complete (13 R275, R284, 14 R303 to R311). Issued by a leader or a lone group, in a batch that has not failed, a form that passes its checks queues one operation in its matrix context's open batch: MZERO, MLDA, MSTA, MLOOP, MDIST, MTOPK, MEPI, MROUTE; memory, but for lines that an L1 held, is as it was. MFENCE with fewer than 16 batches incomplete closes the batch and delivers its number modulo 2^16. MWAIT on the latest closed batch of a number completes when that batch has, waits until it has, and traps when there is none. A vector word of fixed latency issues while the array has register operands of the group left to read as it does otherwise, unless it changes one of them: then it is held, and nothing has happened (13 R271). -/
def Obligations.MatrixWords : Prop :=
  (∀ (s s1 : State) (i : Instr) (k slot : Nat) (g g1 : Group) (p : Split) (tm : Team), Poised s i k slot g p → scalarRuns g p →
    s1.team? g1.team = some tm → s1.notLeader g1 = false →
    (∀ tile kind, queuedForm i g1 = some (tile, kind) → StartsIn true s k slot g p s1 g1 → queueChecks i s1 (wordEnv k slot g g1 p) tm →
      s1.batchFailed (s1.matOf g1).id (s1.matOf g1).closed = false →
      ∃ t o, exec i s = .next t ∧
        t = { advanced s1 k slot with fresh := s1.fresh + 1, matOps := s1.matOps ++ [o], mem := t.mem, l1 := t.l1, owned := t.owned,
                                      lineState := t.lineState, metWaits := t.metWaits } ∧
        o.id = s1.fresh ∧ o.kind = kind ∧ o.acc = tile ∧ o.core = k / 64 ∧ o.q = (s1.matOf g1).id ∧ o.batch = (s1.matOf g1).closed ∧
        o.key = k ∧ o.pc = p.pc ∧ o.step = 0 ∧ o.delivered = [] ∧ (∀ a, uncached s1 a → memGet t.mem a = memGet s1.mem a))
    ∧ (∀ d : BitVec 7, i = .mfence d → StartsIn true s k slot g p s1 g1 → (s1.matOf g1).closed < (s1.matOf g1).complete + 16 →
      exec i s = .next (advanced ((s1.mapMatCtx (s1.matOf g1).id fun m => { m with closed := m.closed + 1 }).mapGroup k fun g =>
        g.setS d.toNat (BitVec.ofNat 32 ((s1.matOf g1).closed % 2 ^ 16))) k slot))
    ∧ ∀ a : BitVec 7, i = .mwait a → s1 = s → g1 = g →
      (∀ b, b < (s.matOf g).closed → (s.matOf g).closed ≤ b + 2 ^ 16 → b % 2 ^ 16 = (g.sreg a.toNat).toNat % 2 ^ 16 →
        (b < (s.matOf g).complete → ∃ t, exec i s = .next t ∧ t = { advanced s k slot with l1 := t.l1 })
        ∧ ((s.matOf g).complete ≤ b → exec i s = .next (s.mapSplit k slot fun q => { q with park := .retry (.batch b) })))
      ∧ ((∀ b, b < (s.matOf g).closed → b % 2 ^ 16 ≠ (g.sreg a.toNat).toNat % 2 ^ 16) →
        exec i s = .next (s.wordTrap k slot p.pc (activeLanes g p) (trapOf 0x7D))))
  ∧ ∀ (s : State) (i : Instr) (k slot : Nat) (g : Group) (p : Split) (d n : Nat) (v : SMap Word) (fl : BitVec 8),
      Poised { s with matOps := [] } i k slot g p → activeLanes g p ≠ 0 → vectorDest i = some (d, n) →
      exec i { s with matOps := [] } = .next (after { s with matOps := [] } k slot (vectorResult g v fl)) →
      ((∀ r ∈ s.readsLeft k, d + n ≤ r.2 ∨ r.2 + 32 ≤ d) → exec i s = .next (after s k slot (vectorResult g v fl)))
      ∧ ∀ r ∈ s.readsLeft k, (∃ x l, r.2 ≤ x ∧ x < r.2 + 32 ∧ l < 64 ∧ g.vreg x l ≠ smGet 0 v (x * 64 + l)) →
        ∃ ops, r.1 ∈ ops ∧ exec i s = .next (s.mapSplit k slot fun q => { q with park := .retry (.regWrite ops) })

/-- Convened sets (07 R144, 08 R173, R174): a CONV whose mask names the group and seven others at most, each on the core and in no set, parks until the last of them arrives; the last one forms the set, with a new matrix context whose batches count from 0, and completes. DISB by the leader, once the array has read the members' registers, ends the set; by another it traps CONVENE_STATE. -/
def Obligations.ConvenedSets : Prop :=
  ∀ (s : State) (k slot : Nat) (g : Group) (p : Split) (tm : Team), scalarRuns g p → g.splits.length ≤ 1 → s.team? g.team = some tm →
    (∀ pr : BitVec 6, Poised s (.conv pr) k slot g p →
      let m := g.spair (2 * pr.toNat)
      let named := (List.range 64).filter m.getLsbD
      let before := ((tm.rendezvous.find? fun r => r.mask = m).map Rendezvous.arrived).getD []
      (∀ r ∈ tm.rendezvous, r.mask ≠ m → r.mask.getLsbD g.num = false) → m.getLsbD g.num = true → named.length ≤ 8 →
      (∀ n ∈ named, (s.memberKey tm.id (k / 64) n).isSome = true ∧ ∀ c ∈ tm.sets, n ∉ c.members) →
      ((∀ n ∈ named, n = g.num ∨ n ∈ before) →
        ∃ t, exec (.conv pr) s = .next t ∧ t = { s with fresh := s.fresh + 1, teams := t.teams, groups := t.groups } ∧
          (t.team? g.team).map Team.sets = some (tm.sets ++ [⟨named, ⟨s.fresh, 0, 0, 0⟩, named⟩]) ∧ t.group? k = some (g.mapSplit slot Split.advance))
      ∧ ((∃ n ∈ named, n ≠ g.num ∧ n ∉ before) →
        ∃ t, exec (.conv pr) s = .next t ∧ t = { s.mapSplit k slot (fun q => { q with park := .convene }) with teams := t.teams } ∧
          ∃ tm', t.team? g.team = some tm' ∧ tm'.sets = tm.sets ∧ ∃ r ∈ tm'.rendezvous, r.mask = m ∧ g.num ∈ r.arrived ∧ ∀ n ∈ before, n ∈ r.arrived))
    ∧ (Poised s .disb k slot g p → ∀ c, s.setOf g = some c →
      (c.members.head? = some g.num → (∀ o ∈ s.matOps, o.q ≠ c.mat.id ∨ o.stepsDone = true ∨ (o.regsA = [] ∧ o.regsB = [])) →
        ∃ t, exec .disb s = .next t ∧ t = { advanced s k slot with teams := t.teams } ∧
          ∃ tm', t.team? g.team = some tm' ∧ ∀ c' ∈ tm'.sets, c'.mat.id = c.mat.id → c'.members = [])
      ∧ (c.members.head? ≠ some g.num → exec .disb s = .next (s.wordTrap k slot p.pc (activeLanes g p) (trapOf 0x0F))))

/-- The events of the matrix array complete (13 R267, R272 to R275, R282 to R284, 14 R304). When the array may step an operation: MZERO makes every element of its tile +0, MLDA loads the words of its 32 lines, MSTA takes the tile's rows; one K-step of a loop gives every cell the sum with its block pair, rounded once, the next step being due or the loop done, and fails its batch with 0x75 and 0x2A when a pair does not fit the window; MROUTE writes its queue's routing register. An epilogue step converts the tile's 32 rows, each element the exact SCALE × acc + bias + rn + cn rounded once to FP32 or BF16, or the row quantised as one block, and with CLR makes the tile +0; a converted row is written to its scratchpad line, and a push row is sent to the peer that the routing register names, its cost debited. The oldest closed batch of a queue with no operation left completes, its failure becoming an imprecise trap. -/
def Obligations.MatrixEvents : Prop :=
  ∀ (s : State) (op : Nat) (o : MatOp),
    (ArrayReady s op o →
      (o.kind = .zero → ∃ t, exec (.matrixKStep op) s = .next t ∧ t.mat? op = none ∧ t.mem = s.mem ∧ otherTiles s t o.core o.acc ∧
        ∀ i < 32, ∀ j < 32, t.accGet o.core o.acc i j = 0)
      ∧ (∀ w tm, o.kind = .load w → o.sources = [] → s.team? o.team = some tm →
        (∀ i < 32, ∃ core n, tm.line (tileRow w i) = some (core, n) ∧ (s.lineSt core n).present = true ∧ (s.lineSt core n).poisoned = false) →
        ∃ t, exec (.matrixKStep op) s = .next t ∧ t.mat? op = none ∧ t.mem = s.mem ∧ otherTiles s t o.core o.acc ∧
          ∀ i < 32, ∀ j < 32, ∀ core n, tm.line (tileRow w i) = some (core, n) →
            (t.accGet o.core o.acc i j).toNat = leNat (s.bytes (sramKey core n) (4 * j) 4))
      ∧ (∀ w, o.kind = .store w → ∃ t o', exec (.matrixKStep op) s = .next t ∧ t = { s with matOps := t.matOps } ∧ t.mat? op = some o' ∧
        o'.converted = true ∧ o'.delivered = o.delivered ∧
        ∀ i < 32, ∀ j < 32, leNat (slice (o'.rows.getD i ([], none)).1 (4 * j) 4) = (s.accGet o.core o.acc i j).toNat)
      ∧ ∀ a b lw dist xs ys ba bb, o.kind = .loop a b lw dist →
        s.matSide o (rowWord a) o.bookA o.regsA (lwTa lw) (lwKa lw + o.step) = .ok (xs, ba) →
        s.matSide o b o.bookB o.regsB (lwTb lw) (lwKb lw + o.step) = .ok (ys, bb) →
        ((∀ x ∈ xs, ∀ y ∈ ys, pairFits x y = true) →
          ∃ t, exec (.matrixKStep op) s = .next t ∧ t.mem = s.mem ∧ otherTiles s t o.core o.acc ∧
            (∀ i < 32, ∀ j < 32, t.accGet o.core o.acc i j =
              cellAdd (if dist then -2 else 1) (xs.getD i .zero) (ys.getD j .zero) (s.accGet o.core o.acc i j)) ∧
            (o.step + 1 < lwCount lw → ∃ o', t.mat? op = some o' ∧ o'.step = o.step + 1 ∧ o'.stepsDone = o.stepsDone ∧ o'.bookA = ba ∧ o'.bookB = bb) ∧
            (lwCount lw ≤ o.step + 1 → dist = true → ∃ o', t.mat? op = some o' ∧ o'.step = o.step + 1 ∧ o'.stepsDone = true) ∧
            (lwCount lw ≤ o.step + 1 → dist = false → t.mat? op = none))
        ∧ ((∃ x ∈ xs, ∃ y ∈ ys, pairFits x y = false) → s.batchFailed o.q o.batch = false →
          ∃ t, exec (.matrixKStep op) s = .next t ∧ t.batchFails = s.batchFails ++ [⟨o.q, o.batch, o.key, 0x75, 0x2A, o.pc⟩] ∧
            t.mat? op = none ∧ t.acc = s.acc))
    ∧ (∀ v m, s.mat? op = some o → o.kind = .route v → s.engineRuns o.ctx = true → s.epilogueTurn o = true → s.matCtx o.q = some m →
      ∃ t, exec (.matrixKStep op) s = .next t ∧ t.mat? op = none ∧ t.matCtx o.q = some { m with routing := v } ∧ t.mem = s.mem ∧ t.acc = s.acc)
    ∧ (∀ d tm x, s.mat? op = some o → o.epi = some d → s.team? o.team = some tm → o.converted = false → o.stepsDone = true →
      s.engineRuns o.ctx = true → s.arrayTurn o = true → s.epilogueTurn o = true → s.terms tm d = .ok x →
      ∃ t o', exec (.epilogueStep op) s = .next t ∧ t.mat? op = some o' ∧ o'.converted = true ∧ o'.rows.length = 32 ∧ o'.delivered = o.delivered ∧
        t = { s with matOps := t.matOps, acc := t.acc, accOwner := t.accOwner } ∧ otherTiles s t o.core o.acc ∧
        (d.clr = false → t.acc = s.acc) ∧ (d.clr = true → ∀ i < 32, ∀ j < 32, t.accGet o.core o.acc i j = 0) ∧
        (∀ i < 32, d.blocks = false →
          let narrow := !d.topk && decide (d.out = 1)
          let n := if narrow then 2 else 4
          (o'.rows.getD i ([], none)).2 = none ∧ (o'.rows.getD i ([], none)).1.length = 32 * n ∧
          ∀ j < 32, leNat (slice (o'.rows.getD i ([], none)).1 (n * j) n) =
            (Exact.rounded (floatFmt (if narrow then 8 else 10)) ⟨d.rm, 0, 32, !d.topk && d.sat, false⟩ (retired s tm o d i j)).1)
        ∧ ∀ i < 32, d.blocks = true → d.ocls < 3 → d.otag < 3 → ¬(d.ocls = 0 ∧ d.otag = 2) →
          let b := retiredBlock d ((List.range 32).map (retired s tm o d i))
          o'.rows.getD i ([], none) = (natLe (recordNumber d.ocls b.scale b.codes) (recordBytes d.ocls), some (BitVec.ofNat 2 b.tag)))
    ∧ (∀ d row, s.openRow op row = some (o, d) → row < 32 →
      (∀ tm core n, d.inScratch = true → s.team? o.team = some tm → tm.line (tileLine d.sbase d.pitch d.rot row 0) = some (core, n) →
        s.ownerOf (sramOwn core n) = some o.id →
        ∃ t, exec (.epilogueRowDelivery op row) s = .next t ∧ (∀ o', t.mat? op = some o' → row ∈ o'.delivered) ∧
          (∀ a, a / 256 ≠ sramKey core n → memGet t.mem a = memGet s.mem a) ∧
          (d.topk = false → (o.rows.getD row ([], none)).2 = none →
            t.bytes (sramKey core n) 0 128 = slice (o.rows.getD row ([], none)).1 0 128))
      ∧ (∀ m, d.dest = 2 → s.push? op row = none → s.matCtx o.q = some m → m.routing.getLsbD 63 = true → m.routing.toNat % 64 < 3 →
        s.mayIssue o.core (m.routing.toNat % 64) (wireCost d.wire) (.push o.id row) = true →
        ∃ t, exec (.epilogueRowDelivery op row) s = .next t ∧
          t = { s with waiters := t.waiters, allow := t.allow,
                       pushes := s.pushes ++ [⟨o.core, o.id, row, m.routing.toNat % 64, wireCost d.wire, none⟩] })
      ∧ ∀ m port, d.dest = 2 → s.push? op row = none → s.matCtx o.q = some m → m.routing.getLsbD 63 = true →
        let cls := m.routing.toNat % 64
        let route := ((s.ctx? o.ctx).getD Context.blank).route cls
        let cost := wireCost d.wire
        3 ≤ cls → bit route 63 = true → s.mayIssue o.core cls cost (.push o.id row) = true → s.portFor route = some port →
        ∃ t r, exec (.epilogueRowDelivery op row) s = .next t ∧
          t = { s with waiters := t.waiters, allow := t.allow, pushes := s.pushes ++ [⟨o.core, o.id, row, cls, cost, some port⟩],
                       wire := s.wire ++ [.push cls r] } ∧
          (t.allowance o.core cls).value.toNat = (s.allowance o.core cls).value.toNat - cost ∧ r.srcDev = s.devno.toNat ∧
          r.bytes = (o.rows.getD row ([], none)).1)
    ∧ ∀ q m, s.matCtx q = some m → m.complete < m.closed → (∀ x ∈ s.matOps, x.q = q → x.batch ≠ m.complete) →
      ∃ t, exec (.batchCompletion q) s = .next t ∧ (t.matCtx q).map MatCtx.complete = some (m.complete + 1) ∧
        t = { s with batchFlags := t.batchFlags, batchFails := t.batchFails, teams := t.teams, groups := t.groups } ∧
        ∀ b g, s.batchFails = [b] → b.q = q → b.batch = m.complete → s.batchFlags = [] → s.group? b.key = some g →
          ∃ g' x, t.group? b.key = some g' ∧ g'.imprecise = g.imprecise ++ [x] ∧ x.cause = b.fault ∧ x.origin.toNat = b.pc.toNat

/-! ### The fabric -/

/-- ALWR (20 R377): the whole allowance register of R359 for the class in s[a], CAP, LOW and VALUE as they are at issue, into the pair d; a class of 64 or above traps PEER_RANGE 0xA2; it holds whatever the routing entry holds, and nothing else changes but the PC. -/
def Obligations.AllowanceReads : Prop :=
  ∀ (s : State) (k slot : Nat) (g : Group) (p : Split) (d a : BitVec 7), Poised s (.alwr d a) k slot g p → scalarRuns g p →
    ((g.sreg a.toNat).toNat < 64 →
      ∃ r, exec (.alwr d a) s = .next (after s k slot (scalarResult g r 0)) ∧ scalarFrame g r d.toNat 2 ∧
        let x := s.allowance (k / 64) (g.sreg a.toNat).toNat
        pairNat r d.toNat = x.cap.toNat * 2 ^ 32 + x.low.toNat * 2 ^ 16 + x.value.toNat)
    ∧ (64 ≤ (g.sreg a.toNat).toNat → exec (.alwr d a) s = .next (s.wordTrap k slot p.pc (activeLanes g p) (trapOf 0xA2)))

/-- The fabric's words complete (19 R353, R360, 20 R375, R378, R381, R382). RLD, RST and RATOM outside a region, every active lane passing its checks and the allowance of the lowest class covering the pass (stated for an empty store buffer, as a group outside a region has it): one pass of that class is sent, with its lanes in order, their addresses and data; it leaves by a port when one is up; its cost is debited; the word counts on its flag; a relaxed or acquiring form leaves memory as it was. BALW transfers when the level of the class meets its condition, and else only advances. CHUNKINC outside a region adds s[a] to the 64-bit word of its pair. MIGHINT asks for the collapse of a mirrored block at most. -/
def Obligations.RemoteWords : Prop :=
  ∀ (s s1 : State) (i : Instr) (k slot : Nat) (g g1 : Group) (p : Split), Poised s i k slot g p →
    (∀ f : FabricForm, fabricForm i = some f → activeLanes g p ≠ 0 → Counted g p f.returns →
      StartsIn (decide (f.kind = .ratom) && (memOrder f.order).rels) s k slot g p s1 g1 → g1.region = none → g1.buf = [] →
      (∀ l, acts g g1 p l → remoteLane (s1.ctxOf g1) g1 f.q f.bytes l) → SysQuiet s1 k g1 (memOrder f.order) .sys →
      ∀ cls, (∃ l, acts g g1 p l ∧ remoteClass g1 f.q l = cls) → (∀ l, acts g g1 p l → cls ≤ remoteClass g1 f.q l) →
      let lanes := (List.range 64).filter fun l => decide (l < g1.width) && hasLane (activeLanes g p) l && decide (remoteClass g1 f.q l = cls)
      let cost := passCost f lanes.length
      let port := s1.portFor ((s1.ctxOf g1).route cls)
      s1.mayIssue (k / 64) cls cost (.group k) = true →
      ∃ t o r x, exec i s = .next t ∧
        t = { advanced (s1.mapGroup k fun g => { g with pend := g.pend ++ [o], remote := some r }) k slot with
                fresh := s1.fresh + 2, passes := s1.passes ++ [x], wire := t.wire, allow := t.allow, waiters := t.waiters, mem := t.mem, l1 := t.l1, teamRels := t.teamRels,
                metWaits := t.metWaits } ∧
        o.kind = .remote s1.fresh ∧ o.flag = flagOf g p ∧ r.id = s1.fresh ∧ r.waiting = (if (memOrder f.order).acqs then [s1.fresh + 1] else []) ∧
        (r.todo = [] ↔ ∀ l, acts g g1 p l → remoteClass g1 f.q l = cls) ∧
        x.id = s1.fresh + 1 ∧ x.cls = cls ∧ x.cost = cost ∧ x.port = port ∧ x.key = k ∧ x.failed = none ∧
        x.req.kind = f.kind ∧ x.req.size = f.bytes ∧ x.req.ord = f.order ∧ x.req.srcDev = s1.devno.toNat ∧ (f.kind = .ratom → x.req.mode = (roundingOf p).mode) ∧
        x.req.lanes.map (fun y => (y.lane, y.addr.toNat, y.data)) =
          lanes.map (fun l => (l, remoteAddress g1 f.q l, (List.range f.words).map fun j => g1.vreg (f.d + j) l)) ∧
        t.wire = (if port.isSome then s1.wire ++ [.request cls x.req] else s1.wire) ∧
        (t.allowance (k / 64) cls).value.toNat = (s1.allowance (k / 64) cls).value.toNat - cost ∧
        ((memOrder f.order).rels = false → t.mem = s1.mem ∧ t.l1 = s1.l1) ∧ ∀ a, uncached s1 a → memGet t.mem a = memGet s1.mem a)
    ∧ (∀ (a : BitVec 7) (c : BitVec 2) (o : BitVec 9), i = .balw a c o → scalarRuns g p →
      ((g.sreg a.toNat).toNat < 64 → levelMet (s.allowance (k / 64) (g.sreg a.toNat).toNat) c = true →
        headerAt s k g (offsetFrom p (immediate p 9 o.toNat)) →
        exec i s = .next ((wordRead s k g (offsetFrom p (immediate p 9 o.toNat))).mapSplit k slot fun q =>
          { q with pc := offsetFrom p (immediate p 9 o.toNat), hints := Hints.none, wait := 0, starts := false, park := .running }))
      ∧ ((g.sreg a.toNat).toNat < 64 → levelMet (s.allowance (k / 64) (g.sreg a.toNat).toNat) c = false →
        exec i s = .next (s.mapSplit k slot Split.advance))
      ∧ (64 ≤ (g.sreg a.toNat).toNat → exec i s = .next (s.wordTrap k slot p.pc (activeLanes g p) (trapOf 0xA2))))
    ∧ (∀ (pr : BitVec 6) (a : BitVec 7) (l : LineRef), i = .chunkinc pr a → scalarRuns g p → Counted g p false → StartsIn true s k slot g p s1 g1 →
      g1.region = none →
      let va := pairNat g1.s (2 * pr.toNat)
      s1.reachScalar (wordEnv k slot g g1 p) va 8 .store true = .ok l → s1.isOwned l = false → keyIsSram l.key = false →
      ∃ t o, exec i s = .next t ∧ MemoryIssue s1 k slot o t ∧ o.vals = [] ∧ o.flag = flagOf g p ∧
        (∀ b, uncached s1 b → (b < l.key * 256 + va % 128 ∨ l.key * 256 + va % 128 + 8 ≤ b) → memGet t.mem b = memGet s1.mem b) ∧
        (s1.l1 = [] → leNat (t.bytes l.key (va % 128) 8) = (leNat (s1.bytes l.key (va % 128) 8) + (g1.sreg a.toNat).toNat) % 2 ^ 64))
    ∧ (∀ pr : BitVec 6, i = .mighint pr → scalarRuns g p → ∃ t, exec i s = .next t ∧
      t = { advanced s k slot with fresh := t.fresh, mirrorReqs := t.mirrorReqs, wire := t.wire } ∧
      ((t.mirrorReqs = s.mirrorReqs ∧ t.wire = s.wire) ∨
        ∃ x, t.mirrorReqs = s.mirrorReqs ++ [x] ∧ t.wire = s.wire ++ [.mirrorClaim x.ia] ∧ x.ctx = g.ctx ∧ x.ia % 2 ^ 16 = 0 ∧ x.released = false))

/-- The events of the fabric complete (19 R348, R354 to R358, 20 R375). A response ends its pass, credits its cost and writes an RLD's lanes; a failure, and the time-out of a pass that no port takes, make an open region replay; a peer's loads, stores or atomics are performed lane by lane at the lines they reach and answered, and so is a fault, the answer of an atomic being kept; staged stores are performed by their commit and dropped by their discard; a commit not delivered within ENGWAIT reports the grid with 0x96; a peer's plain row is written and acknowledged; a row not delivered in time fails its batch with 0x77; a port that retrains is down and carries no pass but remote atomics, and one that is up takes the passes that wait for it. The model's choices: that STEPOVF of an atomic follows the value that it delivers (log entry 107); that a commit performs the staged passes in the order of their numbers (log entry 70). -/
def Obligations.RemoteEvents : Prop :=
  ∀ s : State,
    (∀ x vals fl g, s.passes.find? (fun y => y.id = x.id) = some x → x.port.isSome = true → x.failed = none → s.group? x.key = some g →
      (∃ o ∈ g.pend, o.kind = .remote x.run) → s.readsLeft x.key = [] → x.req.kind = .rld → x.z = 4 → (x.req.lanes.map RemoteLane.lane).Nodup →
      (∀ y ∈ x.req.lanes, y.lane < 64) →
      ∃ t g', exec (.remoteResponse x.id (.done vals fl)) s = .next t ∧ t.group? x.key = some g' ∧ (∀ y ∈ t.passes, y.id ≠ x.id) ∧ t.mem = s.mem ∧
        (∀ y ∈ x.req.lanes, g'.vreg x.d y.lane = ((alGet vals y.lane).getD []).getD 0 0) ∧ g'.s = g.s ∧ g'.p = g.p ∧
        (∀ r l, l < 64 → r ≠ x.d → g'.vreg r l = g.vreg r l) ∧
        ((∀ y ∈ s.passes, y.run = x.run → y.id = x.id) → (∀ r, g.remote = some r → r.id = x.run → r.todo = []) →
          ∀ o ∈ g'.pend, o.kind ≠ .remote x.run))
    ∧ (∀ x g r c, RemoteReplays s x g r c →
      (∀ why peer, x.port.isSome = true → ∃ t, exec (.remoteResponse x.id (.failed why peer)) s = .next t ∧ ReplaysRemote x g r t)
      ∧ (x.port = none → x.waitSince + ((s.ctx? x.ctx).getD Context.blank).engwait ≤ s.nanos →
        ∃ t, exec (.portWaitTimeout x.id) s = .next t ∧ ReplaysRemote x g r t))
    ∧ (∀ q c ls, (∀ e ∈ s.keptResponses, ¬(e.1 = q.srcDev ∧ e.2.1 = q.pass)) → s.ctx? q.ctx = some c →
      s.peerLines c q.kind q.lanes = .ready ls →
      (q.kind = .rld → ∃ t, exec (.remoteRequestArrival q) s = .next t ∧ t = { s with peerWaits := t.peerWaits, wire := t.wire } ∧
        t.wire = s.wire ++ [.response q.srcDev q.pass (.done (ls.map fun x =>
          let old := numberAt (memGet s.mem) (peerByte x) q.size
          (x.1.lane, [BitVec.ofNat 32 old, BitVec.ofNat 32 (old / 2 ^ 32)])) 0)])
      ∧ (q.kind = .rst → q.staged = none → ∃ t, exec (.remoteRequestArrival q) s = .next t ∧
        t.wire = s.wire ++ [.response q.srcDev q.pass (.done [] 0)] ∧ ∀ a, memGet t.mem a = peerStores q.size (memGet s.mem) ls a)
      ∧ (q.kind = .rst → q.staged.isSome = true → q ∉ s.staged → (stagedLines (s.staged ++ [q])).length ≤ 4096 →
        ∃ t, exec (.remoteRequestArrival q) s = .next t ∧ t = { s with peerWaits := t.peerWaits, wire := t.wire, staged := s.staged ++ [q] } ∧
          t.wire = s.wire ++ [.response q.srcDev q.pass (.done [] 0)])
      ∧ (q.kind = .ratom → q.size = atomSize (BitVec.ofNat 4 q.op) →
        let done := peerAtomics q (memGet s.mem) ls
        ∃ t vals, exec (.remoteRequestArrival q) s = .next t ∧ (∀ a, memGet t.mem a = done.1 a) ∧
          t.wire = s.wire ++ [.response q.srcDev q.pass (.done vals done.2.2)] ∧
          t.keptResponses = s.keptResponses ++ [(q.srcDev, q.pass, .done vals done.2.2)] ∧
          vals.map (fun v => (v.1, (v.2.getD 0 0).toNat + if q.size = 8 then 2 ^ 32 * (v.2.getD 1 0).toNat else 0)) =
            (ls.map fun x => x.1.lane).zip done.2.1))
    ∧ (∀ q c cause, (∀ e ∈ s.keptResponses, ¬(e.1 = q.srcDev ∧ e.2.1 = q.pass)) → s.ctx? q.ctx = some c →
      s.peerLines c q.kind q.lanes = .fails cause →
      ∃ t, exec (.remoteRequestArrival q) s = .next t ∧
        t = { s with peerWaits := t.peerWaits, wire := s.wire ++ [.response q.srcDev q.pass (.failed 1 cause)], keptResponses := t.keptResponses } ∧
        t.keptResponses = (if q.kind = .ratom then s.keptResponses ++ [(q.srcDev, q.pass, .failed 1 cause)] else s.keptResponses))
    ∧ (∀ src, exec (.stagedDiscard src) s = .next { s with
        staged := s.staged.filter (fun q => q.staged ≠ some src), peerWaits := s.peerWaits.filter (fun w => w.req.staged ≠ some src),
        wire := s.wire ++ [.settled src] })
    ∧ (∀ src q c ls, s.staged = [q] → q.staged = some src → q.kind = .rst → s.ctx? q.ctx = some c → s.peerLines c .rst q.lanes = .ready ls →
      ∃ t, exec (.stagedCommit src) s = .next t ∧ t = { s with mem := t.mem, metWaits := t.metWaits, staged := [], wire := s.wire ++ [.settled src] } ∧
        ∀ a, memGet t.mem a = peerStores q.size (memGet s.mem) ls a)
    ∧ (∀ src q1 q2 c ls1 ls2, s.staged = [q2, q1] → q1.pass < q2.pass → q1.staged = some src → q2.staged = some src → q1.kind = .rst → q2.kind = .rst →
      q1.ctx = q2.ctx → s.ctx? q1.ctx = some c → s.peerLines c .rst q1.lanes = .ready ls1 → s.peerLines c .rst q2.lanes = .ready ls2 →
      (∀ x ∈ ls1 ++ ls2, (c.podShared (x.2.ia * 128)).isSome = true ∨ (s.cached (x.2.ia * 128)).isSome = true) →
      ∃ t, exec (.stagedCommit src) s = .next t ∧ t.staged = [] ∧
        ∀ a, memGet t.mem a = peerStores q2.size (peerStores q1.size (memGet s.mem) ls1) ls2 a)
    ∧ (∀ x c, s.commits.find? (fun y => y.id = x.id) = some x → x.discard = false → s.ctx? x.ctx = some c → x.since + c.engwait ≤ s.nanos →
      c.reported = none → c.preempting = none →
      ∃ t, exec (.commitDeliveryTimeout x.id) s = .next t ∧ Reported s x.ctx 0x96 t ∧ t.mem = s.mem ∧ ∀ y ∈ t.commits, y.id ≠ x.id)
    ∧ (∀ push c r, s.ctx? push.ctx = some c → push.block = none → s.engineLine c push.addr.toNat .engineWrite false = .ready r → s.isOwned r = false →
      ∃ t, exec (.pushRowArrival push) s = .next t ∧ t.wire = s.wire ++ [.pushAck push.srcDev push.addr none] ∧
        t.bytes r.key 0 128 = slice push.bytes 0 128 ∧ ∀ a, uncached s a → a / 256 ≠ r.key → memGet t.mem a = memGet s.mem a)
    ∧ (∀ op row o d since, s.coll? op = none → s.openRow op row = some (o, d) → d.dest = 2 → row ≠ 32 → alGet o.waits row = some since →
      since + ((s.ctx? o.ctx).getD Context.blank).engwait ≤ s.nanos → s.batchFailed o.q o.batch = false →
      ∃ t, exec (.pushResendTimeout op row) s = .next t ∧ t.mat? op = none ∧ t.mem = s.mem ∧
        t.batchFails = s.batchFails ++ [⟨o.q, o.batch, o.key, 0x77, 0x8C, o.pc⟩])
    ∧ (∀ n, n < 16 → (∃ t, exec (.portRetrain n) s = .next t ∧ t.isUp n = false ∧ (∀ m, m ≠ n → t.isUp m = s.isUp m) ∧
        (∀ x ∈ t.passes, x.port = some n → x.req.kind = .ratom) ∧ (∀ x ∈ t.pushes, x.port ≠ some n) ∧
        (∀ o ∈ t.colls, ∀ y ∈ o.sent, y.port ≠ some n) ∧ (⟨0xA8, n⟩ : LanternReport) ∈ t.lantern ∧
        (∀ r ∈ s.keptResponses, FabricMsg.response r.1 r.2.1 r.2.2 ∈ t.wire) ∧ t.keptResponses = s.keptResponses)
      ∧ ∃ t, exec (.portUp n) s = .next t ∧ t = { s with ports := t.ports, passes := t.passes, wire := t.wire, allow := t.allow } ∧ t.isUp n = true ∧
        (∀ m, m ≠ n → t.isUp m = s.isUp m) ∧
        ∀ x ∈ t.passes, x.port = none → x.failed = none → x.answer = none → t.portFor (((t.ctx? x.ctx).getD Context.blank).route x.cls) = none)

/-! ### Collectives -/

/-- Collectives complete (19 R348, R358, R364, R365, R368, 20 R379, R380). COLL whose parameter block is reached, read as its core last left it, and passes its checks, with fewer than eight of the group outstanding, starts a collective with the block's members in rank order, delivers its handle, and counts on its flag; with eight outstanding it waits for the oldest. CWAIT delivers 0 for a clean completion, 256 plus the cause for a failed one, waits for one that is outstanding, and traps RESERVED_FIELD on a handle that the group does not hold. A message of a member on another device is taken up once and acknowledged: its partial sum or its line of the result kept, its parameters compared, differing ones failing the collective with 0xA5; a message of this member that is acknowledged gives its units back, one whose link fails is queued again, one that is refused fails the collective with 0x9D, 0x9E or 0x9F; another member's abort or mismatch fails the collective with 0xA6 or 0xA5; a chunk whose counter has reached TARGET is taken up, and one that stays below it for ENGWAIT fails the collective with 0x8D; a collective with nothing left to do completes, its outcome is kept, its flag count falls, and 0xA5 or 0xA6 is raised to its group. Which messages a member sends, acknowledges and pays for is the model's reading (log entry 67). -/
def Obligations.Collectives : Prop :=
  ∀ s : State,
    (∀ (s1 : State) (k slot : Nat) (g g1 : Group) (p : Split) (pr : BitVec 6) (d : BitVec 7) (l : LineRef) (ms : List CollMember),
      Poised s (.coll pr d) k slot g p → scalarRuns g p → Counted g p false → StartsIn true s k slot g p s1 g1 →
      s1.reachScalar (wordEnv k slot g g1 p) (pairNat g1.s (2 * pr.toNat)) 128 .load false = .ok l → s1.isOwned l = false →
      let b := s1.homeBytes (k / 64) l 0 128
      s1.collCheck (wordEnv k slot g g1 p) (s1.ctxOf g1) b = .ok ms →
      (g1.collsOut.length < 8 →
        ∃ t o c g', exec (.coll pr d) s = .next t ∧
          t = { s1 with fresh := s1.fresh + 1, groups := t.groups, colls := s1.colls ++ [c], mem := t.mem, l1 := t.l1, owned := t.owned,
                        metWaits := t.metWaits } ∧
          c.id = s1.fresh ∧ c.ctx = g1.ctx ∧ c.key = k ∧ c.block = b ∧ c.members = ms ∧ c.failed = none ∧ c.written = [] ∧ c.parts = [] ∧ c.met = [] ∧
          c.sums = [] ∧ c.results = [] ∧ c.sent = [] ∧
          c.members[c.rank]? = some ⟨s1.devno.toNat, coreDie (k / 64), 64⟩ ∧
          (∀ r, r < ms.length → r ≠ c.rank → (⟨r, 0, .start⟩ : CollSend) ∈ c.queue) ∧
          t.group? k = some g' ∧ g'.splits = (g1.mapSplit slot Split.advance).splits ∧ (g'.sreg d.toNat).toNat = g1.collCount % 2 ^ 16 ∧
          g'.collCount = g1.collCount + 1 ∧ (g1.collCount % 2 ^ 16, s1.fresh) ∈ g'.colls ∧ g'.pend = g1.pend ++ [o] ∧
          o.kind = .coll s1.fresh ∧ o.flag = flagOf g p ∧ g'.v = g1.v ∧ g'.p = g1.p ∧ (∀ r, r ≠ d.toNat → g'.sreg r = g1.sreg r) ∧
          ∀ a, uncached s1 a → memGet t.mem a = memGet s1.mem a)
      ∧ ∀ id rest, g1.collsOut = id :: rest → 7 ≤ rest.length →
        exec (.coll pr d) s = .next (s1.mapSplit k slot fun q => { q with park := .retry (.collRoom id) }))
    ∧ (∀ (k slot : Nat) (g : Group) (p : Split) (d a : BitVec 7), Poised s (.cwait d a) k slot g p → scalarRuns g p →
      let found := g.colls.find? fun x => x.1 = (g.sreg a.toNat).toNat % 2 ^ 16
      (found = none → exec (.cwait d a) s = .next (s.wordTrap k slot p.pc (activeLanes g p) (trapOf 0x06)))
      ∧ ∀ x, found = some x →
        ((∀ c ∈ s.collsDone, c.id ≠ x.2) → exec (.cwait d a) s = .next (s.mapSplit k slot fun q => { q with park := .retry (.coll x.2) }))
        ∧ ∀ c, s.collsDone.find? (fun c => c.id = x.2) = some c →
          ∃ t w, exec (.cwait d a) s = .next t ∧ t = { after s k slot (g.setS d.toNat w) with l1 := t.l1 } ∧
            w.toNat = (match c.failed with | none => 0 | some cause => 256 + cause.toNat))
    ∧ ∀ id o, s.coll? id = some o →
      (∀ rank m, o.failed = none → o.members[rank]? = some m → 3 ≤ m.cls → m.cls < 64 → rank ≠ o.rank →
        (∀ line bytes, line < cpLines o.block → cpAdds o.block = true → rank ∈ sumSources o.order o.n (o.origin line) o.rank → o.sumFrom rank line = none →
          ∃ t o', exec (.collectiveMessage id (.sum rank line bytes)) s = .next t ∧ t = { s with colls := t.colls, wire := t.wire } ∧
            t.coll? id = some o' ∧ o' = { o with sums := o.sums ++ [(rank, line, bytes)] } ∧ o'.sumFrom rank line = some bytes ∧
            ∃ d e c i, t.wire = s.wire ++ [.coll d e c i (.acknowledged o.rank line .sum)] ∧ d = m.dev ∧ e = m.die ∧ i = cpCollid o.block)
        ∧ (∀ line bytes, line < cpLines o.block → o.rank ∈ Coll.forwards { o with rank := rank } line → alGet o.results line = none →
          ∃ t o', exec (.collectiveMessage id (.result rank line bytes)) s = .next t ∧ t = { s with colls := t.colls, wire := t.wire } ∧
            t.coll? id = some o' ∧ o' = { o with results := o.results ++ [(line, slice bytes 0 138)] } ∧ alGet o'.results line = some (slice bytes 0 138) ∧
            ∃ d e c i, t.wire = s.wire ++ [.coll d e c i (.acknowledged o.rank line .result)] ∧ d = m.dev ∧ e = m.die ∧ i = cpCollid o.block)
        ∧ (∃ t o', exec (.collectiveMessage id (.start rank o.shared)) s = .next t ∧ t.coll? id = some o' ∧ rank ∈ o'.met ∧ o'.failed = none ∧
            t = { s with colls := t.colls, wire := t.wire })
        ∧ ∀ shared, shared ≠ o.shared → ∃ t o', exec (.collectiveMessage id (.start rank shared)) s = .next t ∧ t.coll? id = some o' ∧
            o'.failed = some 0xA5 ∧ t.mem = s.mem)
      ∧ (∀ rank line kind y, o.failed = none → o.sent.find? (fun z => z.what = ⟨rank, line, kind⟩) = some y →
        (∃ t o', exec (.collectiveMessage id (.acknowledged rank line kind)) s = .next t ∧ t = { s with colls := t.colls, allow := t.allow } ∧
          t.coll? id = some o' ∧ o'.sent = o.sent.erase y ∧ o'.queue = o.queue)
        ∧ ∀ cause : Byte, (cause.toNat < 0x9D ∨ 0x9F < cause.toNat → ∃ t o', exec (.collectiveMessage id (.linkFailed rank line kind cause)) s = .next t ∧
            t = { s with colls := t.colls, allow := t.allow } ∧ t.coll? id = some o' ∧ o'.sent = o.sent.erase y ∧ o'.queue = o.queue ++ [⟨rank, line, kind⟩])
          ∧ (0x9D ≤ cause.toNat → cause.toNat ≤ 0x9F →
            ∃ t o', exec (.collectiveMessage id (.linkFailed rank line kind cause)) s = .next t ∧ t.coll? id = some o' ∧ o'.failed = some cause ∧ t.mem = s.mem))
      ∧ (o.failed = none → (∃ t o', exec (.collectiveMessage id .abort) s = .next t ∧ t.coll? id = some o' ∧ o'.failed = some 0xA6 ∧ t.mem = s.mem)
        ∧ ∃ t o', exec (.collectiveMessage id .mismatch) s = .next t ∧ t.coll? id = some o' ∧ o'.failed = some 0xA5 ∧ t.mem = s.mem)
      ∧ (∀ chunk v, s.openColl id = some o → o.openChunk chunk = true → s.chunkValue o chunk = some v →
        (cpTarget o.block ≤ v → (s.ctx? o.ctx).bind Context.preempting = none →
          ∃ t o', exec (.chunkReady id chunk) s = .next t ∧ t = { s with colls := t.colls } ∧ t.coll? id = some o' ∧ o'.ready = o.ready ++ [chunk])
        ∧ (v < cpTarget o.block → o.since + ((s.ctx? o.ctx).getD Context.blank).engwait ≤ s.nanos →
          ∃ t o', exec (.chunkCounterTimeout id chunk) s = .next t ∧ t.coll? id = some o' ∧ o'.failed = some 0x8D ∧ t.mem = s.mem))
      ∧ (o.finished = true → s.engineRuns o.ctx = true →
        ∃ t, exec (.collectiveCompletion id) s = .next t ∧ t = { s with colls := t.colls, collsDone := t.collsDone, groups := t.groups } ∧
          t.coll? id = none ∧ t.collsDone = s.collsDone ++ [⟨id, o.failed⟩] ∧
          ∀ g, s.group? o.key = some g → ∃ g', t.group? o.key = some g' ∧ g'.pend = g.pend.filter (fun x => x.kind ≠ .coll id) ∧
            g'.imprecise.length = g.imprecise.length + (if o.failed = some 0xA5 ∨ o.failed = some 0xA6 then 1 else 0))

/-! ### Launches, teams, events -/

/-- The words of launches and events complete (08 R175, R176, 07 R151 to R155). LAUNCH, LAUNCHI and SPAWN of a record that is accepted, with the IND that the word asks for, queue the launch, deliver its grid identifier, and count the context's identifiers on; a SPAWN, whose team's weight is 2 or more, takes half of it. EVPUB outside a region stores its value at the event, as a release at .dev; EVWAIT completes once the event has reached its value, and parks on it until then. Memory, but for lines that an L1 held and the event's bytes, is as it was. -/
def Obligations.LaunchWords : Prop :=
  ∀ (s : State) (k slot : Nat) (g : Group) (p : Split), scalarRuns g p →
    (∀ (i : Instr) (s1 : State) (g1 : Group) (tm : Team) (pr : BitVec 6) (d : BitVec 7) (l : LineRef) (r : List DWord) (args : List Byte),
      Poised s i k slot g p → StartsIn true s k slot g p s1 g1 → s1.team? g1.team = some tm →
      let c := s1.ctxOf g1
      let grid := ((s1.ctx? g1.ctx).map Context.nextGrid).getD 1
      Accepts s1 k g1 c (pairNat g1.s (2 * pr.toNat)) (decide (i = .spawn pr d)) l r args →
      (i = .launch pr d ∧ isIndirect r = false) ∨ (i = .launchi pr d ∧ isIndirect r = true) ∨ (i = .spawn pr d ∧ 2 ≤ tm.weight) →
      ∃ t x g', exec i s = .next t ∧
        t = { s1 with fresh := s1.fresh + 1, ctxs := alMap s1.ctxs g1.ctx fun c => { c with nextGrid := c.nextGrid + 1 },
                      launches := s1.launches ++ [x], teams := t.teams, groups := t.groups, mem := t.mem, l1 := t.l1, teamRels := t.teamRels,
                      metWaits := t.metWaits } ∧
        x.id = s1.fresh ∧ x.ctx = g1.ctx ∧ x.grid = grid ∧ x.record = r ∧ x.args = args ∧ x.stage = .list ∧ x.waiting = none ∧
        t.group? k = some g' ∧ g'.splits = (g1.mapSplit slot Split.advance).splits ∧ (g'.sreg d.toNat).toNat = grid % 2 ^ 32 ∧
        (∀ n, n ≠ d.toNat → g'.sreg n = g1.sreg n) ∧ g'.v = g1.v ∧ g'.p = g1.p ∧
        (i ≠ .spawn pr d → t.teams = s1.teams ∧ x.origin = .group k tm.id p.pc) ∧
        (i = .spawn pr d → (∃ tm', t.team? g1.team = some tm' ∧ tm'.weight = tm.weight - tm.weight / 2) ∧
          ∃ root, x.origin = .spawn k tm.id p.pc root (tm.weight / 2)) ∧
        ∀ a, uncached s1 a → memGet t.mem a = memGet s1.mem a)
    ∧ (∀ (pr q : BitVec 6) (l : LineRef), Poised s (.evpub pr q) k slot g p → g.region = none →
      let va := pairNat g.s (2 * pr.toNat)
      s.reachScalar (wordEnv k slot g g p) va 8 .store false = .ok l → s.isOwned l = false → keyIsSram l.key = false →
      ∃ t, exec (.evpub pr q) s = .next t ∧
        t = { advanced s k slot with mem := t.mem, l1 := t.l1, tlb := t.tlb, teamRels := t.teamRels, metWaits := t.metWaits } ∧
        (∀ a, uncached s a → (a < l.key * 256 + va % 128 ∨ l.key * 256 + va % 128 + 8 ≤ a) → memGet t.mem a = memGet s.mem a) ∧
        (s.l1 = [] → leNat (t.bytes l.key (va % 128) 8) = pairNat g.s (2 * q.toNat)))
    ∧ (∀ (pr q : BitVec 6) (l : LineRef), Poised s (.evwait pr q) k slot g p →
      let va := pairNat g.s (2 * pr.toNat)
      s.reachScalar (wordEnv k slot g g p) va 8 .load false = .ok l → s.isOwned l = false → keyIsSram l.key = false → s.registered l.ia = [] →
      let value := leNat (overlayBuf l.key (va % 128) (s.bytes l.key (va % 128) 8) g.buf)
      (pairNat g.s (2 * q.toNat) ≤ value → ∃ t, exec (.evwait pr q) s = .next t ∧ t = { advanced s k slot with l1 := t.l1, tlb := t.tlb })
      ∧ (value < pairNat g.s (2 * q.toNat) → ∃ t w, exec (.evwait pr q) s = .next t ∧ w.line = l ∧ w.off = va % 128 ∧
        w.least.toNat = pairNat g.s (2 * q.toNat) ∧
        t = { s.mapSplit k slot (fun x => { x with park := .word w }) with l1 := t.l1, tlb := t.tlb }))

/-- The events of launches and teams complete (07 R145 to R147, R153 to R156, 09 R191, R192, 22 R399). A launch that is no SPAWN, with its wait list satisfied now or at an earlier visit and its root counter reached, clears the counter and becomes a grid of DIMX × DIMY × DIMZ teams; a grid that waits for a bind record reuses a BOUND one; dispatch, at the record that it visits next, binds the next team on a core that has room and has taken the team's split, each of its groups with one split of all lanes at ENTRY and registers that read zero, its scratchpad lines reading zero; a core without teams adopts another split, its L1 empty; a quiet team whose grid needs no event word and has nothing left to merge adds its weight to the root counter and is released. The model's choices: that all entries of a wait list are found satisfied at one moment, once (log entry 111); that a visit binds one team (log entry 112); that a core without teams takes the CARVE of the team that it gets, its L1 discarded (log entry 81). -/
def Obligations.TeamEvents : Prop :=
  ∀ s : State,
    (∀ x c l, s.launches.find? (fun y => y.id = x.id) = some x → s.ctx? x.ctx = some c → c.reported = none → c.preempting = none →
      c.preempted = false → x.isSpawn = false → isIndirect x.record = false →
      let r : LaunchRec := x.record
      ∀ n, (x.stage = .list ∧ s.waitList c ((List.range (r.wln % 16)).map fun i => r.wlptr + 16 * i) = .satisfied ∧ n = r.dimx * r.dimy * r.dimz) ∨
        (x.stage = .count ∧ n = r.dimx * r.dimy * r.dimz) ∨ x.stage = .place n → n ≠ 0 → s.engineWord c r.done 8 .engineWrite = .ready l →
      ∃ t, exec (.waitListSatisfied x.id) s = .next t ∧ (∀ y ∈ t.launches, y.id ≠ x.id) ∧
        (∃ gr ∈ t.grids, gr.launch = x.id ∧ gr.ctx = x.ctx ∧ gr.id = x.grid ∧ gr.teams = n ∧ gr.root.toNat = r.done ∧ gr.weight = 2 ^ 63) ∧
        leNat (t.bytes l.key (r.done % 128) 8) = 0 ∧
        ∀ a, uncached s a → (a < l.key * 256 + r.done % 128 ∨ l.key * 256 + r.done % 128 + 8 ≤ a) → memGet t.mem a = memGet s.mem a)
    ∧ (∀ id gr rec, s.grids.find? (fun x => x.launch = id) = some gr → s.grid? gr.ctx gr.id = some gr →
      gr.nextUnit < gr.units → (gr.unitTeams gr.nextUnit).2 ≠ 0 →
      let die := coreDie (gr.unitCore gr.nextUnit)
      (∀ n < 128, bit (s.slot die n 0) 63 = true) → rec < 128 → bit (s.slot die rec 0) 62 = true → (∀ n < rec, bit (s.slot die n 0) 62 = false) →
      ∃ t gr', exec (.slotRecordReuse id) s = .next t ∧ t = { s with slots := t.slots, grids := t.grids } ∧
        t.grid? gr.ctx gr.id = some gr' ∧ gr' = { gr with nextUnit := gr'.nextUnit } ∧ gr.nextUnit < gr'.nextUnit ∧
        (gr.units = gr.nextUnit + 1 → ∀ j < 8, t.slot die rec j = (gr.bindRecord gr.nextUnit).getD j 0 % 2 ^ 64))
    ∧ (∀ die rec c gr core p0 p1 qs, die < 4 → rec < 128 → s.nextVisit die = some rec → s.badRec die rec = false →
      let b := s.bindRec die rec
      s.ctx? b.ctx = some c → s.grid? b.ctx b.grid = some gr → c.reported = none → c.preempting = none → c.preempted = false → c.freeing = false →
      s.findCore b (b.cores die) = some (core, p0, p1) → freePslots c.nps b.groups (s.usedPslots b.ctx) = some qs →
      ∃ t tm, exec (.teamBind die rec) s = .next t ∧ t.teams = s.teams ++ [tm] ∧ tm.ctx = b.ctx ∧ tm.grid = b.grid ∧ tm.num = b.next ∧
        tm.core = core ∧ tm.groups = b.groups ∧ tm.base0 = p0.base ∧ tm.barriers = List.replicate 16 (newBarrier b.groups) ∧ tm.ended = 0 ∧
        (∀ n < b.scr, ∀ j < 256, memGet t.mem (sramKey core (p0.base + n) * 256 + j) = 0) ∧
        (∀ n < b.groups, ∃ k x, t.group? k = some x ∧ x.team = tm.id ∧ x.num = n ∧ x.ctx = gr.ctx ∧ x.width = gwLanes b.gw ∧ x.v = [] ∧ x.s = [] ∧
          x.p = [] ∧ x.regs = b.regs ∧ x.seed = c.seed ∧
          x.splits = [{ newSplit 0 (BitVec.ofNat 56 (LaunchRec.entry gr.record)) (laneMask (gwLanes b.gw)) none with starts := true }]) ∧
        t.slot die rec 2 = (b.next + 1) % 2 ^ 32 * 2 ^ 32 + b.grid ∧ bit (t.slot die rec 0) 62 = decide (b.last ≤ b.next) ∧
        t.carveOf core = BitVec.ofNat 3 b.carve ∧ smGet 0 t.visits die = (rec + 1) % 128)
    ∧ (∀ core carve, s.residents core = [] → carve < 5 → s.carveOf core ≠ BitVec.ofNat 3 carve →
      ∃ t, exec (.repartition core carve) s = .next t ∧
        t = { s with mem := t.mem, l1 := t.l1, carve := t.carve, teamRels := t.teamRels, metWaits := t.metWaits } ∧
        t.carveOf core = BitVec.ofNat 3 carve ∧ (∀ a, uncached s a → memGet t.mem a = memGet s.mem a) ∧
        (keysRise none s.l1 = true → ∀ x ∈ t.l1, x.1 / 2 ^ 45 ≠ core))
    ∧ ∀ id tm c gr l, s.team? id = some tm → s.teamQuiet tm = true → s.ctx? tm.ctx = some c → s.grid? tm.ctx tm.grid = some gr →
      c.reported = none → (gr.done + 1 ≠ gr.teams ∨ (s.releaseTeam tm).detAddrs tm.ctx tm.grid = []) → LaunchRec.evbase gr.record = 0 →
      (s.releaseTeam tm).engineWord c gr.root.toNat 8 .engineWrite = .ready l →
      ∃ t, exec (.teamCompletion id) s = .next t ∧ (∀ x ∈ t.teams, x.id ≠ id) ∧ t.groups = s.groups ∧
        (∀ a, uncached s a → (a < l.key * 256 + gr.root.toNat % 128 ∨ l.key * 256 + gr.root.toNat % 128 + 8 ≤ a) → memGet t.mem a = memGet s.mem a) ∧
        (s.l1 = [] → leNat (t.bytes l.key (gr.root.toNat % 128) 8) = (leNat (s.bytes l.key (gr.root.toNat % 128) 8) + tm.weight) % 2 ^ 64)

/-- The events of groups complete. While the array has no register operand of the group left to read, an operation of long latency delivers its last elements and its count falls, or delivers the elements of some registers in some lanes (04 R64, R65); stalls whose cycle has come end (05 R88); an agent that has been eligible for 128 cycles without a gap is promoted (07 R149), and a request that has waited 256 cycles at its slice (09 R184); a wait that no slice holds is read again and ends when its word is large enough (09 R202); a group whose cause has cleared may replay (16 R318); an entry of ATOM.DET takes its lane's next seq and enters a buffer of its slice, a free one or the one of its address, whose entries stay in key order, issuer before seq, and its operation counts down; a lane's 2^32-th is refused with DET_SPILL 0x66 (11 R235, R236). Traps that no word raises: a region past its limit of words aborts and traps SAFEPOINT_OVERRUN 0xB0 (16 R320), a glint past its own is ended (12 R264), a region aborted 65,536 times reports the grid (16 R318), an imprecise trap is taken at a safe point with SPLIT 0xFF (16 R322). The model's choices: that a lane's 2^32-th entry is refused as it arrives (log entry 125); that the frame's SEQ counts the entry it is written at (log entry 15); that the aborted region is set aside and RESUME names its RBEG word (log entries 14 and 98). -/
def Obligations.GroupEvents : Prop :=
  ∀ (s : State) (ag : AgentRef) (k : Nat) (g : Group), agentKey ag = k → s.group? k = some g →
    (∀ o, g.pend.find? (fun x => x.id = o.id && x.kind = .thread) = some o → keysRise none o.vals = true → s.readsLeft k = [] →
      (∀ x, ∃ g', exec (.longLatencyCompletion ag o.id x true) s = .next (s.putGroup k g') ∧ g'.pend = g.pend.filter (fun x => x.id ≠ o.id) ∧
        g'.xflags = g.xflags ||| o.xflags ∧ g'.s = g.s ∧ g'.p = g.p ∧ ∀ r l, l < 64 → g'.vreg r l = (alGet o.vals (r * 64 + l)).getD (g.vreg r l))
      ∧ ∀ x, ∃ g' : Group, exec (.longLatencyCompletion ag o.id x false) s = .next (s.putGroup k g') ∧
        g' = { g with v := g'.v, pend := g'.pend } ∧ g'.pend.length = g.pend.length ∧
        ∀ r l, l < 64 → g'.vreg r l =
          if x.regs.getLsbD r = true ∧ hasLane x.lanes l = true then (alGet o.vals (r * 64 + l)).getD (g.vreg r l) else g.vreg r l)
    ∧ exec (.schedStallExpiry ag) s = .next (s.mapGroup k fun g =>
        { g with splits := g.splits.map fun p => if p.stallUntil ≤ s.cycles then { p with stallUntil := 0 } else p })
    ∧ (∀ since, s.eligible k g = true → g.eligible = some since → since + 128 ≤ s.cycles →
        exec (.ageingPromotion ag) s = .next (s.mapGroup k fun g => { g with promoted := true }))
    ∧ (∀ req, exec (.sliceWaitPromotion req) s = .next { s with sliceReqs := s.sliceReqs.map fun q =>
        if q.id = req ∧ q.since + 256 ≤ s.cycles then { q with promoted := true } else q })
    ∧ (∀ slot w, (s.wordWaits.filter fun x => x.1 = k && !x.2.2.registered) = [(k, slot, w)] → w.scope ≠ .prom → g.stopped = false →
      s.isOwned w.line = false →
      (∀ x, s.l1Get (k / 64) w.line.ia = some x → x.dirty = 0) →
      w.least.toNat ≤ leNat (overlayBuf w.line.key w.off (s.bytes w.line.key w.off 8) g.buf) →
      ∃ t, exec (.waitgeRepoll ag) s = .next t ∧ t = { s.mapSplit k slot Split.advance with l1 := t.l1 })
    ∧ (∀ c, g.replay = some c → s.replayClear (s.ctxOf g) c = true → exec (.regionReplay ag) s = .next (s.mapGroup k fun g => { g with replay := none }))
    ∧ (∀ q o f, s.sliceReqs.find? (fun x => x.id = q.id) = some q → s.detBehind q = false → q.key = k → q.pend = o.id → g.pend = [o] →
      o.kind = .det 1 none f →
      let seq := smGet 0 g.detSeq q.lane
      (seq < 2 ^ 32 - 1 → (∀ b ∈ s.detBufs, b.holds q = false) → (s.detBufs.filter fun b => b.slice = q.slice).length < 64 →
        ∃ t b g', exec (.detEntryArrival q.id) s = .next t ∧ t.detBufs = s.detBufs ++ [b] ∧ b.holds q = true ∧ b.entries = [⟨q.issuer, seq, q.bf, q.value⟩] ∧
          (∀ x ∈ t.sliceReqs, x.id ≠ q.id) ∧ t.group? k = some g' ∧ g'.pend = [] ∧ g'.imprecise = g.imprecise ∧ smGet 0 g'.detSeq q.lane = seq + 1 ∧
          t.mem = s.mem)
      ∧ (seq < 2 ^ 32 - 1 → ∀ b, s.detBufs.find? (fun b => b.holds q) = some b → b.entries.length < 16 →
        ∃ t g', exec (.detEntryArrival q.id) s = .next t ∧ t.detBufs.length = s.detBufs.length ∧ t.group? k = some g' ∧ g'.pend = [] ∧
          smGet 0 g'.detSeq q.lane = seq + 1 ∧ t.mem = s.mem ∧
          ∃ b' ∈ t.detBufs, b'.holds q = true ∧ b'.entries.Perm (⟨q.issuer, seq, q.bf, q.value⟩ :: b.entries) ∧
            (b.entries.Pairwise keyOrder → b'.entries.Pairwise keyOrder))
      ∧ (2 ^ 32 - 1 ≤ seq → ∃ t g' x, exec (.detEntryArrival q.id) s = .next t ∧ t = { s with sliceReqs := t.sliceReqs, groups := t.groups } ∧
          (∀ x ∈ t.sliceReqs, x.id ≠ q.id) ∧ t.group? k = some g' ∧ g'.pend = [] ∧ g'.imprecise = g.imprecise ++ [x] ∧ x.cause = 0x66 ∧
          x.origin.toNat = o.pc.toNat ∧ x.committed = f))
    ∧ (∀ r c l p, CanAbort s k g r c l → stands s k g p → g.overLimit = true →
      ∃ t g' a, exec (.safepointOverrun ag) s = .next t ∧ t.group? k = some g' ∧ inHandler g g' c a ∧ a.split = r.slot ∧
        a.region = some { r with issued := 0, replaying := true } ∧ a.splits = r.shadow.splits ∧
        frameSeen s t k g c l
          (trapFrame 0xB0 3 p.slot (g.seq + 1).toNat p.pc.toNat 0 (activeLanes g p).toNat r.rbeg.toNat r.rbeg.toNat 0 0))
    ∧ (∀ x p, g.glint = some x → stands s k g p → g.overLimit = true →
      ∃ t, exec (.glintBudget ag) s = .next t ∧ t = { s with groups := s.groups.filter (fun e => decide (e.1 ≠ k)), copies := t.copies } ∧
        t.copies = s.copies.map fun o => if o.id = x.op then
          { o with failed := o.failed ++ [x.burst], fails := o.fails ++ [⟨0x11, x.va, k / 64⟩], glintFailed := true } else o)
    ∧ (∀ r c l p, CanAbort s k g r c l → c.preempting = none → stands s k g p → g.replaysAt p.slot p.pc = true → 65536 ≤ g.aborts →
      ∃ t, exec (.abortLimit ag) s = .next t ∧ Reported s g.ctx 0xB4 t ∧ t.mem = s.mem)
    ∧ ∀ c l x rest j p, CanEnter s k g c l → g.imprecise = x :: rest → g.stopped = false → g.replay = none → g.preciseDue = false →
      g.atSafePoint = true → g.nextSlot = some j → g.split? j = some p → alwaysReports x.cause = false →
      ∃ t g' a, exec (.impreciseTrapDelivery ag) s = .next t ∧ t.group? k = some g' ∧ inHandler g g' c a ∧ g'.imprecise = rest ∧ a.splits = g.splits ∧
        frameSeen s t k g c l
          (trapFrame x.cause (if x.committed then 4 else 0) 0xFF (g.seq + 1).toNat p.pc.toNat x.faddr.toNat 0 p.pc.toNat 0 x.origin.toNat x.detail.toNat)

/-- Pre-emption and mirrored blocks (16 R328, R329, 19 R370): a group of a context that is being pre-empted, at a stop point where it stops as it stands, delivers its own accesses, keeps its registers, in a region those of the mask alone, in its handler all, and is stopped, its core holding no dirty byte; a context at rest whose save area is large enough and writable leaves the cores, which hold no dirty byte of it, and the host is answered; a mirrored block, once the other devices have given it up and not before, becomes writable, the rest of a 2 MiB or 1 GiB page staying mirrored through tables of the pool, no translation stays cached, and the host is told; without a table for the split the writer's grid is reported. The model's choices: what a save holds stands in the context until RESUME (log entry 27); what the message of a collapse carries (log entry 76). -/
def Obligations.PreemptAndMirror : Prop :=
  ∀ s : State,
    (∀ ag k g, agentKey ag = k → s.group? k = some g → g.glint = none → g.stopped = false → (s.ctxOf g).preempting.isSome = true →
      s.stopPoint k g = some .here →
      ∃ t, exec (.groupPreemptStop ag) s = .next t ∧ t.group? k = some { g.finishThreads.keepMask with stopped := true } ∧
        t = { s with groups := t.groups, mem := t.mem, l1 := t.l1, teamRels := t.teamRels, waiters := t.waiters, metWaits := t.metWaits } ∧
        (∀ a, uncached s a → memGet t.mem a = memGet s.mem a) ∧ (keysRise none s.l1 = true → ∀ x ∈ t.l1, x.1 / 2 ^ 45 = k / 64 → x.2.dirty = 0))
    ∧ (∀ ctx c q, s.ctx? ctx = some c → c.preempting = some q → s.atRest ctx = true → (s.savedOf ctx).max ≤ c.savesize →
      (∀ t : State, t = { s with mem := t.mem, l1 := t.l1, tick := t.tick, metWaits := t.metWaits } → ∀ n ≤ (s.savedOf ctx).max / 128,
        ∃ l, t.resolveIa c (c.savebase + 128 * n) .engineWrite = .ok l) →
      ∃ t c', exec (.contextSaveWrite ctx) s = .next t ∧ t.ctx? ctx = some c' ∧ c'.preempted = true ∧ c'.preempting = none ∧
        c'.saved = some (s.savedOf ctx) ∧ (∀ e ∈ t.groups, e.2.ctx ≠ ctx) ∧ (∀ x ∈ t.teams, x.ctx ≠ ctx) ∧
        (keysRise none s.l1 = true → ∀ tm ∈ s.teams, tm.ctx = ctx → ∀ core ∈ tm.cores, ∀ x ∈ t.l1, x.1 / 2 ^ 45 = core → x.2.dirty = 0) ∧
        t.outbox = s.outbox ++ [{ opc := 0x86, status := 0, seq := q, ctx := BitVec.ofNat 32 ctx, cause := 0, payload := [] }])
    ∧ ∀ r, s.mirrorReqs.find? (fun y => y.id = r.id) = some r →
      let die := r.ia / 2 ^ 50 % 4
      let i1 := r.ia / 2 ^ 30 % 2 ^ 9
      let i2 := r.ia / 2 ^ 21 % 2 ^ 9
      let i3 := r.ia / 2 ^ 16 % 2 ^ 5
      let told := fun t : State => t.tlb = [] ∧ (∀ y ∈ t.mirrorReqs, y.id ≠ r.id) ∧ (∃ m, t.outbox = s.outbox ++ [m] ∧ m.payload = natLe r.ia 8) ∧
        t.groups = s.groups ∧ t.ctxs = s.ctxs
      (r.released = false → exec (.mirrorCollapse r.id) s = .next s)
      ∧ ∀ lev tbl x, r.released = true → s.leafOf die r.ia [0, 1, 2, 3] (s.rootTable die) = some (lev, tbl, x) → bit x 60 = true → bit x 61 = false →
        tbl % 8 = 0 →
        (lev = 3 → ∃ t, exec (.mirrorCollapse r.id) s = .next t ∧ told t ∧ t.pte die tbl i3 = leafWritable (pteAddr x))
        ∧ (∀ u s1, lev = 2 → s.takeTable die 3 = some (u, s1) → freshTable u 256 (tbl + 8 * i2) 8 →
          ∃ t, exec (.mirrorCollapse r.id) s = .next t ∧ told t ∧ t.pte die tbl i2 = 2 ^ 63 + u ∧ blocksOf t die u (pteAddr x) i3)
        ∧ (∀ u v s1 s2, lev = 1 → s.takeTable die 2 = some (u, s1) → s1.takeTable die 3 = some (v, s2) →
          freshTable u 4096 (tbl + 8 * i1) 8 → freshTable v 256 (tbl + 8 * i1) 8 → freshTable v 256 u 4096 →
          ∃ t, exec (.mirrorCollapse r.id) s = .next t ∧ told t ∧ t.pte die tbl i1 = 2 ^ 63 + u ∧
            (∀ j < 512, t.pte die u j = if j = i2 then 2 ^ 63 + v else leafMirrored (pteAddr x + j * 2 ^ 21)) ∧
            blocksOf t die v (pteAddr x + i2 * 2 ^ 21) i3)
        ∧ ∀ c, lev = 2 → s.takeTable die 3 = none → s.ctx? r.ctx = some c → c.reported = none → c.preempting = none →
          ∃ t, exec (.mirrorCollapse r.id) s = .next t ∧ Reported s r.ctx 0xB8 t ∧ t.mem = s.mem

/-! ### The device and its host -/

/-- The events of the device complete (22 R390, R391, R393, 23 R396, R398, 16 R331, 09 R185, 19 R359, 07 R145). Device reset reports every resident context and leaves the device's own memory zero and the lines of Prism slices as they were, no group, no context, no valid bind record, PTROOT enabled over base 0, counters zero, and a stored patch that verifies and is newer running; a scrub counts a corrected line, or poisons and counts one it cannot correct and reports 0x3F to the resident contexts whose windows reach it; a trip stops the device and is counted, a power trip only once ACLK has stood at 1.2 GHz for more than 10 ms; a thermal one reports every resident context with THERMAL, also after a power trip of its sampling period, a power trip reports the contexts resident then with POWER once its period has ended without one, or before a device reset; a device that has stopped issues nothing; ACLK moves in steps of 100 MHz from 1,200 to 2,400; the watchdog, the firmware and a machine check report contexts; the refusal of ATTEST ends after a second; a slice or a stack leaves service; a bind record, PTROOT and an allowance are written, reserved bits, NEXT and VALUE aside, NEXT taking FIRST where V is written 1. The model's choices: that BOUND is cleared there (log entry 128); what else stands through a device reset, a bind record's fields without a reset value among it (log entries 88 and 4); that a sampling period is a millisecond of %time, and that the report of POWER waits for its end (log entries 87 and 118). -/
def Obligations.DeviceEvents : Prop :=
  ∀ s : State,
    (∃ t, exec .deviceReset s = .next t ∧ (∀ a, a < 2 ^ 42 → memGet t.mem a = 0) ∧ (∀ a, 2 ^ 42 ≤ a → memGet t.mem a = memGet s.mem a) ∧
      t.groups = [] ∧ t.teams = [] ∧ t.ctxs = [] ∧ t.counters = [] ∧ (∀ x, x ∈ t.poison ↔ x ∈ s.poison ∧ keyIsPrism x = true) ∧
      (∀ die i, bit (t.slot die i 0) 63 = false ∧ bit (t.slot die i 0) 62 = false) ∧
      (keysRise none s.slots = true → ∀ die i, i < 128 → t.slot die i 1 = s.slot die i 1 ∧ t.slot die i 2 = s.slot die i 2) ∧
      t.devno = 0 ∧ t.booted = true ∧ t.stopped = false ∧ (∀ die < 4, (smGet 0 t.ptroot die).toNat = 2 ^ 63) ∧ t.patchStore = none ∧
      (∀ b, s.patchStore = some b → blobOk b.bytes = true → s.oneWay.toNat < b.version.toNat → t.patchRunning = some b ∧ t.oneWay = b.version) ∧
      (s.patchStore = none → t.patchRunning = s.patchRunning ∧ t.oneWay = s.oneWay) ∧
      ∀ n c, resident s n ∨ owesPower s n = true → s.ctx? n = some c → c.reported = none →
        ∃ m ∈ t.outbox, m.opc = 0xFF ∧ m.ctx = BitVec.ofNat 32 n ∧ m.payload.head? = some (if owesPower s n then 0xBC else 0xBD))
    ∧ (∀ line, line < 2 ^ 32 →
      exec (.patrolScrub line .clean) s = .next s
      ∧ (∃ t, exec (.patrolScrub line .corrected) s = .next t ∧ t = { s with counters := t.counters } ∧ counted s t (line / 2 ^ 30) 0)
      ∧ ∃ t, exec (.patrolScrub line .uncorrectable) s = .next t ∧ line ∈ t.poison ∧ (∀ x, x ≠ line → (x ∈ t.poison ↔ x ∈ s.poison)) ∧
        t.mem = s.mem ∧ counted s t (line / 2 ^ 30) 1 ∧
        ∀ n c, (∃ x ∈ s.teams, x.ctx = n) → s.ctx? n = some c → c.reported = none → (∃ ia ∈ s.iasOf line, c.reaches ia = true) →
          ∃ c', t.ctx? n = some c' ∧ c'.reported = some 0x3F)
    ∧ (s.tripped = none →
      (∀ die < 4, ∃ t, exec (.thermalTrip die) s = .next t ∧ t.stopped = true ∧ allReported s t (resident s) 0xBB ∧ counted s t 0 11 ∧ t.mem = s.mem)
      ∧ (s.aclkMHz = 1200 → s.aclkSince + 10000000 < s.nanos → ∃ t, exec .powerTrip s = .next t ∧
          t = { s with counters := t.counters, stopped := true, tripped := some ⟨s.nanos, false, s.residentCtxs⟩ } ∧
          (∀ n, n ∈ s.residentCtxs ↔ resident s n) ∧ counted s t 0 12))
    ∧ (s.aclkMHz ≠ 1200 ∨ s.nanos ≤ s.aclkSince + 10000000 → exec .powerTrip s = .next s)
    ∧ (∀ x, s.tripped = some x → x.since / 1000000 = s.nanos / 1000000 →
      (x.thermal = true →
        (s.aclkMHz = 1200 → s.aclkSince + 10000000 < s.nanos → ∃ t, exec .powerTrip s = .next t ∧ t = { s with counters := t.counters } ∧ counted s t 0 12)
        ∧ ∀ die < 4, ∃ t, exec (.thermalTrip die) s = .next t ∧ t = { s with counters := t.counters } ∧ counted s t 0 11)
      ∧ (x.thermal = false → s.sweepTrip = s ∧ exec .powerTrip s = .next s ∧
        ∀ die < 4, ∃ t, exec (.thermalTrip die) s = .next t ∧ allReported s t (fun n => n ∈ x.due ∨ resident s n) 0xBB ∧ counted s t 0 11 ∧
          t.tripped = some ⟨x.since, true, []⟩ ∧ t.mem = s.mem))
    ∧ (∀ x, s.tripped = some x → x.thermal = false → x.since / 1000000 ≠ s.nanos / 1000000 →
      allReported s s.sweepTrip (fun n => n ∈ x.due) 0xBC ∧ ∀ n, owesPower s.sweepTrip n = false)
    ∧ (s.stopped = true → ∀ core q, s.issue core q = .next s)
    ∧ (1300 ≤ s.aclkMHz → exec .aclkStepDown s = .next { s with aclkMHz := s.aclkMHz - 100, aclkSince := s.nanos })
    ∧ (s.aclkMHz + 100 ≤ 2400 → exec .aclkStepUp s = .next { s with aclkMHz := s.aclkMHz + 100, aclkSince := s.nanos })
    ∧ (∀ n c, s.ctx? n = some c → c.reported = none →
      (c.preempting = none → (∃ t, exec (.watchdogExpiry n) s = .next t ∧ Reported s n 0xB7 t ∧ t.mem = s.mem)
        ∧ ∃ t, exec (.lanternFirmwareFault n) s = .next t ∧ Reported s n 0xB8 t ∧ t.mem = s.mem)
      ∧ ∀ ns, n ∈ ns → ∃ t c', exec (.machineCheck ns) s = .next t ∧ t.ctx? n = some c' ∧ c'.reported = some 0xBF ∧ t.mem = s.mem)
    ∧ (∀ n, s.attestRefused = some n → n + 1000000000 ≤ s.nanos →
      ∃ t, exec .attestRefusalEnd s = .next t ∧ t = { s with attestRefused := none, attests := t.attests })
    ∧ (∀ n < 128, ∃ t, exec (.memoryOffline (.slice n)) s = .next t ∧ t = { s with offlineSlices := t.offlineSlices } ∧
        ∀ m, m ∈ t.offlineSlices ↔ m ∈ s.offlineSlices ∨ m = n)
    ∧ (∀ die < 4, ∀ n < 2, ∃ t, exec (.memoryOffline (.stack die n)) s = .next t ∧ t = { s with offlineStacks := t.offlineStacks } ∧
        ∀ m, m ∈ t.offlineStacks ↔ m ∈ s.offlineStacks ∨ m = die * 2 + n)
    ∧ ∀ value : DWord,
      (∀ die < 4, ∀ i < 128, ∀ n < 8, ∃ t, exec (.registerWrite (.bindRecord die i n) value) s = .next t ∧ t = { s with slots := t.slots } ∧
        let old := s.slot die i n
        let v := value.toNat
        let valid := decide (n = 0) && v.testBit 63
        t.slot die i n =
          (if n = 0 then v / 2 ^ 63 * 2 ^ 63 + (if valid then 0 else old / 2 ^ 62 % 2 * 2 ^ 62) + v % 2 ^ 62
           else if n = 1 then v else if n = 2 then old / 2 ^ 32 * 2 ^ 32 + v % 2 ^ 32 else if n = 3 then v % 2 ^ 52 else if n = 4 then v % 2 ^ 27 else 0) ∧
        (valid = true → t.slot die i 2 = s.slot die i 1 / 2 ^ 32 * 2 ^ 32 + s.slot die i 2 % 2 ^ 32) ∧
        ∀ die' i' n', i' < 128 → n' < 8 → (die', i', n') ≠ (die, i, n) → (valid = true → (die', i', n') ≠ (die, i, 2)) →
          t.slot die' i' n' = s.slot die' i' n')
      ∧ (∀ die < 4, ∃ t, exec (.registerWrite (.ptroot die) value) s = .next t ∧ t = { s with ptroot := t.ptroot } ∧
        smGet 0 t.ptroot die = value &&& 0x8000001FFFFFC000 ∧ ∀ d, d ≠ die → smGet 0 t.ptroot d = smGet 0 s.ptroot d)
      ∧ ∀ core < 576, ∀ cls < 64, ∀ cap low, cap = value.toNat / 2 ^ 32 % 2 ^ 16 → low = value.toNat / 2 ^ 16 % 2 ^ 16 → 32 ≤ cap → low ≤ cap →
        ∃ t, exec (.registerWrite (.allowance core cls) value) s = .next t ∧ t = { s with allow := t.allow } ∧
          rewrittenTo (s.allowance core cls) (t.allowance core cls) cap low (s.outstanding core cls) ∧
          ∀ core' cls', cls' < 64 → (core', cls') ≠ (core, cls) → t.allowance core' cls' = s.allowance core' cls'

/-- The commands of the host complete (22 R386 to R392, 16 R328, R330, R336, 19 R359): each that the device takes up, on operands that pass its checks, has its effect and is answered with STATUS 0, but PREEMPT, which is answered once the save area is written. LOAD writes bytes; MAP and UNMAP write entries and invalidate every cached translation, or add frames to the pools; CTX replaces a context record; LAUNCH queues the launch of an accepted record and answers its grid identifier; PREEMPT asks the context's groups to stop; RESUME of a context that fits, where each die has a bind record for its teams, takes them back, and else waits for both; ABORT reports the grid with 0xBE, or with the POWER that a trip still owes it, and frees the context; QUERY answers bytes of the query space and, when asked to, clears the counters read; ATTEST answers a report with its two signatures, and is refused with 0xBA for a second after the sixteenth in one; DEBUG retrains a port, raises 0x14 in the context's groups, turns single stepping on and off; PATCH installs a blob whose signatures verify and answers STATUS 5 for any other; DEVNO and ALWSET write the device number and the allowances. An unknown OPC is answered with STATUS 1. The model's choices: that RESUME and ABORT are answered at once, while the teams may return and the context go later (log entries 80 and 82); that a list of MAP is checked whole and written whole or not at all (log entry 77); where the counter block stands in the query space (log entry 84); that the sixteenth ATTEST of a second is itself answered (log entry 86). -/
def Obligations.HostCommands : Prop :=
  ∀ (s : State) (m : HostMsg),
    (Received s m 0x01 true → 8 ≤ m.payload.length → ∀ ls, s.plainLines (iaLines (field m 0 8) (m.payload.length - 8)) = .ok ls →
      (∀ x ∈ ls, s.isOwned x.2 = false ∧ s.isPoisoned x.2.key = false) →
      ∃ t, exec (.load m) s = .next t ∧ t = { answered s m 0 0 [] with mem := t.mem } ∧
        (∀ a, (∀ x ∈ ls, x.2.key ≠ a / 256) → memGet t.mem a = memGet s.mem a) ∧
        ∀ ia l, ls = [(ia, l)] →
          ∀ b < 128, memGet t.mem (l.key * 256 + b) =
            if field m 0 8 % 128 ≤ b ∧ b + 8 < field m 0 8 % 128 + m.payload.length then byteAt m.payload (8 + b - field m 0 8 % 128)
            else memGet s.mem (l.key * 256 + b))
    ∧ (Received s m 0x02 true → mapShape m = true →
      (m.flags.getLsbD 0 = false → (∀ e ∈ mapEntries m, mapCheck e.2.1 e.2.2 = none) →
        (∀ u, s.mapAll (mapEntries m) = .ok u →
          ∃ t, exec (.map m) s = .next t ∧ t = { answered s m 0 0 [] with mem := t.mem, poison := t.poison, pool := t.pool, smallTables := t.smallTables, tlb := [] } ∧
            t.mem = u.mem ∧ (∀ ia e, mapEntries m = [(ia, 0, e)] →
              t.pte (ia / 2 ^ 50 % 4) (s.rootTable (ia / 2 ^ 50 % 4)) (ptIndex 0 ia) = e ∧ t.pool = s.pool))
        ∧ ∀ cause, s.mapAll (mapEntries m) = .error cause → exec (.map m) s = .next (answered s m 3 cause []))
      ∧ (m.flags.getLsbD 0 = true → (∀ e ∈ mapEntries m, poolCheck e = true) →
        exec (.mapPoolFrames m) s =
          .next { answered s m 0 0 [] with pool := s.pool ++ (mapEntries m).map fun e => (e.1 / 2 ^ 50 % 4, e.2.2) }))
    ∧ (Received s m 0x03 true → m.payload.length = 16 → field m 9 7 = 0 → field m 8 1 < 4 →
      let ia := field m 0 8 % 2 ^ 52
      let die := ia / 2 ^ 50 % 4
      (∀ u, s.unmapFrom die ia (field m 8 1) 0 (s.rootTable die) = .ok u →
        ∃ t, exec (.unmap m) s = .next t ∧ t = { answered s m 0 0 [] with mem := t.mem, tlb := [] } ∧ t.mem = u.mem ∧
          (field m 8 1 = 0 → t.pte die (s.rootTable die) (ptIndex 0 ia) = s.pte die (s.rootTable die) (ptIndex 0 ia) % 2 ^ 63))
      ∧ ∀ cause, s.unmapFrom die ia (field m 8 1) 0 (s.rootTable die) = .error cause → exec (.unmap m) s = .next (answered s m 3 cause []))
    ∧ (Received s m 0x04 false → m.payload.length = 1024 → ctxReserved m.payload = false → ctxRange m.payload = false →
      field m 0 4 = m.ctx.toNat → (∀ x ∈ s.teams, x.ctx ≠ m.ctx.toNat) → (∀ c, s.ctx? m.ctx.toNat = some c → c.reported = none) →
      ∃ t c, exec (.ctx m) s = .next t ∧ t = { answered s m 0 0 [] with ctxs := t.ctxs } ∧ t.ctx? m.ctx.toNat = some c ∧
        c = { (s.ctx? m.ctx.toNat).getD Context.blank with record := c.record } ∧ (∀ i < 1024, memGet c.record i = byteAt m.payload i) ∧
        ∀ n, n ≠ m.ctx.toNat → t.ctx? n = s.ctx? n)
    ∧ (∀ c, Names s m c → Received s m 0x05 false → m.payload.length = 8 → ∀ l args s2, field m 0 8 % 128 = 0 → field m 0 8 < 2 ^ 52 →
      s.resolveIa c (field m 0 8) .engineRead = .ok l → s.isPoisoned l.key = false → s.isOwned l = false →
      s.acceptRecord c none (dwords (s.bytes l.key 0 128) 16) false = .ok args s2 →
      ∃ t x, exec (.launchCommand m) s = .next t ∧ t = { answered s m 0 0 (natLe c.nextGrid 4) with
          fresh := s.fresh + 1, launches := s.launches ++ [x], ctxs := alMap s.ctxs m.ctx.toNat fun c => { c with nextGrid := c.nextGrid + 1 } } ∧
        x.id = s.fresh ∧ x.ctx = m.ctx.toNat ∧ x.grid = c.nextGrid ∧ x.record = dwords (s.bytes l.key 0 128) 16 ∧ x.args = args ∧
        x.origin = .host m.seq)
    ∧ (∀ c, Names s m c → Received s m 0x06 false → m.payload = [] → c.preempting = none → c.preempted = false →
      exec (.preempt m) s = .next { s with ctxs := alMap s.ctxs m.ctx.toNat fun c => { c with preempting := some m.seq } })
    ∧ (∀ c x, Names s m c → Received s m 0x07 false → m.payload.length = 0 ∨ m.payload.length = 24 → resumeBytesOk m.payload = true →
      c.preempting = none → c.preempted = true → c.saved = some x → resumeOk x m.payload = true → c.resuming = none →
      s.savedVersion c = some Config.firmwareVersion →
      let named := m.payload.map BitVec.toNat
      (s.chooseTargets x named x.places [] = none ∨ (∃ at', s.chooseTargets x named x.places [] = some at' ∧ s.recordRoom x at' = false) →
        exec (.resume m) s = .next { answered s m 0 0 [] with ctxs := alMap s.ctxs m.ctx.toNat fun c => { c with resuming := some named } })
      ∧ ∀ at', s.chooseTargets x named x.places [] = some at' → s.recordRoom x at' = true →
        ∃ t c', exec (.resume m) s = .next t ∧ t.outbox = (answered s m 0 0 []).outbox ∧ t.ctx? m.ctx.toNat = some c' ∧
          c' = { c with preempted := false, saved := none, resuming := none } ∧
          t.teams = s.teams ++ x.teams.map fun tm => { tm with core := newCore at' tm.core, gone := [] })
    ∧ (∀ c, Names s m c → Received s m 0x08 false → m.payload = [] → c.preempting = none →
      let cause : Byte := if owesPower s m.ctx.toNat then 0xBC else 0xBE
      ∃ t c' x, exec (.abort m) s = .next t ∧ t.outbox = s.outbox ++ [x, responseTo m 0 0 []] ∧ x.opc = 0xFF ∧ x.payload.head? = some cause ∧
        t.ctx? m.ctx.toNat = some c' ∧ c'.reported = some cause ∧ c'.freeing = true ∧ t.mem = s.mem ∧
        ∀ k g, t.group? k = some g → g.ctx = m.ctx.toNat → g.glint = none → g.stopped = true)
    ∧ (Received s m 0x09 true → m.payload.length = 8 → field m 4 4 ≤ 65536 →
      let space := s.querySpace
      let base := space.length - 208
      ∃ t bs, exec (.query m) s = .next t ∧ t = { answered s m 0 0 bs with tick := s.tick + 1, counters := t.counters } ∧ bs.length = field m 4 4 ∧
        (∀ i < field m 4 4, field m 0 4 + i < space.length → byteAt bs i = byteAt space (field m 0 4 + i)) ∧
        (m.flags.getLsbD 0 = false → t.counters = s.counters) ∧
        (m.flags.getLsbD 0 = true → ∀ die < 4, ∀ n < 13, let b := base + 4 * (13 * die + n)
          smGet 0 t.counters (die * 16 + n) =
            if 0 < field m 4 4 ∧ b < field m 0 4 + field m 4 4 ∧ field m 0 4 < b + 4 then 0 else smGet 0 s.counters (die * 16 + n)))
    ∧ (m.ctx = 0 ∨ (∃ c, s.ctx? m.ctx.toNat = some c) → Received s m 0x0A (decide (m.ctx = 0)) → m.payload.length = 32 →
      (s.attestRefused ≠ none → ∃ t, exec (.attest m) s = .next t ∧ t = { answered s m 3 0xBA [] with lantern := t.lantern })
      ∧ (s.attestRefused = none → ∃ t p, exec (.attest m) s = .next t ∧
        t = { answered s m 0 0 p with attests := t.attests, attestRefused := t.attestRefused } ∧ p.length = 3613 ∧
        slice p 0 32 = m.payload ∧ leNat (slice p 160 4) = ((s.patchRunning.map fun b => b.version.toNat).getD 0) ∧
        leNat (slice p 164 4) = s.oneWay.toNat ∧ leNat (slice p 216 4) = ((s.patchStore.map fun b => b.version.toNat).getD 0) ∧
        (m.ctx = 0 → slice p 168 48 = List.replicate 48 0) ∧
        (t.attestRefused = some s.nanos ↔ 15 ≤ (s.attests.filter fun x => decide (s.nanos < x + 1000000000)).length)))
    ∧ (m.payload.length = 5 →
      (Received s m 0x0B true → field m 0 1 = 0 → field m 1 4 < 16 →
        ∃ t, exec (.debugPortRetrain m) s = .next t ∧ t.isUp (field m 1 4) = false ∧ (∀ n, n ≠ field m 1 4 → t.isUp n = s.isUp n) ∧
          responseTo m 0 0 [] ∈ t.outbox)
      ∧ ∀ c, s.ctx? m.ctx.toNat = some c → Received s m 0x0B false →
        (field m 0 1 = 1 → keysRise none s.groups = true →
          ∃ t n, exec (.debugInject m) s = .next t ∧ t = { answered s m 0 0 (natLe n 4) with groups := t.groups } ∧
            n = (s.groups.filter fun e => decide (e.2.ctx = m.ctx.toNat) && e.2.glint.isNone).length ∧
            ∀ k g, s.group? k = some g → t.group? k = some (if g.ctx = m.ctx.toNat ∧ g.glint = none then
              { g with imprecise := g.imprecise ++ [{ cause := 0x14, faddr := 0, origin := 0, detail := 0, committed := false }] } else g))
        ∧ (field m 1 4 = 0 →
          (field m 0 1 = 2 → exec (.debugStepOn m) s =
            .next { answered s m 0 0 [] with ctxs := alMap s.ctxs m.ctx.toNat fun c => { c with stepping := true } })
          ∧ (field m 0 1 = 3 → exec (.debugStepOff m) s =
            .next { answered s m 0 0 [] with ctxs := alMap s.ctxs m.ctx.toNat fun c => { c with stepping := false } })))
    ∧ (Received s m 0x0C true →
      let good := blobOk m.payload = true ∧ s.oneWay.toNat < field m 4 4 ∧ ((s.patchStore.map fun x => x.version.toNat).getD 0) ≤ field m 4 4
      ∃ t, exec (.patch m) s = .next t ∧
        (good → t = { answered s m 0 0 [] with patchStore := some ⟨BitVec.ofNat 32 (field m 4 4), m.payload⟩ }) ∧
        (¬good → t = { answered s m 5 0 [] with lantern := t.lantern, counters := t.counters } ∧ counted s t 0 10))
    ∧ (Received s m 0x0D true → m.payload.length = 4 → field m 0 4 ≤ 1023 → s.teams = [] → (∀ c ∈ s.ctxs, ∀ x, c.2.saved = some x → x.teams = []) →
      exec (.devno m) s = .next { answered s m 0 0 [] with devno := BitVec.ofNat 10 (field m 0 4) })
    ∧ (Received s m 0x0E true → m.payload.length = 16 → field m 12 4 = 0 → 32 ≤ field m 8 2 → field m 10 2 ≤ field m 8 2 →
      ∃ t, exec (.alwset m) s = .next t ∧ t = { answered s m 0 0 [] with allow := t.allow } ∧ ∀ core < 576, ∀ cls < 64,
        if (field m 0 8).testBit cls then
          rewrittenTo (s.allowance core cls) (t.allowance core cls) (field m 8 2) (field m 10 2) (s.outstanding core cls)
        else t.allowance core cls = s.allowance core cls)
    ∧ (s.booted = true → m.opc = 0 ∨ 0x0E < m.opc.toNat → exec (.unknownOpc m) s = .next (answered s m 1 0 []))
end

