-- ==== Sys2Proof/Laws/SMap.lean ====
section
/-! SUPPORT. Laws of sparse maps, keyed lists and memory: a read after a write, and the canonical form. -/

namespace Sys2Proof.Machine

/-! ### Keys rise -/

theorem keysRise_weaken {α : Type} {i j : Nat} {m : List (Nat × α)} (hij : i ≤ j) (h : keysRise (some j) m = true) :
    keysRise (some i) m = true := by
  cases m with
  | nil => rfl
  | cons e r =>
    obtain ⟨k, v⟩ := e
    simp only [keysRise, Bool.and_eq_true, decide_eq_true_eq] at h ⊢
    exact ⟨by omega, h.2⟩

theorem keysRise_none_of_some {α : Type} {i : Nat} {m : List (Nat × α)} (h : keysRise (some i) m = true) :
    keysRise none m = true := by
  cases m with
  | nil => rfl
  | cons e r =>
    obtain ⟨k, v⟩ := e
    simp only [keysRise, Bool.and_eq_true] at h ⊢
    exact h.2

/-- Above a bound that is below every key, nothing is listed. -/
theorem smGet_of_keysRise {α : Type} (d : α) {i k : Nat} {m : SMap α} (h : keysRise (some i) m = true) (hk : k ≤ i) :
    smGet d m k = d := by
  induction m generalizing i with
  | nil => rfl
  | cons e r ih =>
    obtain ⟨j, v⟩ := e
    simp only [keysRise, Bool.and_eq_true, decide_eq_true_eq] at h
    rw [smGet, if_neg (by omega)]
    exact ih h.2 (by omega)

/-! ### Reads after writes -/

theorem smGet_smIns_same {α : Type} (d : α) (m : SMap α) (k : Nat) (v : α) : smGet d (smIns m k v) k = v := by
  induction m with
  | nil => simp [smIns, smGet]
  | cons e r ih =>
    obtain ⟨j, u⟩ := e
    simp only [smIns]
    split
    · simp [smGet]
    · rename_i h1
      split
      · simp [smGet]
      · rw [smGet, if_neg h1, ih]

theorem smGet_smIns_other {α : Type} (d : α) (m : SMap α) {k a : Nat} (v : α) (h : a ≠ k) :
    smGet d (smIns m k v) a = smGet d m a := by
  induction m with
  | nil => simp [smIns, smGet, Ne.symm h]
  | cons e r ih =>
    obtain ⟨j, u⟩ := e
    simp only [smIns]
    split
    · subst j
      simp [smGet, Ne.symm h]
    · split
      · simp only [smGet, if_neg (Ne.symm h)]
      · simp only [smGet, ih]

theorem smGet_smDel_other {α : Type} (d : α) (m : SMap α) {k a : Nat} (h : a ≠ k) : smGet d (smDel m k) a = smGet d m a := by
  induction m with
  | nil => rfl
  | cons e r ih =>
    obtain ⟨j, u⟩ := e
    simp only [smDel, List.filter_cons] at ih ⊢
    split
    · simp only [smGet, ih]
    · rename_i hj
      have hj : j = k := by simpa using hj
      rw [ih, smGet, if_neg (by omega)]

theorem smGet_smDel_same {α : Type} (d : α) (m : SMap α) (k : Nat) : smGet d (smDel m k) k = d := by
  induction m with
  | nil => rfl
  | cons e r ih =>
    obtain ⟨j, u⟩ := e
    simp only [smDel, List.filter_cons] at ih ⊢
    split
    · rename_i hj
      have hj : j ≠ k := by simpa using hj
      rw [smGet, if_neg hj, ih]
    · exact ih

theorem smGet_smPut_other {α : Type} [DecidableEq α] (d : α) (m : SMap α) {k a : Nat} (v : α) (h : a ≠ k) :
    smGet d (smPut d m k v) a = smGet d m a := by
  unfold smPut
  split
  · exact smGet_smDel_other d m h
  · exact smGet_smIns_other d m v h

/-- A read after a write gives the value written, whatever the map. -/
theorem smGet_smPut_same {α : Type} [DecidableEq α] (d : α) (m : SMap α) (k : Nat) (v : α) : smGet d (smPut d m k v) k = v := by
  unfold smPut
  split
  · rename_i hv
    rw [hv, smGet_smDel_same]
  · exact smGet_smIns_same d m k v

/-! ### The canonical form -/

theorem keysRise_smIns {α : Type} {m : SMap α} {b : Option Nat} {k : Nat} {v : α} (h : keysRise b m = true)
    (hb : ∀ i, b = some i → i < k) : keysRise b (smIns m k v) = true := by
  induction m generalizing b with
  | nil =>
    cases b with
    | none => rfl
    | some i => simp [smIns, keysRise, hb i rfl]
  | cons e r ih =>
    obtain ⟨j, u⟩ := e
    have hr : keysRise (some j) r = true := by
      cases b with
      | none => exact h
      | some i =>
        simp only [keysRise, Bool.and_eq_true] at h
        exact h.2
    have hj : ∀ i, b = some i → i < j := by
      intro i hi
      subst hi
      simp only [keysRise, Bool.and_eq_true, decide_eq_true_eq] at h
      exact h.1
    simp only [smIns]
    split
    · rename_i hjk
      subst hjk
      cases b with
      | none => exact hr
      | some i => simp [keysRise, hj i rfl, hr]
    · split
      · rename_i hkj
        cases b with
        | none => simp [keysRise, hkj, hr]
        | some i => simp [keysRise, hb i rfl, hkj, hr]
      · have := ih (b := some j) hr (by intro i hi; cases hi; omega)
        cases b with
        | none => exact this
        | some i => simp [keysRise, hj i rfl, this]

theorem all_smIns {α : Type} (p : Nat × α → Bool) {m : SMap α} (k : Nat) {v : α} (h : m.all p = true) (hv : p (k, v) = true) :
    (smIns m k v).all p = true := by
  induction m with
  | nil => simp [smIns, hv]
  | cons e r ih =>
    obtain ⟨j, u⟩ := e
    simp only [List.all_cons, Bool.and_eq_true] at h
    simp only [smIns]
    split
    · simp [hv, h.2]
    · split
      · simp [hv, h.1, h.2]
      · simp [h.1, ih h.2]

theorem keysRise_filter {α : Type} (p : Nat × α → Bool) {m : SMap α} {b : Option Nat} (h : keysRise b m = true) :
    keysRise b (m.filter p) = true := by
  induction m generalizing b with
  | nil => exact h
  | cons e r ih =>
    obtain ⟨j, u⟩ := e
    have hr : keysRise (some j) r = true := by
      cases b with
      | none => exact h
      | some i =>
        simp only [keysRise, Bool.and_eq_true] at h
        exact h.2
    simp only [List.filter]
    split
    · cases b with
      | none => exact ih hr
      | some i =>
        simp only [keysRise, Bool.and_eq_true, decide_eq_true_eq] at h ⊢
        exact ⟨h.1, ih hr⟩
    · cases b with
      | none => exact keysRise_none_of_some (ih hr)
      | some i =>
        simp only [keysRise, Bool.and_eq_true, decide_eq_true_eq] at h
        exact keysRise_weaken (Nat.le_of_lt h.1) (ih hr)

theorem keysRise_smDel {α : Type} {m : SMap α} {b : Option Nat} (k : Nat) (h : keysRise b m = true) : keysRise b (smDel m k) = true :=
  keysRise_filter _ h

theorem all_smDel {α : Type} (p : Nat × α → Bool) {m : SMap α} (k : Nat) (h : m.all p = true) : (smDel m k).all p = true := by
  rw [List.all_eq_true] at h ⊢
  intro e he
  exact h e (List.mem_filter.mp he).1

theorem smWf_smPut {α : Type} [DecidableEq α] (d : α) {m : SMap α} (k : Nat) (v : α) (h : smWf d m = true) :
    smWf d (smPut d m k v) = true := by
  simp only [smWf, Bool.and_eq_true] at h ⊢
  unfold smPut
  split
  · exact ⟨keysRise_smDel k h.1, all_smDel _ k h.2⟩
  · rename_i hv
    exact ⟨keysRise_smIns h.1 (by intro i hi; cases hi), all_smIns _ k h.2 (by simpa using hv)⟩

theorem smWf_smDel {α : Type} [DecidableEq α] (d : α) {m : SMap α} (k : Nat) (h : smWf d m = true) : smWf d (smDel m k) = true := by
  simp only [smWf, Bool.and_eq_true] at h ⊢
  exact ⟨keysRise_smDel k h.1, all_smDel _ k h.2⟩

theorem smWf_filter {α : Type} [DecidableEq α] (d : α) (p : Nat × α → Bool) {m : SMap α} (h : smWf d m = true) :
    smWf d (m.filter p) = true := by
  simp only [smWf, Bool.and_eq_true] at h ⊢
  refine ⟨keysRise_filter p h.1, ?_⟩
  rw [List.all_eq_true] at h ⊢
  intro e he
  exact h.2 e (List.mem_filter.mp he).1

/-! ### Memory -/

theorem memGet_memPut_same (m : Memory) (a : Nat) (b : Byte) : memGet (memPut m a b) a = b := smGet_smPut_same 0 m a b

theorem memGet_memPut_other (m : Memory) {a c : Nat} (b : Byte) (h : c ≠ a) : memGet (memPut m a b) c = memGet m c :=
  smGet_smPut_other 0 m b h

theorem memPut_wf {m : Memory} (a : Nat) (b : Byte) (h : m.wf = true) : (memPut m a b).wf = true := smWf_smPut 0 a b h

theorem memPuts_wf {m : Memory} (a : Nat) (bs : List Byte) (h : m.wf = true) : (memPuts m a bs).wf = true := by
  induction bs generalizing m a with
  | nil => exact h
  | cons b r ih => exact ih (a + 1) (memPut_wf a b h)

theorem memClear_wf {m : Memory} (a b : Nat) (h : m.wf = true) : (memClear m a b).wf = true := smWf_filter 0 _ h

/-- A write leaves every byte outside it alone. -/
theorem memGet_memPuts_other (m : Memory) (a : Nat) (bs : List Byte) {c : Nat} (h : c < a ∨ a + bs.length ≤ c) :
    memGet (memPuts m a bs) c = memGet m c := by
  induction bs generalizing m a with
  | nil => rfl
  | cons b r ih =>
    simp only [List.length_cons] at h
    rw [memPuts, ih _ _ (by omega), memGet_memPut_other _ _ (by omega)]

/-- A read after a write gives the bytes written. -/
theorem memGet_memPuts_same (m : Memory) (a : Nat) (bs : List Byte) {i : Nat} (hi : i < bs.length) :
    memGet (memPuts m a bs) (a + i) = bs[i] := by
  induction bs generalizing m a i with
  | nil => simp at hi
  | cons b r ih =>
    rw [memPuts]
    cases i with
    | zero =>
      rw [memGet_memPuts_other _ _ _ (by omega)]
      exact memGet_memPut_same m a b
    | succ n =>
      have : a + (n + 1) = a + 1 + n := by omega
      rw [this, ih _ (a + 1) (by simpa using hi)]
      rfl

/-- Two reads of the same bytes of memories that agree there. -/
theorem memGets_congr {m m' : Memory} (a n : Nat) (h : ∀ i, i < n → memGet m (a + i) = memGet m' (a + i)) :
    memGets m a n = memGets m' a n := by
  induction n generalizing a with
  | zero => rfl
  | succ n ih =>
    rw [memGets, memGets, ih (a + 1)]
    · rw [show memGet m a = memGet m' a from h 0 (by omega)]
    · intro i hi
      have := h (i + 1) (by omega)
      rwa [show a + (i + 1) = a + 1 + i from by omega] at this

/-! ### Keyed lists -/

theorem alGet_alMap_same {α : Type} (l : List (Nat × α)) (k : Nat) (f : α → α) : alGet (alMap l k f) k = (alGet l k).map f := by
  induction l with
  | nil => rfl
  | cons e r ih =>
    obtain ⟨j, v⟩ := e
    simp only [alMap, alGet]
    split
    · rename_i h
      simp [alGet, h]
    · rename_i h
      simp [alGet, h, ih]

theorem alGet_alMap_other {α : Type} (l : List (Nat × α)) {k a : Nat} (f : α → α) (h : a ≠ k) : alGet (alMap l k f) a = alGet l a := by
  induction l with
  | nil => rfl
  | cons e r ih =>
    obtain ⟨j, v⟩ := e
    simp only [alMap, alGet]
    split
    · rename_i hj
      subst hj
      simp [alGet, Ne.symm h]
    · simp only [alGet, ih]

theorem alGet_smIns_same {α : Type} (l : List (Nat × α)) (k : Nat) (v : α) : alGet (smIns l k v) k = some v := by
  induction l with
  | nil => simp [smIns, alGet]
  | cons e r ih =>
    obtain ⟨j, u⟩ := e
    simp only [smIns]
    split
    · simp [alGet]
    · rename_i h1
      split
      · simp [alGet]
      · rw [alGet, if_neg h1, ih]

theorem alGet_smIns_other {α : Type} (l : List (Nat × α)) {k a : Nat} (v : α) (h : a ≠ k) : alGet (smIns l k v) a = alGet l a := by
  induction l with
  | nil => simp [smIns, alGet, Ne.symm h]
  | cons e r ih =>
    obtain ⟨j, u⟩ := e
    simp only [smIns]
    split
    · subst j
      simp [alGet, Ne.symm h]
    · split
      · simp only [alGet, if_neg (Ne.symm h)]
      · simp only [alGet, ih]

theorem alGet_smDel_other {α : Type} (l : List (Nat × α)) {k a : Nat} (h : a ≠ k) : alGet (smDel l k) a = alGet l a := by
  induction l with
  | nil => rfl
  | cons e r ih =>
    obtain ⟨j, u⟩ := e
    simp only [smDel, List.filter_cons] at ih ⊢
    split
    · simp only [alGet, ih]
    · rename_i hj
      have hj : j = k := by simpa using hj
      rw [ih, alGet, if_neg (by omega)]

end Sys2Proof.Machine
end

