-- ==== Sys2Proof/Laws/State.lean ====
section
/-! SUPPORT. Each named update of the state leaves every field but its own alone. -/

namespace Sys2Proof.Machine

/-! ### State.mapGroup -/

@[simp] theorem State.mapGroup_agenda (s : State) (k : Nat) (f : Group → Group) : (s.mapGroup k f).agenda = s.agenda := rfl
@[simp] theorem State.mapGroup_tick (s : State) (k : Nat) (f : Group → Group) : (s.mapGroup k f).tick = s.tick := rfl
@[simp] theorem State.mapGroup_focus (s : State) (k : Nat) (f : Group → Group) : (s.mapGroup k f).focus = s.focus := rfl
@[simp] theorem State.mapGroup_fresh (s : State) (k : Nat) (f : Group → Group) : (s.mapGroup k f).fresh = s.fresh := rfl
@[simp] theorem State.mapGroup_laneCut (s : State) (k : Nat) (f : Group → Group) : (s.mapGroup k f).laneCut = s.laneCut := rfl
@[simp] theorem State.mapGroup_cycles (s : State) (k : Nat) (f : Group → Group) : (s.mapGroup k f).cycles = s.cycles := rfl
@[simp] theorem State.mapGroup_nanos (s : State) (k : Nat) (f : Group → Group) : (s.mapGroup k f).nanos = s.nanos := rfl
@[simp] theorem State.mapGroup_devno (s : State) (k : Nat) (f : Group → Group) : (s.mapGroup k f).devno = s.devno := rfl
@[simp] theorem State.mapGroup_aclkMHz (s : State) (k : Nat) (f : Group → Group) : (s.mapGroup k f).aclkMHz = s.aclkMHz := rfl
@[simp] theorem State.mapGroup_aclkSince (s : State) (k : Nat) (f : Group → Group) : (s.mapGroup k f).aclkSince = s.aclkSince := rfl
@[simp] theorem State.mapGroup_stopped (s : State) (k : Nat) (f : Group → Group) : (s.mapGroup k f).stopped = s.stopped := rfl
@[simp] theorem State.mapGroup_tripped (s : State) (k : Nat) (f : Group → Group) : (s.mapGroup k f).tripped = s.tripped := rfl
@[simp] theorem State.mapGroup_booted (s : State) (k : Nat) (f : Group → Group) : (s.mapGroup k f).booted = s.booted := rfl
@[simp] theorem State.mapGroup_mem (s : State) (k : Nat) (f : Group → Group) : (s.mapGroup k f).mem = s.mem := rfl
@[simp] theorem State.mapGroup_poison (s : State) (k : Nat) (f : Group → Group) : (s.mapGroup k f).poison = s.poison := rfl
@[simp] theorem State.mapGroup_offlineSlices (s : State) (k : Nat) (f : Group → Group) : (s.mapGroup k f).offlineSlices = s.offlineSlices := rfl
@[simp] theorem State.mapGroup_offlineStacks (s : State) (k : Nat) (f : Group → Group) : (s.mapGroup k f).offlineStacks = s.offlineStacks := rfl
@[simp] theorem State.mapGroup_ptroot (s : State) (k : Nat) (f : Group → Group) : (s.mapGroup k f).ptroot = s.ptroot := rfl
@[simp] theorem State.mapGroup_tlb (s : State) (k : Nat) (f : Group → Group) : (s.mapGroup k f).tlb = s.tlb := rfl
@[simp] theorem State.mapGroup_pool (s : State) (k : Nat) (f : Group → Group) : (s.mapGroup k f).pool = s.pool := rfl
@[simp] theorem State.mapGroup_smallTables (s : State) (k : Nat) (f : Group → Group) : (s.mapGroup k f).smallTables = s.smallTables := rfl
@[simp] theorem State.mapGroup_slots (s : State) (k : Nat) (f : Group → Group) : (s.mapGroup k f).slots = s.slots := rfl
@[simp] theorem State.mapGroup_ctxs (s : State) (k : Nat) (f : Group → Group) : (s.mapGroup k f).ctxs = s.ctxs := rfl
@[simp] theorem State.mapGroup_grids (s : State) (k : Nat) (f : Group → Group) : (s.mapGroup k f).grids = s.grids := rfl
@[simp] theorem State.mapGroup_launches (s : State) (k : Nat) (f : Group → Group) : (s.mapGroup k f).launches = s.launches := rfl
@[simp] theorem State.mapGroup_teams (s : State) (k : Nat) (f : Group → Group) : (s.mapGroup k f).teams = s.teams := rfl
@[simp] theorem State.mapGroup_carve (s : State) (k : Nat) (f : Group → Group) : (s.mapGroup k f).carve = s.carve := rfl
@[simp] theorem State.mapGroup_lineState (s : State) (k : Nat) (f : Group → Group) : (s.mapGroup k f).lineState = s.lineState := rfl
@[simp] theorem State.mapGroup_l1 (s : State) (k : Nat) (f : Group → Group) : (s.mapGroup k f).l1 = s.l1 := rfl
@[simp] theorem State.mapGroup_acc (s : State) (k : Nat) (f : Group → Group) : (s.mapGroup k f).acc = s.acc := rfl
@[simp] theorem State.mapGroup_accOwner (s : State) (k : Nat) (f : Group → Group) : (s.mapGroup k f).accOwner = s.accOwner := rfl
@[simp] theorem State.mapGroup_quads (s : State) (k : Nat) (f : Group → Group) : (s.mapGroup k f).quads = s.quads := rfl
@[simp] theorem State.mapGroup_copies (s : State) (k : Nat) (f : Group → Group) : (s.mapGroup k f).copies = s.copies := rfl
@[simp] theorem State.mapGroup_bursts (s : State) (k : Nat) (f : Group → Group) : (s.mapGroup k f).bursts = s.bursts := rfl
@[simp] theorem State.mapGroup_owned (s : State) (k : Nat) (f : Group → Group) : (s.mapGroup k f).owned = s.owned := rfl
@[simp] theorem State.mapGroup_held (s : State) (k : Nat) (f : Group → Group) : (s.mapGroup k f).held = s.held := rfl
@[simp] theorem State.mapGroup_matOps (s : State) (k : Nat) (f : Group → Group) : (s.mapGroup k f).matOps = s.matOps := rfl
@[simp] theorem State.mapGroup_batchFails (s : State) (k : Nat) (f : Group → Group) : (s.mapGroup k f).batchFails = s.batchFails := rfl
@[simp] theorem State.mapGroup_batchFlags (s : State) (k : Nat) (f : Group → Group) : (s.mapGroup k f).batchFlags = s.batchFlags := rfl
@[simp] theorem State.mapGroup_sliceReqs (s : State) (k : Nat) (f : Group → Group) : (s.mapGroup k f).sliceReqs = s.sliceReqs := rfl
@[simp] theorem State.mapGroup_detBufs (s : State) (k : Nat) (f : Group → Group) : (s.mapGroup k f).detBufs = s.detBufs := rfl
@[simp] theorem State.mapGroup_detRuns (s : State) (k : Nat) (f : Group → Group) : (s.mapGroup k f).detRuns = s.detRuns := rfl
@[simp] theorem State.mapGroup_allow (s : State) (k : Nat) (f : Group → Group) : (s.mapGroup k f).allow = s.allow := rfl
@[simp] theorem State.mapGroup_waiters (s : State) (k : Nat) (f : Group → Group) : (s.mapGroup k f).waiters = s.waiters := rfl
@[simp] theorem State.mapGroup_ports (s : State) (k : Nat) (f : Group → Group) : (s.mapGroup k f).ports = s.ports := rfl
@[simp] theorem State.mapGroup_passes (s : State) (k : Nat) (f : Group → Group) : (s.mapGroup k f).passes = s.passes := rfl
@[simp] theorem State.mapGroup_pushes (s : State) (k : Nat) (f : Group → Group) : (s.mapGroup k f).pushes = s.pushes := rfl
@[simp] theorem State.mapGroup_commits (s : State) (k : Nat) (f : Group → Group) : (s.mapGroup k f).commits = s.commits := rfl
@[simp] theorem State.mapGroup_peerWaits (s : State) (k : Nat) (f : Group → Group) : (s.mapGroup k f).peerWaits = s.peerWaits := rfl
@[simp] theorem State.mapGroup_staged (s : State) (k : Nat) (f : Group → Group) : (s.mapGroup k f).staged = s.staged := rfl
@[simp] theorem State.mapGroup_keptResponses (s : State) (k : Nat) (f : Group → Group) : (s.mapGroup k f).keptResponses = s.keptResponses := rfl
@[simp] theorem State.mapGroup_visits (s : State) (k : Nat) (f : Group → Group) : (s.mapGroup k f).visits = s.visits := rfl
@[simp] theorem State.mapGroup_teamRels (s : State) (k : Nat) (f : Group → Group) : (s.mapGroup k f).teamRels = s.teamRels := rfl
@[simp] theorem State.mapGroup_metWaits (s : State) (k : Nat) (f : Group → Group) : (s.mapGroup k f).metWaits = s.metWaits := rfl
@[simp] theorem State.mapGroup_pushWaits (s : State) (k : Nat) (f : Group → Group) : (s.mapGroup k f).pushWaits = s.pushWaits := rfl
@[simp] theorem State.mapGroup_colls (s : State) (k : Nat) (f : Group → Group) : (s.mapGroup k f).colls = s.colls := rfl
@[simp] theorem State.mapGroup_collsDone (s : State) (k : Nat) (f : Group → Group) : (s.mapGroup k f).collsDone = s.collsDone := rfl
@[simp] theorem State.mapGroup_wire (s : State) (k : Nat) (f : Group → Group) : (s.mapGroup k f).wire = s.wire := rfl
@[simp] theorem State.mapGroup_mirrorReqs (s : State) (k : Nat) (f : Group → Group) : (s.mapGroup k f).mirrorReqs = s.mirrorReqs := rfl
@[simp] theorem State.mapGroup_prismFull (s : State) (k : Nat) (f : Group → Group) : (s.mapGroup k f).prismFull = s.prismFull := rfl
@[simp] theorem State.mapGroup_prismUnreachable (s : State) (k : Nat) (f : Group → Group) : (s.mapGroup k f).prismUnreachable = s.prismUnreachable := rfl
@[simp] theorem State.mapGroup_outbox (s : State) (k : Nat) (f : Group → Group) : (s.mapGroup k f).outbox = s.outbox := rfl
@[simp] theorem State.mapGroup_lantern (s : State) (k : Nat) (f : Group → Group) : (s.mapGroup k f).lantern = s.lantern := rfl
@[simp] theorem State.mapGroup_counters (s : State) (k : Nat) (f : Group → Group) : (s.mapGroup k f).counters = s.counters := rfl
@[simp] theorem State.mapGroup_attests (s : State) (k : Nat) (f : Group → Group) : (s.mapGroup k f).attests = s.attests := rfl
@[simp] theorem State.mapGroup_attestRefused (s : State) (k : Nat) (f : Group → Group) : (s.mapGroup k f).attestRefused = s.attestRefused := rfl
@[simp] theorem State.mapGroup_patchStore (s : State) (k : Nat) (f : Group → Group) : (s.mapGroup k f).patchStore = s.patchStore := rfl
@[simp] theorem State.mapGroup_patchRunning (s : State) (k : Nat) (f : Group → Group) : (s.mapGroup k f).patchRunning = s.patchRunning := rfl
@[simp] theorem State.mapGroup_oneWay (s : State) (k : Nat) (f : Group → Group) : (s.mapGroup k f).oneWay = s.oneWay := rfl

/-! ### State.putGroup -/

@[simp] theorem State.putGroup_agenda (s : State) (k : Nat) (g : Group) : (s.putGroup k g).agenda = s.agenda := rfl
@[simp] theorem State.putGroup_tick (s : State) (k : Nat) (g : Group) : (s.putGroup k g).tick = s.tick := rfl
@[simp] theorem State.putGroup_focus (s : State) (k : Nat) (g : Group) : (s.putGroup k g).focus = s.focus := rfl
@[simp] theorem State.putGroup_fresh (s : State) (k : Nat) (g : Group) : (s.putGroup k g).fresh = s.fresh := rfl
@[simp] theorem State.putGroup_laneCut (s : State) (k : Nat) (g : Group) : (s.putGroup k g).laneCut = s.laneCut := rfl
@[simp] theorem State.putGroup_cycles (s : State) (k : Nat) (g : Group) : (s.putGroup k g).cycles = s.cycles := rfl
@[simp] theorem State.putGroup_nanos (s : State) (k : Nat) (g : Group) : (s.putGroup k g).nanos = s.nanos := rfl
@[simp] theorem State.putGroup_devno (s : State) (k : Nat) (g : Group) : (s.putGroup k g).devno = s.devno := rfl
@[simp] theorem State.putGroup_aclkMHz (s : State) (k : Nat) (g : Group) : (s.putGroup k g).aclkMHz = s.aclkMHz := rfl
@[simp] theorem State.putGroup_aclkSince (s : State) (k : Nat) (g : Group) : (s.putGroup k g).aclkSince = s.aclkSince := rfl
@[simp] theorem State.putGroup_stopped (s : State) (k : Nat) (g : Group) : (s.putGroup k g).stopped = s.stopped := rfl
@[simp] theorem State.putGroup_tripped (s : State) (k : Nat) (g : Group) : (s.putGroup k g).tripped = s.tripped := rfl
@[simp] theorem State.putGroup_booted (s : State) (k : Nat) (g : Group) : (s.putGroup k g).booted = s.booted := rfl
@[simp] theorem State.putGroup_mem (s : State) (k : Nat) (g : Group) : (s.putGroup k g).mem = s.mem := rfl
@[simp] theorem State.putGroup_poison (s : State) (k : Nat) (g : Group) : (s.putGroup k g).poison = s.poison := rfl
@[simp] theorem State.putGroup_offlineSlices (s : State) (k : Nat) (g : Group) : (s.putGroup k g).offlineSlices = s.offlineSlices := rfl
@[simp] theorem State.putGroup_offlineStacks (s : State) (k : Nat) (g : Group) : (s.putGroup k g).offlineStacks = s.offlineStacks := rfl
@[simp] theorem State.putGroup_ptroot (s : State) (k : Nat) (g : Group) : (s.putGroup k g).ptroot = s.ptroot := rfl
@[simp] theorem State.putGroup_tlb (s : State) (k : Nat) (g : Group) : (s.putGroup k g).tlb = s.tlb := rfl
@[simp] theorem State.putGroup_pool (s : State) (k : Nat) (g : Group) : (s.putGroup k g).pool = s.pool := rfl
@[simp] theorem State.putGroup_smallTables (s : State) (k : Nat) (g : Group) : (s.putGroup k g).smallTables = s.smallTables := rfl
@[simp] theorem State.putGroup_slots (s : State) (k : Nat) (g : Group) : (s.putGroup k g).slots = s.slots := rfl
@[simp] theorem State.putGroup_ctxs (s : State) (k : Nat) (g : Group) : (s.putGroup k g).ctxs = s.ctxs := rfl
@[simp] theorem State.putGroup_grids (s : State) (k : Nat) (g : Group) : (s.putGroup k g).grids = s.grids := rfl
@[simp] theorem State.putGroup_launches (s : State) (k : Nat) (g : Group) : (s.putGroup k g).launches = s.launches := rfl
@[simp] theorem State.putGroup_teams (s : State) (k : Nat) (g : Group) : (s.putGroup k g).teams = s.teams := rfl
@[simp] theorem State.putGroup_carve (s : State) (k : Nat) (g : Group) : (s.putGroup k g).carve = s.carve := rfl
@[simp] theorem State.putGroup_lineState (s : State) (k : Nat) (g : Group) : (s.putGroup k g).lineState = s.lineState := rfl
@[simp] theorem State.putGroup_l1 (s : State) (k : Nat) (g : Group) : (s.putGroup k g).l1 = s.l1 := rfl
@[simp] theorem State.putGroup_acc (s : State) (k : Nat) (g : Group) : (s.putGroup k g).acc = s.acc := rfl
@[simp] theorem State.putGroup_accOwner (s : State) (k : Nat) (g : Group) : (s.putGroup k g).accOwner = s.accOwner := rfl
@[simp] theorem State.putGroup_quads (s : State) (k : Nat) (g : Group) : (s.putGroup k g).quads = s.quads := rfl
@[simp] theorem State.putGroup_copies (s : State) (k : Nat) (g : Group) : (s.putGroup k g).copies = s.copies := rfl
@[simp] theorem State.putGroup_bursts (s : State) (k : Nat) (g : Group) : (s.putGroup k g).bursts = s.bursts := rfl
@[simp] theorem State.putGroup_owned (s : State) (k : Nat) (g : Group) : (s.putGroup k g).owned = s.owned := rfl
@[simp] theorem State.putGroup_held (s : State) (k : Nat) (g : Group) : (s.putGroup k g).held = s.held := rfl
@[simp] theorem State.putGroup_matOps (s : State) (k : Nat) (g : Group) : (s.putGroup k g).matOps = s.matOps := rfl
@[simp] theorem State.putGroup_batchFails (s : State) (k : Nat) (g : Group) : (s.putGroup k g).batchFails = s.batchFails := rfl
@[simp] theorem State.putGroup_batchFlags (s : State) (k : Nat) (g : Group) : (s.putGroup k g).batchFlags = s.batchFlags := rfl
@[simp] theorem State.putGroup_sliceReqs (s : State) (k : Nat) (g : Group) : (s.putGroup k g).sliceReqs = s.sliceReqs := rfl
@[simp] theorem State.putGroup_detBufs (s : State) (k : Nat) (g : Group) : (s.putGroup k g).detBufs = s.detBufs := rfl
@[simp] theorem State.putGroup_detRuns (s : State) (k : Nat) (g : Group) : (s.putGroup k g).detRuns = s.detRuns := rfl
@[simp] theorem State.putGroup_allow (s : State) (k : Nat) (g : Group) : (s.putGroup k g).allow = s.allow := rfl
@[simp] theorem State.putGroup_waiters (s : State) (k : Nat) (g : Group) : (s.putGroup k g).waiters = s.waiters := rfl
@[simp] theorem State.putGroup_ports (s : State) (k : Nat) (g : Group) : (s.putGroup k g).ports = s.ports := rfl
@[simp] theorem State.putGroup_passes (s : State) (k : Nat) (g : Group) : (s.putGroup k g).passes = s.passes := rfl
@[simp] theorem State.putGroup_pushes (s : State) (k : Nat) (g : Group) : (s.putGroup k g).pushes = s.pushes := rfl
@[simp] theorem State.putGroup_commits (s : State) (k : Nat) (g : Group) : (s.putGroup k g).commits = s.commits := rfl
@[simp] theorem State.putGroup_peerWaits (s : State) (k : Nat) (g : Group) : (s.putGroup k g).peerWaits = s.peerWaits := rfl
@[simp] theorem State.putGroup_staged (s : State) (k : Nat) (g : Group) : (s.putGroup k g).staged = s.staged := rfl
@[simp] theorem State.putGroup_keptResponses (s : State) (k : Nat) (g : Group) : (s.putGroup k g).keptResponses = s.keptResponses := rfl
@[simp] theorem State.putGroup_visits (s : State) (k : Nat) (g : Group) : (s.putGroup k g).visits = s.visits := rfl
@[simp] theorem State.putGroup_teamRels (s : State) (k : Nat) (g : Group) : (s.putGroup k g).teamRels = s.teamRels := rfl
@[simp] theorem State.putGroup_metWaits (s : State) (k : Nat) (g : Group) : (s.putGroup k g).metWaits = s.metWaits := rfl
@[simp] theorem State.putGroup_pushWaits (s : State) (k : Nat) (g : Group) : (s.putGroup k g).pushWaits = s.pushWaits := rfl
@[simp] theorem State.putGroup_colls (s : State) (k : Nat) (g : Group) : (s.putGroup k g).colls = s.colls := rfl
@[simp] theorem State.putGroup_collsDone (s : State) (k : Nat) (g : Group) : (s.putGroup k g).collsDone = s.collsDone := rfl
@[simp] theorem State.putGroup_wire (s : State) (k : Nat) (g : Group) : (s.putGroup k g).wire = s.wire := rfl
@[simp] theorem State.putGroup_mirrorReqs (s : State) (k : Nat) (g : Group) : (s.putGroup k g).mirrorReqs = s.mirrorReqs := rfl
@[simp] theorem State.putGroup_prismFull (s : State) (k : Nat) (g : Group) : (s.putGroup k g).prismFull = s.prismFull := rfl
@[simp] theorem State.putGroup_prismUnreachable (s : State) (k : Nat) (g : Group) : (s.putGroup k g).prismUnreachable = s.prismUnreachable := rfl
@[simp] theorem State.putGroup_outbox (s : State) (k : Nat) (g : Group) : (s.putGroup k g).outbox = s.outbox := rfl
@[simp] theorem State.putGroup_lantern (s : State) (k : Nat) (g : Group) : (s.putGroup k g).lantern = s.lantern := rfl
@[simp] theorem State.putGroup_counters (s : State) (k : Nat) (g : Group) : (s.putGroup k g).counters = s.counters := rfl
@[simp] theorem State.putGroup_attests (s : State) (k : Nat) (g : Group) : (s.putGroup k g).attests = s.attests := rfl
@[simp] theorem State.putGroup_attestRefused (s : State) (k : Nat) (g : Group) : (s.putGroup k g).attestRefused = s.attestRefused := rfl
@[simp] theorem State.putGroup_patchStore (s : State) (k : Nat) (g : Group) : (s.putGroup k g).patchStore = s.patchStore := rfl
@[simp] theorem State.putGroup_patchRunning (s : State) (k : Nat) (g : Group) : (s.putGroup k g).patchRunning = s.patchRunning := rfl
@[simp] theorem State.putGroup_oneWay (s : State) (k : Nat) (g : Group) : (s.putGroup k g).oneWay = s.oneWay := rfl

/-! ### State.delGroup -/

@[simp] theorem State.delGroup_agenda (s : State) (k : Nat) : (s.delGroup k).agenda = s.agenda := rfl
@[simp] theorem State.delGroup_tick (s : State) (k : Nat) : (s.delGroup k).tick = s.tick := rfl
@[simp] theorem State.delGroup_focus (s : State) (k : Nat) : (s.delGroup k).focus = s.focus := rfl
@[simp] theorem State.delGroup_fresh (s : State) (k : Nat) : (s.delGroup k).fresh = s.fresh := rfl
@[simp] theorem State.delGroup_laneCut (s : State) (k : Nat) : (s.delGroup k).laneCut = s.laneCut := rfl
@[simp] theorem State.delGroup_cycles (s : State) (k : Nat) : (s.delGroup k).cycles = s.cycles := rfl
@[simp] theorem State.delGroup_nanos (s : State) (k : Nat) : (s.delGroup k).nanos = s.nanos := rfl
@[simp] theorem State.delGroup_devno (s : State) (k : Nat) : (s.delGroup k).devno = s.devno := rfl
@[simp] theorem State.delGroup_aclkMHz (s : State) (k : Nat) : (s.delGroup k).aclkMHz = s.aclkMHz := rfl
@[simp] theorem State.delGroup_aclkSince (s : State) (k : Nat) : (s.delGroup k).aclkSince = s.aclkSince := rfl
@[simp] theorem State.delGroup_stopped (s : State) (k : Nat) : (s.delGroup k).stopped = s.stopped := rfl
@[simp] theorem State.delGroup_tripped (s : State) (k : Nat) : (s.delGroup k).tripped = s.tripped := rfl
@[simp] theorem State.delGroup_booted (s : State) (k : Nat) : (s.delGroup k).booted = s.booted := rfl
@[simp] theorem State.delGroup_mem (s : State) (k : Nat) : (s.delGroup k).mem = s.mem := rfl
@[simp] theorem State.delGroup_poison (s : State) (k : Nat) : (s.delGroup k).poison = s.poison := rfl
@[simp] theorem State.delGroup_offlineSlices (s : State) (k : Nat) : (s.delGroup k).offlineSlices = s.offlineSlices := rfl
@[simp] theorem State.delGroup_offlineStacks (s : State) (k : Nat) : (s.delGroup k).offlineStacks = s.offlineStacks := rfl
@[simp] theorem State.delGroup_ptroot (s : State) (k : Nat) : (s.delGroup k).ptroot = s.ptroot := rfl
@[simp] theorem State.delGroup_tlb (s : State) (k : Nat) : (s.delGroup k).tlb = s.tlb := rfl
@[simp] theorem State.delGroup_pool (s : State) (k : Nat) : (s.delGroup k).pool = s.pool := rfl
@[simp] theorem State.delGroup_smallTables (s : State) (k : Nat) : (s.delGroup k).smallTables = s.smallTables := rfl
@[simp] theorem State.delGroup_slots (s : State) (k : Nat) : (s.delGroup k).slots = s.slots := rfl
@[simp] theorem State.delGroup_ctxs (s : State) (k : Nat) : (s.delGroup k).ctxs = s.ctxs := rfl
@[simp] theorem State.delGroup_grids (s : State) (k : Nat) : (s.delGroup k).grids = s.grids := rfl
@[simp] theorem State.delGroup_launches (s : State) (k : Nat) : (s.delGroup k).launches = s.launches := rfl
@[simp] theorem State.delGroup_teams (s : State) (k : Nat) : (s.delGroup k).teams = s.teams := rfl
@[simp] theorem State.delGroup_carve (s : State) (k : Nat) : (s.delGroup k).carve = s.carve := rfl
@[simp] theorem State.delGroup_lineState (s : State) (k : Nat) : (s.delGroup k).lineState = s.lineState := rfl
@[simp] theorem State.delGroup_l1 (s : State) (k : Nat) : (s.delGroup k).l1 = s.l1 := rfl
@[simp] theorem State.delGroup_acc (s : State) (k : Nat) : (s.delGroup k).acc = s.acc := rfl
@[simp] theorem State.delGroup_accOwner (s : State) (k : Nat) : (s.delGroup k).accOwner = s.accOwner := rfl
@[simp] theorem State.delGroup_quads (s : State) (k : Nat) : (s.delGroup k).quads = s.quads := rfl
@[simp] theorem State.delGroup_copies (s : State) (k : Nat) : (s.delGroup k).copies = s.copies := rfl
@[simp] theorem State.delGroup_bursts (s : State) (k : Nat) : (s.delGroup k).bursts = s.bursts := rfl
@[simp] theorem State.delGroup_owned (s : State) (k : Nat) : (s.delGroup k).owned = s.owned := rfl
@[simp] theorem State.delGroup_held (s : State) (k : Nat) : (s.delGroup k).held = s.held := rfl
@[simp] theorem State.delGroup_matOps (s : State) (k : Nat) : (s.delGroup k).matOps = s.matOps := rfl
@[simp] theorem State.delGroup_batchFails (s : State) (k : Nat) : (s.delGroup k).batchFails = s.batchFails := rfl
@[simp] theorem State.delGroup_batchFlags (s : State) (k : Nat) : (s.delGroup k).batchFlags = s.batchFlags := rfl
@[simp] theorem State.delGroup_sliceReqs (s : State) (k : Nat) : (s.delGroup k).sliceReqs = s.sliceReqs := rfl
@[simp] theorem State.delGroup_detBufs (s : State) (k : Nat) : (s.delGroup k).detBufs = s.detBufs := rfl
@[simp] theorem State.delGroup_detRuns (s : State) (k : Nat) : (s.delGroup k).detRuns = s.detRuns := rfl
@[simp] theorem State.delGroup_allow (s : State) (k : Nat) : (s.delGroup k).allow = s.allow := rfl
@[simp] theorem State.delGroup_waiters (s : State) (k : Nat) : (s.delGroup k).waiters = s.waiters := rfl
@[simp] theorem State.delGroup_ports (s : State) (k : Nat) : (s.delGroup k).ports = s.ports := rfl
@[simp] theorem State.delGroup_passes (s : State) (k : Nat) : (s.delGroup k).passes = s.passes := rfl
@[simp] theorem State.delGroup_pushes (s : State) (k : Nat) : (s.delGroup k).pushes = s.pushes := rfl
@[simp] theorem State.delGroup_commits (s : State) (k : Nat) : (s.delGroup k).commits = s.commits := rfl
@[simp] theorem State.delGroup_peerWaits (s : State) (k : Nat) : (s.delGroup k).peerWaits = s.peerWaits := rfl
@[simp] theorem State.delGroup_staged (s : State) (k : Nat) : (s.delGroup k).staged = s.staged := rfl
@[simp] theorem State.delGroup_keptResponses (s : State) (k : Nat) : (s.delGroup k).keptResponses = s.keptResponses := rfl
@[simp] theorem State.delGroup_visits (s : State) (k : Nat) : (s.delGroup k).visits = s.visits := rfl
@[simp] theorem State.delGroup_teamRels (s : State) (k : Nat) : (s.delGroup k).teamRels = s.teamRels := rfl
@[simp] theorem State.delGroup_metWaits (s : State) (k : Nat) : (s.delGroup k).metWaits = s.metWaits := rfl
@[simp] theorem State.delGroup_pushWaits (s : State) (k : Nat) : (s.delGroup k).pushWaits = s.pushWaits := rfl
@[simp] theorem State.delGroup_colls (s : State) (k : Nat) : (s.delGroup k).colls = s.colls := rfl
@[simp] theorem State.delGroup_collsDone (s : State) (k : Nat) : (s.delGroup k).collsDone = s.collsDone := rfl
@[simp] theorem State.delGroup_wire (s : State) (k : Nat) : (s.delGroup k).wire = s.wire := rfl
@[simp] theorem State.delGroup_mirrorReqs (s : State) (k : Nat) : (s.delGroup k).mirrorReqs = s.mirrorReqs := rfl
@[simp] theorem State.delGroup_prismFull (s : State) (k : Nat) : (s.delGroup k).prismFull = s.prismFull := rfl
@[simp] theorem State.delGroup_prismUnreachable (s : State) (k : Nat) : (s.delGroup k).prismUnreachable = s.prismUnreachable := rfl
@[simp] theorem State.delGroup_outbox (s : State) (k : Nat) : (s.delGroup k).outbox = s.outbox := rfl
@[simp] theorem State.delGroup_lantern (s : State) (k : Nat) : (s.delGroup k).lantern = s.lantern := rfl
@[simp] theorem State.delGroup_counters (s : State) (k : Nat) : (s.delGroup k).counters = s.counters := rfl
@[simp] theorem State.delGroup_attests (s : State) (k : Nat) : (s.delGroup k).attests = s.attests := rfl
@[simp] theorem State.delGroup_attestRefused (s : State) (k : Nat) : (s.delGroup k).attestRefused = s.attestRefused := rfl
@[simp] theorem State.delGroup_patchStore (s : State) (k : Nat) : (s.delGroup k).patchStore = s.patchStore := rfl
@[simp] theorem State.delGroup_patchRunning (s : State) (k : Nat) : (s.delGroup k).patchRunning = s.patchRunning := rfl
@[simp] theorem State.delGroup_oneWay (s : State) (k : Nat) : (s.delGroup k).oneWay = s.oneWay := rfl

/-! ### State.mapSplit -/

@[simp] theorem State.mapSplit_agenda (s : State) (k slot : Nat) (f : Split → Split) : (s.mapSplit k slot f).agenda = s.agenda := rfl
@[simp] theorem State.mapSplit_tick (s : State) (k slot : Nat) (f : Split → Split) : (s.mapSplit k slot f).tick = s.tick := rfl
@[simp] theorem State.mapSplit_focus (s : State) (k slot : Nat) (f : Split → Split) : (s.mapSplit k slot f).focus = s.focus := rfl
@[simp] theorem State.mapSplit_fresh (s : State) (k slot : Nat) (f : Split → Split) : (s.mapSplit k slot f).fresh = s.fresh := rfl
@[simp] theorem State.mapSplit_laneCut (s : State) (k slot : Nat) (f : Split → Split) : (s.mapSplit k slot f).laneCut = s.laneCut := rfl
@[simp] theorem State.mapSplit_cycles (s : State) (k slot : Nat) (f : Split → Split) : (s.mapSplit k slot f).cycles = s.cycles := rfl
@[simp] theorem State.mapSplit_nanos (s : State) (k slot : Nat) (f : Split → Split) : (s.mapSplit k slot f).nanos = s.nanos := rfl
@[simp] theorem State.mapSplit_devno (s : State) (k slot : Nat) (f : Split → Split) : (s.mapSplit k slot f).devno = s.devno := rfl
@[simp] theorem State.mapSplit_aclkMHz (s : State) (k slot : Nat) (f : Split → Split) : (s.mapSplit k slot f).aclkMHz = s.aclkMHz := rfl
@[simp] theorem State.mapSplit_aclkSince (s : State) (k slot : Nat) (f : Split → Split) : (s.mapSplit k slot f).aclkSince = s.aclkSince := rfl
@[simp] theorem State.mapSplit_stopped (s : State) (k slot : Nat) (f : Split → Split) : (s.mapSplit k slot f).stopped = s.stopped := rfl
@[simp] theorem State.mapSplit_tripped (s : State) (k slot : Nat) (f : Split → Split) : (s.mapSplit k slot f).tripped = s.tripped := rfl
@[simp] theorem State.mapSplit_booted (s : State) (k slot : Nat) (f : Split → Split) : (s.mapSplit k slot f).booted = s.booted := rfl
@[simp] theorem State.mapSplit_mem (s : State) (k slot : Nat) (f : Split → Split) : (s.mapSplit k slot f).mem = s.mem := rfl
@[simp] theorem State.mapSplit_poison (s : State) (k slot : Nat) (f : Split → Split) : (s.mapSplit k slot f).poison = s.poison := rfl
@[simp] theorem State.mapSplit_offlineSlices (s : State) (k slot : Nat) (f : Split → Split) : (s.mapSplit k slot f).offlineSlices = s.offlineSlices := rfl
@[simp] theorem State.mapSplit_offlineStacks (s : State) (k slot : Nat) (f : Split → Split) : (s.mapSplit k slot f).offlineStacks = s.offlineStacks := rfl
@[simp] theorem State.mapSplit_ptroot (s : State) (k slot : Nat) (f : Split → Split) : (s.mapSplit k slot f).ptroot = s.ptroot := rfl
@[simp] theorem State.mapSplit_tlb (s : State) (k slot : Nat) (f : Split → Split) : (s.mapSplit k slot f).tlb = s.tlb := rfl
@[simp] theorem State.mapSplit_pool (s : State) (k slot : Nat) (f : Split → Split) : (s.mapSplit k slot f).pool = s.pool := rfl
@[simp] theorem State.mapSplit_smallTables (s : State) (k slot : Nat) (f : Split → Split) : (s.mapSplit k slot f).smallTables = s.smallTables := rfl
@[simp] theorem State.mapSplit_slots (s : State) (k slot : Nat) (f : Split → Split) : (s.mapSplit k slot f).slots = s.slots := rfl
@[simp] theorem State.mapSplit_ctxs (s : State) (k slot : Nat) (f : Split → Split) : (s.mapSplit k slot f).ctxs = s.ctxs := rfl
@[simp] theorem State.mapSplit_grids (s : State) (k slot : Nat) (f : Split → Split) : (s.mapSplit k slot f).grids = s.grids := rfl
@[simp] theorem State.mapSplit_launches (s : State) (k slot : Nat) (f : Split → Split) : (s.mapSplit k slot f).launches = s.launches := rfl
@[simp] theorem State.mapSplit_teams (s : State) (k slot : Nat) (f : Split → Split) : (s.mapSplit k slot f).teams = s.teams := rfl
@[simp] theorem State.mapSplit_carve (s : State) (k slot : Nat) (f : Split → Split) : (s.mapSplit k slot f).carve = s.carve := rfl
@[simp] theorem State.mapSplit_lineState (s : State) (k slot : Nat) (f : Split → Split) : (s.mapSplit k slot f).lineState = s.lineState := rfl
@[simp] theorem State.mapSplit_l1 (s : State) (k slot : Nat) (f : Split → Split) : (s.mapSplit k slot f).l1 = s.l1 := rfl
@[simp] theorem State.mapSplit_acc (s : State) (k slot : Nat) (f : Split → Split) : (s.mapSplit k slot f).acc = s.acc := rfl
@[simp] theorem State.mapSplit_accOwner (s : State) (k slot : Nat) (f : Split → Split) : (s.mapSplit k slot f).accOwner = s.accOwner := rfl
@[simp] theorem State.mapSplit_quads (s : State) (k slot : Nat) (f : Split → Split) : (s.mapSplit k slot f).quads = s.quads := rfl
@[simp] theorem State.mapSplit_copies (s : State) (k slot : Nat) (f : Split → Split) : (s.mapSplit k slot f).copies = s.copies := rfl
@[simp] theorem State.mapSplit_bursts (s : State) (k slot : Nat) (f : Split → Split) : (s.mapSplit k slot f).bursts = s.bursts := rfl
@[simp] theorem State.mapSplit_owned (s : State) (k slot : Nat) (f : Split → Split) : (s.mapSplit k slot f).owned = s.owned := rfl
@[simp] theorem State.mapSplit_held (s : State) (k slot : Nat) (f : Split → Split) : (s.mapSplit k slot f).held = s.held := rfl
@[simp] theorem State.mapSplit_matOps (s : State) (k slot : Nat) (f : Split → Split) : (s.mapSplit k slot f).matOps = s.matOps := rfl
@[simp] theorem State.mapSplit_batchFails (s : State) (k slot : Nat) (f : Split → Split) : (s.mapSplit k slot f).batchFails = s.batchFails := rfl
@[simp] theorem State.mapSplit_batchFlags (s : State) (k slot : Nat) (f : Split → Split) : (s.mapSplit k slot f).batchFlags = s.batchFlags := rfl
@[simp] theorem State.mapSplit_sliceReqs (s : State) (k slot : Nat) (f : Split → Split) : (s.mapSplit k slot f).sliceReqs = s.sliceReqs := rfl
@[simp] theorem State.mapSplit_detBufs (s : State) (k slot : Nat) (f : Split → Split) : (s.mapSplit k slot f).detBufs = s.detBufs := rfl
@[simp] theorem State.mapSplit_detRuns (s : State) (k slot : Nat) (f : Split → Split) : (s.mapSplit k slot f).detRuns = s.detRuns := rfl
@[simp] theorem State.mapSplit_allow (s : State) (k slot : Nat) (f : Split → Split) : (s.mapSplit k slot f).allow = s.allow := rfl
@[simp] theorem State.mapSplit_waiters (s : State) (k slot : Nat) (f : Split → Split) : (s.mapSplit k slot f).waiters = s.waiters := rfl
@[simp] theorem State.mapSplit_ports (s : State) (k slot : Nat) (f : Split → Split) : (s.mapSplit k slot f).ports = s.ports := rfl
@[simp] theorem State.mapSplit_passes (s : State) (k slot : Nat) (f : Split → Split) : (s.mapSplit k slot f).passes = s.passes := rfl
@[simp] theorem State.mapSplit_pushes (s : State) (k slot : Nat) (f : Split → Split) : (s.mapSplit k slot f).pushes = s.pushes := rfl
@[simp] theorem State.mapSplit_commits (s : State) (k slot : Nat) (f : Split → Split) : (s.mapSplit k slot f).commits = s.commits := rfl
@[simp] theorem State.mapSplit_peerWaits (s : State) (k slot : Nat) (f : Split → Split) : (s.mapSplit k slot f).peerWaits = s.peerWaits := rfl
@[simp] theorem State.mapSplit_staged (s : State) (k slot : Nat) (f : Split → Split) : (s.mapSplit k slot f).staged = s.staged := rfl
@[simp] theorem State.mapSplit_keptResponses (s : State) (k slot : Nat) (f : Split → Split) : (s.mapSplit k slot f).keptResponses = s.keptResponses := rfl
@[simp] theorem State.mapSplit_visits (s : State) (k slot : Nat) (f : Split → Split) : (s.mapSplit k slot f).visits = s.visits := rfl
@[simp] theorem State.mapSplit_teamRels (s : State) (k slot : Nat) (f : Split → Split) : (s.mapSplit k slot f).teamRels = s.teamRels := rfl
@[simp] theorem State.mapSplit_metWaits (s : State) (k slot : Nat) (f : Split → Split) : (s.mapSplit k slot f).metWaits = s.metWaits := rfl
@[simp] theorem State.mapSplit_pushWaits (s : State) (k slot : Nat) (f : Split → Split) : (s.mapSplit k slot f).pushWaits = s.pushWaits := rfl
@[simp] theorem State.mapSplit_colls (s : State) (k slot : Nat) (f : Split → Split) : (s.mapSplit k slot f).colls = s.colls := rfl
@[simp] theorem State.mapSplit_collsDone (s : State) (k slot : Nat) (f : Split → Split) : (s.mapSplit k slot f).collsDone = s.collsDone := rfl
@[simp] theorem State.mapSplit_wire (s : State) (k slot : Nat) (f : Split → Split) : (s.mapSplit k slot f).wire = s.wire := rfl
@[simp] theorem State.mapSplit_mirrorReqs (s : State) (k slot : Nat) (f : Split → Split) : (s.mapSplit k slot f).mirrorReqs = s.mirrorReqs := rfl
@[simp] theorem State.mapSplit_prismFull (s : State) (k slot : Nat) (f : Split → Split) : (s.mapSplit k slot f).prismFull = s.prismFull := rfl
@[simp] theorem State.mapSplit_prismUnreachable (s : State) (k slot : Nat) (f : Split → Split) : (s.mapSplit k slot f).prismUnreachable = s.prismUnreachable := rfl
@[simp] theorem State.mapSplit_outbox (s : State) (k slot : Nat) (f : Split → Split) : (s.mapSplit k slot f).outbox = s.outbox := rfl
@[simp] theorem State.mapSplit_lantern (s : State) (k slot : Nat) (f : Split → Split) : (s.mapSplit k slot f).lantern = s.lantern := rfl
@[simp] theorem State.mapSplit_counters (s : State) (k slot : Nat) (f : Split → Split) : (s.mapSplit k slot f).counters = s.counters := rfl
@[simp] theorem State.mapSplit_attests (s : State) (k slot : Nat) (f : Split → Split) : (s.mapSplit k slot f).attests = s.attests := rfl
@[simp] theorem State.mapSplit_attestRefused (s : State) (k slot : Nat) (f : Split → Split) : (s.mapSplit k slot f).attestRefused = s.attestRefused := rfl
@[simp] theorem State.mapSplit_patchStore (s : State) (k slot : Nat) (f : Split → Split) : (s.mapSplit k slot f).patchStore = s.patchStore := rfl
@[simp] theorem State.mapSplit_patchRunning (s : State) (k slot : Nat) (f : Split → Split) : (s.mapSplit k slot f).patchRunning = s.patchRunning := rfl
@[simp] theorem State.mapSplit_oneWay (s : State) (k slot : Nat) (f : Split → Split) : (s.mapSplit k slot f).oneWay = s.oneWay := rfl

/-! ### State.mapTeam -/

@[simp] theorem State.mapTeam_agenda (s : State) (id : Nat) (f : Team → Team) : (s.mapTeam id f).agenda = s.agenda := rfl
@[simp] theorem State.mapTeam_tick (s : State) (id : Nat) (f : Team → Team) : (s.mapTeam id f).tick = s.tick := rfl
@[simp] theorem State.mapTeam_focus (s : State) (id : Nat) (f : Team → Team) : (s.mapTeam id f).focus = s.focus := rfl
@[simp] theorem State.mapTeam_fresh (s : State) (id : Nat) (f : Team → Team) : (s.mapTeam id f).fresh = s.fresh := rfl
@[simp] theorem State.mapTeam_laneCut (s : State) (id : Nat) (f : Team → Team) : (s.mapTeam id f).laneCut = s.laneCut := rfl
@[simp] theorem State.mapTeam_cycles (s : State) (id : Nat) (f : Team → Team) : (s.mapTeam id f).cycles = s.cycles := rfl
@[simp] theorem State.mapTeam_nanos (s : State) (id : Nat) (f : Team → Team) : (s.mapTeam id f).nanos = s.nanos := rfl
@[simp] theorem State.mapTeam_devno (s : State) (id : Nat) (f : Team → Team) : (s.mapTeam id f).devno = s.devno := rfl
@[simp] theorem State.mapTeam_aclkMHz (s : State) (id : Nat) (f : Team → Team) : (s.mapTeam id f).aclkMHz = s.aclkMHz := rfl
@[simp] theorem State.mapTeam_aclkSince (s : State) (id : Nat) (f : Team → Team) : (s.mapTeam id f).aclkSince = s.aclkSince := rfl
@[simp] theorem State.mapTeam_stopped (s : State) (id : Nat) (f : Team → Team) : (s.mapTeam id f).stopped = s.stopped := rfl
@[simp] theorem State.mapTeam_tripped (s : State) (id : Nat) (f : Team → Team) : (s.mapTeam id f).tripped = s.tripped := rfl
@[simp] theorem State.mapTeam_booted (s : State) (id : Nat) (f : Team → Team) : (s.mapTeam id f).booted = s.booted := rfl
@[simp] theorem State.mapTeam_mem (s : State) (id : Nat) (f : Team → Team) : (s.mapTeam id f).mem = s.mem := rfl
@[simp] theorem State.mapTeam_poison (s : State) (id : Nat) (f : Team → Team) : (s.mapTeam id f).poison = s.poison := rfl
@[simp] theorem State.mapTeam_offlineSlices (s : State) (id : Nat) (f : Team → Team) : (s.mapTeam id f).offlineSlices = s.offlineSlices := rfl
@[simp] theorem State.mapTeam_offlineStacks (s : State) (id : Nat) (f : Team → Team) : (s.mapTeam id f).offlineStacks = s.offlineStacks := rfl
@[simp] theorem State.mapTeam_ptroot (s : State) (id : Nat) (f : Team → Team) : (s.mapTeam id f).ptroot = s.ptroot := rfl
@[simp] theorem State.mapTeam_tlb (s : State) (id : Nat) (f : Team → Team) : (s.mapTeam id f).tlb = s.tlb := rfl
@[simp] theorem State.mapTeam_pool (s : State) (id : Nat) (f : Team → Team) : (s.mapTeam id f).pool = s.pool := rfl
@[simp] theorem State.mapTeam_smallTables (s : State) (id : Nat) (f : Team → Team) : (s.mapTeam id f).smallTables = s.smallTables := rfl
@[simp] theorem State.mapTeam_slots (s : State) (id : Nat) (f : Team → Team) : (s.mapTeam id f).slots = s.slots := rfl
@[simp] theorem State.mapTeam_ctxs (s : State) (id : Nat) (f : Team → Team) : (s.mapTeam id f).ctxs = s.ctxs := rfl
@[simp] theorem State.mapTeam_grids (s : State) (id : Nat) (f : Team → Team) : (s.mapTeam id f).grids = s.grids := rfl
@[simp] theorem State.mapTeam_launches (s : State) (id : Nat) (f : Team → Team) : (s.mapTeam id f).launches = s.launches := rfl
@[simp] theorem State.mapTeam_groups (s : State) (id : Nat) (f : Team → Team) : (s.mapTeam id f).groups = s.groups := rfl
@[simp] theorem State.mapTeam_carve (s : State) (id : Nat) (f : Team → Team) : (s.mapTeam id f).carve = s.carve := rfl
@[simp] theorem State.mapTeam_lineState (s : State) (id : Nat) (f : Team → Team) : (s.mapTeam id f).lineState = s.lineState := rfl
@[simp] theorem State.mapTeam_l1 (s : State) (id : Nat) (f : Team → Team) : (s.mapTeam id f).l1 = s.l1 := rfl
@[simp] theorem State.mapTeam_acc (s : State) (id : Nat) (f : Team → Team) : (s.mapTeam id f).acc = s.acc := rfl
@[simp] theorem State.mapTeam_accOwner (s : State) (id : Nat) (f : Team → Team) : (s.mapTeam id f).accOwner = s.accOwner := rfl
@[simp] theorem State.mapTeam_quads (s : State) (id : Nat) (f : Team → Team) : (s.mapTeam id f).quads = s.quads := rfl
@[simp] theorem State.mapTeam_copies (s : State) (id : Nat) (f : Team → Team) : (s.mapTeam id f).copies = s.copies := rfl
@[simp] theorem State.mapTeam_bursts (s : State) (id : Nat) (f : Team → Team) : (s.mapTeam id f).bursts = s.bursts := rfl
@[simp] theorem State.mapTeam_owned (s : State) (id : Nat) (f : Team → Team) : (s.mapTeam id f).owned = s.owned := rfl
@[simp] theorem State.mapTeam_held (s : State) (id : Nat) (f : Team → Team) : (s.mapTeam id f).held = s.held := rfl
@[simp] theorem State.mapTeam_matOps (s : State) (id : Nat) (f : Team → Team) : (s.mapTeam id f).matOps = s.matOps := rfl
@[simp] theorem State.mapTeam_batchFails (s : State) (id : Nat) (f : Team → Team) : (s.mapTeam id f).batchFails = s.batchFails := rfl
@[simp] theorem State.mapTeam_batchFlags (s : State) (id : Nat) (f : Team → Team) : (s.mapTeam id f).batchFlags = s.batchFlags := rfl
@[simp] theorem State.mapTeam_sliceReqs (s : State) (id : Nat) (f : Team → Team) : (s.mapTeam id f).sliceReqs = s.sliceReqs := rfl
@[simp] theorem State.mapTeam_detBufs (s : State) (id : Nat) (f : Team → Team) : (s.mapTeam id f).detBufs = s.detBufs := rfl
@[simp] theorem State.mapTeam_detRuns (s : State) (id : Nat) (f : Team → Team) : (s.mapTeam id f).detRuns = s.detRuns := rfl
@[simp] theorem State.mapTeam_allow (s : State) (id : Nat) (f : Team → Team) : (s.mapTeam id f).allow = s.allow := rfl
@[simp] theorem State.mapTeam_waiters (s : State) (id : Nat) (f : Team → Team) : (s.mapTeam id f).waiters = s.waiters := rfl
@[simp] theorem State.mapTeam_ports (s : State) (id : Nat) (f : Team → Team) : (s.mapTeam id f).ports = s.ports := rfl
@[simp] theorem State.mapTeam_passes (s : State) (id : Nat) (f : Team → Team) : (s.mapTeam id f).passes = s.passes := rfl
@[simp] theorem State.mapTeam_pushes (s : State) (id : Nat) (f : Team → Team) : (s.mapTeam id f).pushes = s.pushes := rfl
@[simp] theorem State.mapTeam_commits (s : State) (id : Nat) (f : Team → Team) : (s.mapTeam id f).commits = s.commits := rfl
@[simp] theorem State.mapTeam_peerWaits (s : State) (id : Nat) (f : Team → Team) : (s.mapTeam id f).peerWaits = s.peerWaits := rfl
@[simp] theorem State.mapTeam_staged (s : State) (id : Nat) (f : Team → Team) : (s.mapTeam id f).staged = s.staged := rfl
@[simp] theorem State.mapTeam_keptResponses (s : State) (id : Nat) (f : Team → Team) : (s.mapTeam id f).keptResponses = s.keptResponses := rfl
@[simp] theorem State.mapTeam_visits (s : State) (id : Nat) (f : Team → Team) : (s.mapTeam id f).visits = s.visits := rfl
@[simp] theorem State.mapTeam_teamRels (s : State) (id : Nat) (f : Team → Team) : (s.mapTeam id f).teamRels = s.teamRels := rfl
@[simp] theorem State.mapTeam_metWaits (s : State) (id : Nat) (f : Team → Team) : (s.mapTeam id f).metWaits = s.metWaits := rfl
@[simp] theorem State.mapTeam_pushWaits (s : State) (id : Nat) (f : Team → Team) : (s.mapTeam id f).pushWaits = s.pushWaits := rfl
@[simp] theorem State.mapTeam_colls (s : State) (id : Nat) (f : Team → Team) : (s.mapTeam id f).colls = s.colls := rfl
@[simp] theorem State.mapTeam_collsDone (s : State) (id : Nat) (f : Team → Team) : (s.mapTeam id f).collsDone = s.collsDone := rfl
@[simp] theorem State.mapTeam_wire (s : State) (id : Nat) (f : Team → Team) : (s.mapTeam id f).wire = s.wire := rfl
@[simp] theorem State.mapTeam_mirrorReqs (s : State) (id : Nat) (f : Team → Team) : (s.mapTeam id f).mirrorReqs = s.mirrorReqs := rfl
@[simp] theorem State.mapTeam_prismFull (s : State) (id : Nat) (f : Team → Team) : (s.mapTeam id f).prismFull = s.prismFull := rfl
@[simp] theorem State.mapTeam_prismUnreachable (s : State) (id : Nat) (f : Team → Team) : (s.mapTeam id f).prismUnreachable = s.prismUnreachable := rfl
@[simp] theorem State.mapTeam_outbox (s : State) (id : Nat) (f : Team → Team) : (s.mapTeam id f).outbox = s.outbox := rfl
@[simp] theorem State.mapTeam_lantern (s : State) (id : Nat) (f : Team → Team) : (s.mapTeam id f).lantern = s.lantern := rfl
@[simp] theorem State.mapTeam_counters (s : State) (id : Nat) (f : Team → Team) : (s.mapTeam id f).counters = s.counters := rfl
@[simp] theorem State.mapTeam_attests (s : State) (id : Nat) (f : Team → Team) : (s.mapTeam id f).attests = s.attests := rfl
@[simp] theorem State.mapTeam_attestRefused (s : State) (id : Nat) (f : Team → Team) : (s.mapTeam id f).attestRefused = s.attestRefused := rfl
@[simp] theorem State.mapTeam_patchStore (s : State) (id : Nat) (f : Team → Team) : (s.mapTeam id f).patchStore = s.patchStore := rfl
@[simp] theorem State.mapTeam_patchRunning (s : State) (id : Nat) (f : Team → Team) : (s.mapTeam id f).patchRunning = s.patchRunning := rfl
@[simp] theorem State.mapTeam_oneWay (s : State) (id : Nat) (f : Team → Team) : (s.mapTeam id f).oneWay = s.oneWay := rfl

/-! ### State.mapGrid -/

@[simp] theorem State.mapGrid_agenda (s : State) (c id : Nat) (f : Grid → Grid) : (s.mapGrid c id f).agenda = s.agenda := rfl
@[simp] theorem State.mapGrid_tick (s : State) (c id : Nat) (f : Grid → Grid) : (s.mapGrid c id f).tick = s.tick := rfl
@[simp] theorem State.mapGrid_focus (s : State) (c id : Nat) (f : Grid → Grid) : (s.mapGrid c id f).focus = s.focus := rfl
@[simp] theorem State.mapGrid_fresh (s : State) (c id : Nat) (f : Grid → Grid) : (s.mapGrid c id f).fresh = s.fresh := rfl
@[simp] theorem State.mapGrid_laneCut (s : State) (c id : Nat) (f : Grid → Grid) : (s.mapGrid c id f).laneCut = s.laneCut := rfl
@[simp] theorem State.mapGrid_cycles (s : State) (c id : Nat) (f : Grid → Grid) : (s.mapGrid c id f).cycles = s.cycles := rfl
@[simp] theorem State.mapGrid_nanos (s : State) (c id : Nat) (f : Grid → Grid) : (s.mapGrid c id f).nanos = s.nanos := rfl
@[simp] theorem State.mapGrid_devno (s : State) (c id : Nat) (f : Grid → Grid) : (s.mapGrid c id f).devno = s.devno := rfl
@[simp] theorem State.mapGrid_aclkMHz (s : State) (c id : Nat) (f : Grid → Grid) : (s.mapGrid c id f).aclkMHz = s.aclkMHz := rfl
@[simp] theorem State.mapGrid_aclkSince (s : State) (c id : Nat) (f : Grid → Grid) : (s.mapGrid c id f).aclkSince = s.aclkSince := rfl
@[simp] theorem State.mapGrid_stopped (s : State) (c id : Nat) (f : Grid → Grid) : (s.mapGrid c id f).stopped = s.stopped := rfl
@[simp] theorem State.mapGrid_tripped (s : State) (c id : Nat) (f : Grid → Grid) : (s.mapGrid c id f).tripped = s.tripped := rfl
@[simp] theorem State.mapGrid_booted (s : State) (c id : Nat) (f : Grid → Grid) : (s.mapGrid c id f).booted = s.booted := rfl
@[simp] theorem State.mapGrid_mem (s : State) (c id : Nat) (f : Grid → Grid) : (s.mapGrid c id f).mem = s.mem := rfl
@[simp] theorem State.mapGrid_poison (s : State) (c id : Nat) (f : Grid → Grid) : (s.mapGrid c id f).poison = s.poison := rfl
@[simp] theorem State.mapGrid_offlineSlices (s : State) (c id : Nat) (f : Grid → Grid) : (s.mapGrid c id f).offlineSlices = s.offlineSlices := rfl
@[simp] theorem State.mapGrid_offlineStacks (s : State) (c id : Nat) (f : Grid → Grid) : (s.mapGrid c id f).offlineStacks = s.offlineStacks := rfl
@[simp] theorem State.mapGrid_ptroot (s : State) (c id : Nat) (f : Grid → Grid) : (s.mapGrid c id f).ptroot = s.ptroot := rfl
@[simp] theorem State.mapGrid_tlb (s : State) (c id : Nat) (f : Grid → Grid) : (s.mapGrid c id f).tlb = s.tlb := rfl
@[simp] theorem State.mapGrid_pool (s : State) (c id : Nat) (f : Grid → Grid) : (s.mapGrid c id f).pool = s.pool := rfl
@[simp] theorem State.mapGrid_smallTables (s : State) (c id : Nat) (f : Grid → Grid) : (s.mapGrid c id f).smallTables = s.smallTables := rfl
@[simp] theorem State.mapGrid_slots (s : State) (c id : Nat) (f : Grid → Grid) : (s.mapGrid c id f).slots = s.slots := rfl
@[simp] theorem State.mapGrid_ctxs (s : State) (c id : Nat) (f : Grid → Grid) : (s.mapGrid c id f).ctxs = s.ctxs := rfl
@[simp] theorem State.mapGrid_launches (s : State) (c id : Nat) (f : Grid → Grid) : (s.mapGrid c id f).launches = s.launches := rfl
@[simp] theorem State.mapGrid_teams (s : State) (c id : Nat) (f : Grid → Grid) : (s.mapGrid c id f).teams = s.teams := rfl
@[simp] theorem State.mapGrid_groups (s : State) (c id : Nat) (f : Grid → Grid) : (s.mapGrid c id f).groups = s.groups := rfl
@[simp] theorem State.mapGrid_carve (s : State) (c id : Nat) (f : Grid → Grid) : (s.mapGrid c id f).carve = s.carve := rfl
@[simp] theorem State.mapGrid_lineState (s : State) (c id : Nat) (f : Grid → Grid) : (s.mapGrid c id f).lineState = s.lineState := rfl
@[simp] theorem State.mapGrid_l1 (s : State) (c id : Nat) (f : Grid → Grid) : (s.mapGrid c id f).l1 = s.l1 := rfl
@[simp] theorem State.mapGrid_acc (s : State) (c id : Nat) (f : Grid → Grid) : (s.mapGrid c id f).acc = s.acc := rfl
@[simp] theorem State.mapGrid_accOwner (s : State) (c id : Nat) (f : Grid → Grid) : (s.mapGrid c id f).accOwner = s.accOwner := rfl
@[simp] theorem State.mapGrid_quads (s : State) (c id : Nat) (f : Grid → Grid) : (s.mapGrid c id f).quads = s.quads := rfl
@[simp] theorem State.mapGrid_copies (s : State) (c id : Nat) (f : Grid → Grid) : (s.mapGrid c id f).copies = s.copies := rfl
@[simp] theorem State.mapGrid_bursts (s : State) (c id : Nat) (f : Grid → Grid) : (s.mapGrid c id f).bursts = s.bursts := rfl
@[simp] theorem State.mapGrid_owned (s : State) (c id : Nat) (f : Grid → Grid) : (s.mapGrid c id f).owned = s.owned := rfl
@[simp] theorem State.mapGrid_held (s : State) (c id : Nat) (f : Grid → Grid) : (s.mapGrid c id f).held = s.held := rfl
@[simp] theorem State.mapGrid_matOps (s : State) (c id : Nat) (f : Grid → Grid) : (s.mapGrid c id f).matOps = s.matOps := rfl
@[simp] theorem State.mapGrid_batchFails (s : State) (c id : Nat) (f : Grid → Grid) : (s.mapGrid c id f).batchFails = s.batchFails := rfl
@[simp] theorem State.mapGrid_batchFlags (s : State) (c id : Nat) (f : Grid → Grid) : (s.mapGrid c id f).batchFlags = s.batchFlags := rfl
@[simp] theorem State.mapGrid_sliceReqs (s : State) (c id : Nat) (f : Grid → Grid) : (s.mapGrid c id f).sliceReqs = s.sliceReqs := rfl
@[simp] theorem State.mapGrid_detBufs (s : State) (c id : Nat) (f : Grid → Grid) : (s.mapGrid c id f).detBufs = s.detBufs := rfl
@[simp] theorem State.mapGrid_detRuns (s : State) (c id : Nat) (f : Grid → Grid) : (s.mapGrid c id f).detRuns = s.detRuns := rfl
@[simp] theorem State.mapGrid_allow (s : State) (c id : Nat) (f : Grid → Grid) : (s.mapGrid c id f).allow = s.allow := rfl
@[simp] theorem State.mapGrid_waiters (s : State) (c id : Nat) (f : Grid → Grid) : (s.mapGrid c id f).waiters = s.waiters := rfl
@[simp] theorem State.mapGrid_ports (s : State) (c id : Nat) (f : Grid → Grid) : (s.mapGrid c id f).ports = s.ports := rfl
@[simp] theorem State.mapGrid_passes (s : State) (c id : Nat) (f : Grid → Grid) : (s.mapGrid c id f).passes = s.passes := rfl
@[simp] theorem State.mapGrid_pushes (s : State) (c id : Nat) (f : Grid → Grid) : (s.mapGrid c id f).pushes = s.pushes := rfl
@[simp] theorem State.mapGrid_commits (s : State) (c id : Nat) (f : Grid → Grid) : (s.mapGrid c id f).commits = s.commits := rfl
@[simp] theorem State.mapGrid_peerWaits (s : State) (c id : Nat) (f : Grid → Grid) : (s.mapGrid c id f).peerWaits = s.peerWaits := rfl
@[simp] theorem State.mapGrid_staged (s : State) (c id : Nat) (f : Grid → Grid) : (s.mapGrid c id f).staged = s.staged := rfl
@[simp] theorem State.mapGrid_keptResponses (s : State) (c id : Nat) (f : Grid → Grid) : (s.mapGrid c id f).keptResponses = s.keptResponses := rfl
@[simp] theorem State.mapGrid_visits (s : State) (c id : Nat) (f : Grid → Grid) : (s.mapGrid c id f).visits = s.visits := rfl
@[simp] theorem State.mapGrid_teamRels (s : State) (c id : Nat) (f : Grid → Grid) : (s.mapGrid c id f).teamRels = s.teamRels := rfl
@[simp] theorem State.mapGrid_metWaits (s : State) (c id : Nat) (f : Grid → Grid) : (s.mapGrid c id f).metWaits = s.metWaits := rfl
@[simp] theorem State.mapGrid_pushWaits (s : State) (c id : Nat) (f : Grid → Grid) : (s.mapGrid c id f).pushWaits = s.pushWaits := rfl
@[simp] theorem State.mapGrid_colls (s : State) (c id : Nat) (f : Grid → Grid) : (s.mapGrid c id f).colls = s.colls := rfl
@[simp] theorem State.mapGrid_collsDone (s : State) (c id : Nat) (f : Grid → Grid) : (s.mapGrid c id f).collsDone = s.collsDone := rfl
@[simp] theorem State.mapGrid_wire (s : State) (c id : Nat) (f : Grid → Grid) : (s.mapGrid c id f).wire = s.wire := rfl
@[simp] theorem State.mapGrid_mirrorReqs (s : State) (c id : Nat) (f : Grid → Grid) : (s.mapGrid c id f).mirrorReqs = s.mirrorReqs := rfl
@[simp] theorem State.mapGrid_prismFull (s : State) (c id : Nat) (f : Grid → Grid) : (s.mapGrid c id f).prismFull = s.prismFull := rfl
@[simp] theorem State.mapGrid_prismUnreachable (s : State) (c id : Nat) (f : Grid → Grid) : (s.mapGrid c id f).prismUnreachable = s.prismUnreachable := rfl
@[simp] theorem State.mapGrid_outbox (s : State) (c id : Nat) (f : Grid → Grid) : (s.mapGrid c id f).outbox = s.outbox := rfl
@[simp] theorem State.mapGrid_lantern (s : State) (c id : Nat) (f : Grid → Grid) : (s.mapGrid c id f).lantern = s.lantern := rfl
@[simp] theorem State.mapGrid_counters (s : State) (c id : Nat) (f : Grid → Grid) : (s.mapGrid c id f).counters = s.counters := rfl
@[simp] theorem State.mapGrid_attests (s : State) (c id : Nat) (f : Grid → Grid) : (s.mapGrid c id f).attests = s.attests := rfl
@[simp] theorem State.mapGrid_attestRefused (s : State) (c id : Nat) (f : Grid → Grid) : (s.mapGrid c id f).attestRefused = s.attestRefused := rfl
@[simp] theorem State.mapGrid_patchStore (s : State) (c id : Nat) (f : Grid → Grid) : (s.mapGrid c id f).patchStore = s.patchStore := rfl
@[simp] theorem State.mapGrid_patchRunning (s : State) (c id : Nat) (f : Grid → Grid) : (s.mapGrid c id f).patchRunning = s.patchRunning := rfl
@[simp] theorem State.mapGrid_oneWay (s : State) (c id : Nat) (f : Grid → Grid) : (s.mapGrid c id f).oneWay = s.oneWay := rfl

/-! ### State.leaveAll -/

@[simp] theorem State.leaveAll_agenda (s : State) (p : Waiter → Bool) : (s.leaveAll p).agenda = s.agenda := rfl
@[simp] theorem State.leaveAll_tick (s : State) (p : Waiter → Bool) : (s.leaveAll p).tick = s.tick := rfl
@[simp] theorem State.leaveAll_focus (s : State) (p : Waiter → Bool) : (s.leaveAll p).focus = s.focus := rfl
@[simp] theorem State.leaveAll_fresh (s : State) (p : Waiter → Bool) : (s.leaveAll p).fresh = s.fresh := rfl
@[simp] theorem State.leaveAll_laneCut (s : State) (p : Waiter → Bool) : (s.leaveAll p).laneCut = s.laneCut := rfl
@[simp] theorem State.leaveAll_cycles (s : State) (p : Waiter → Bool) : (s.leaveAll p).cycles = s.cycles := rfl
@[simp] theorem State.leaveAll_nanos (s : State) (p : Waiter → Bool) : (s.leaveAll p).nanos = s.nanos := rfl
@[simp] theorem State.leaveAll_devno (s : State) (p : Waiter → Bool) : (s.leaveAll p).devno = s.devno := rfl
@[simp] theorem State.leaveAll_aclkMHz (s : State) (p : Waiter → Bool) : (s.leaveAll p).aclkMHz = s.aclkMHz := rfl
@[simp] theorem State.leaveAll_aclkSince (s : State) (p : Waiter → Bool) : (s.leaveAll p).aclkSince = s.aclkSince := rfl
@[simp] theorem State.leaveAll_stopped (s : State) (p : Waiter → Bool) : (s.leaveAll p).stopped = s.stopped := rfl
@[simp] theorem State.leaveAll_tripped (s : State) (p : Waiter → Bool) : (s.leaveAll p).tripped = s.tripped := rfl
@[simp] theorem State.leaveAll_booted (s : State) (p : Waiter → Bool) : (s.leaveAll p).booted = s.booted := rfl
@[simp] theorem State.leaveAll_mem (s : State) (p : Waiter → Bool) : (s.leaveAll p).mem = s.mem := rfl
@[simp] theorem State.leaveAll_poison (s : State) (p : Waiter → Bool) : (s.leaveAll p).poison = s.poison := rfl
@[simp] theorem State.leaveAll_offlineSlices (s : State) (p : Waiter → Bool) : (s.leaveAll p).offlineSlices = s.offlineSlices := rfl
@[simp] theorem State.leaveAll_offlineStacks (s : State) (p : Waiter → Bool) : (s.leaveAll p).offlineStacks = s.offlineStacks := rfl
@[simp] theorem State.leaveAll_ptroot (s : State) (p : Waiter → Bool) : (s.leaveAll p).ptroot = s.ptroot := rfl
@[simp] theorem State.leaveAll_tlb (s : State) (p : Waiter → Bool) : (s.leaveAll p).tlb = s.tlb := rfl
@[simp] theorem State.leaveAll_pool (s : State) (p : Waiter → Bool) : (s.leaveAll p).pool = s.pool := rfl
@[simp] theorem State.leaveAll_smallTables (s : State) (p : Waiter → Bool) : (s.leaveAll p).smallTables = s.smallTables := rfl
@[simp] theorem State.leaveAll_slots (s : State) (p : Waiter → Bool) : (s.leaveAll p).slots = s.slots := rfl
@[simp] theorem State.leaveAll_ctxs (s : State) (p : Waiter → Bool) : (s.leaveAll p).ctxs = s.ctxs := rfl
@[simp] theorem State.leaveAll_launches (s : State) (p : Waiter → Bool) : (s.leaveAll p).launches = s.launches := rfl
@[simp] theorem State.leaveAll_teams (s : State) (p : Waiter → Bool) : (s.leaveAll p).teams = s.teams := rfl
@[simp] theorem State.leaveAll_groups (s : State) (p : Waiter → Bool) : (s.leaveAll p).groups = s.groups := rfl
@[simp] theorem State.leaveAll_carve (s : State) (p : Waiter → Bool) : (s.leaveAll p).carve = s.carve := rfl
@[simp] theorem State.leaveAll_lineState (s : State) (p : Waiter → Bool) : (s.leaveAll p).lineState = s.lineState := rfl
@[simp] theorem State.leaveAll_l1 (s : State) (p : Waiter → Bool) : (s.leaveAll p).l1 = s.l1 := rfl
@[simp] theorem State.leaveAll_acc (s : State) (p : Waiter → Bool) : (s.leaveAll p).acc = s.acc := rfl
@[simp] theorem State.leaveAll_accOwner (s : State) (p : Waiter → Bool) : (s.leaveAll p).accOwner = s.accOwner := rfl
@[simp] theorem State.leaveAll_quads (s : State) (p : Waiter → Bool) : (s.leaveAll p).quads = s.quads := rfl
@[simp] theorem State.leaveAll_copies (s : State) (p : Waiter → Bool) : (s.leaveAll p).copies = s.copies := rfl
@[simp] theorem State.leaveAll_bursts (s : State) (p : Waiter → Bool) : (s.leaveAll p).bursts = s.bursts := rfl
@[simp] theorem State.leaveAll_owned (s : State) (p : Waiter → Bool) : (s.leaveAll p).owned = s.owned := rfl
@[simp] theorem State.leaveAll_held (s : State) (p : Waiter → Bool) : (s.leaveAll p).held = s.held := rfl
@[simp] theorem State.leaveAll_matOps (s : State) (p : Waiter → Bool) : (s.leaveAll p).matOps = s.matOps := rfl
@[simp] theorem State.leaveAll_batchFails (s : State) (p : Waiter → Bool) : (s.leaveAll p).batchFails = s.batchFails := rfl
@[simp] theorem State.leaveAll_batchFlags (s : State) (p : Waiter → Bool) : (s.leaveAll p).batchFlags = s.batchFlags := rfl
@[simp] theorem State.leaveAll_sliceReqs (s : State) (p : Waiter → Bool) : (s.leaveAll p).sliceReqs = s.sliceReqs := rfl
@[simp] theorem State.leaveAll_detBufs (s : State) (p : Waiter → Bool) : (s.leaveAll p).detBufs = s.detBufs := rfl
@[simp] theorem State.leaveAll_detRuns (s : State) (p : Waiter → Bool) : (s.leaveAll p).detRuns = s.detRuns := rfl
@[simp] theorem State.leaveAll_allow (s : State) (p : Waiter → Bool) : (s.leaveAll p).allow = s.allow := rfl
@[simp] theorem State.leaveAll_ports (s : State) (p : Waiter → Bool) : (s.leaveAll p).ports = s.ports := rfl
@[simp] theorem State.leaveAll_passes (s : State) (p : Waiter → Bool) : (s.leaveAll p).passes = s.passes := rfl
@[simp] theorem State.leaveAll_pushes (s : State) (p : Waiter → Bool) : (s.leaveAll p).pushes = s.pushes := rfl
@[simp] theorem State.leaveAll_commits (s : State) (p : Waiter → Bool) : (s.leaveAll p).commits = s.commits := rfl
@[simp] theorem State.leaveAll_peerWaits (s : State) (p : Waiter → Bool) : (s.leaveAll p).peerWaits = s.peerWaits := rfl
@[simp] theorem State.leaveAll_staged (s : State) (p : Waiter → Bool) : (s.leaveAll p).staged = s.staged := rfl
@[simp] theorem State.leaveAll_keptResponses (s : State) (p : Waiter → Bool) : (s.leaveAll p).keptResponses = s.keptResponses := rfl
@[simp] theorem State.leaveAll_visits (s : State) (p : Waiter → Bool) : (s.leaveAll p).visits = s.visits := rfl
@[simp] theorem State.leaveAll_teamRels (s : State) (p : Waiter → Bool) : (s.leaveAll p).teamRels = s.teamRels := rfl
@[simp] theorem State.leaveAll_metWaits (s : State) (p : Waiter → Bool) : (s.leaveAll p).metWaits = s.metWaits := rfl
@[simp] theorem State.leaveAll_pushWaits (s : State) (p : Waiter → Bool) : (s.leaveAll p).pushWaits = s.pushWaits := rfl
@[simp] theorem State.leaveAll_colls (s : State) (p : Waiter → Bool) : (s.leaveAll p).colls = s.colls := rfl
@[simp] theorem State.leaveAll_collsDone (s : State) (p : Waiter → Bool) : (s.leaveAll p).collsDone = s.collsDone := rfl
@[simp] theorem State.leaveAll_wire (s : State) (p : Waiter → Bool) : (s.leaveAll p).wire = s.wire := rfl
@[simp] theorem State.leaveAll_mirrorReqs (s : State) (p : Waiter → Bool) : (s.leaveAll p).mirrorReqs = s.mirrorReqs := rfl
@[simp] theorem State.leaveAll_prismFull (s : State) (p : Waiter → Bool) : (s.leaveAll p).prismFull = s.prismFull := rfl
@[simp] theorem State.leaveAll_prismUnreachable (s : State) (p : Waiter → Bool) : (s.leaveAll p).prismUnreachable = s.prismUnreachable := rfl
@[simp] theorem State.leaveAll_outbox (s : State) (p : Waiter → Bool) : (s.leaveAll p).outbox = s.outbox := rfl
@[simp] theorem State.leaveAll_lantern (s : State) (p : Waiter → Bool) : (s.leaveAll p).lantern = s.lantern := rfl
@[simp] theorem State.leaveAll_counters (s : State) (p : Waiter → Bool) : (s.leaveAll p).counters = s.counters := rfl
@[simp] theorem State.leaveAll_attests (s : State) (p : Waiter → Bool) : (s.leaveAll p).attests = s.attests := rfl
@[simp] theorem State.leaveAll_attestRefused (s : State) (p : Waiter → Bool) : (s.leaveAll p).attestRefused = s.attestRefused := rfl
@[simp] theorem State.leaveAll_patchStore (s : State) (p : Waiter → Bool) : (s.leaveAll p).patchStore = s.patchStore := rfl
@[simp] theorem State.leaveAll_patchRunning (s : State) (p : Waiter → Bool) : (s.leaveAll p).patchRunning = s.patchRunning := rfl
@[simp] theorem State.leaveAll_oneWay (s : State) (p : Waiter → Bool) : (s.leaveAll p).oneWay = s.oneWay := rfl
@[simp] theorem State.leaveAll_grids (s : State) (p : Waiter → Bool) : (s.leaveAll p).grids = s.grids := rfl

/-! ### State.mapCtx -/

@[simp] theorem State.mapCtx_agenda (s : State) (n : Nat) (f : Context → Context) : (s.mapCtx n f).agenda = s.agenda := rfl
@[simp] theorem State.mapCtx_tick (s : State) (n : Nat) (f : Context → Context) : (s.mapCtx n f).tick = s.tick := rfl
@[simp] theorem State.mapCtx_focus (s : State) (n : Nat) (f : Context → Context) : (s.mapCtx n f).focus = s.focus := rfl
@[simp] theorem State.mapCtx_fresh (s : State) (n : Nat) (f : Context → Context) : (s.mapCtx n f).fresh = s.fresh := rfl
@[simp] theorem State.mapCtx_laneCut (s : State) (n : Nat) (f : Context → Context) : (s.mapCtx n f).laneCut = s.laneCut := rfl
@[simp] theorem State.mapCtx_cycles (s : State) (n : Nat) (f : Context → Context) : (s.mapCtx n f).cycles = s.cycles := rfl
@[simp] theorem State.mapCtx_nanos (s : State) (n : Nat) (f : Context → Context) : (s.mapCtx n f).nanos = s.nanos := rfl
@[simp] theorem State.mapCtx_devno (s : State) (n : Nat) (f : Context → Context) : (s.mapCtx n f).devno = s.devno := rfl
@[simp] theorem State.mapCtx_aclkMHz (s : State) (n : Nat) (f : Context → Context) : (s.mapCtx n f).aclkMHz = s.aclkMHz := rfl
@[simp] theorem State.mapCtx_aclkSince (s : State) (n : Nat) (f : Context → Context) : (s.mapCtx n f).aclkSince = s.aclkSince := rfl
@[simp] theorem State.mapCtx_stopped (s : State) (n : Nat) (f : Context → Context) : (s.mapCtx n f).stopped = s.stopped := rfl
@[simp] theorem State.mapCtx_tripped (s : State) (n : Nat) (f : Context → Context) : (s.mapCtx n f).tripped = s.tripped := rfl
@[simp] theorem State.mapCtx_booted (s : State) (n : Nat) (f : Context → Context) : (s.mapCtx n f).booted = s.booted := rfl
@[simp] theorem State.mapCtx_mem (s : State) (n : Nat) (f : Context → Context) : (s.mapCtx n f).mem = s.mem := rfl
@[simp] theorem State.mapCtx_poison (s : State) (n : Nat) (f : Context → Context) : (s.mapCtx n f).poison = s.poison := rfl
@[simp] theorem State.mapCtx_offlineSlices (s : State) (n : Nat) (f : Context → Context) : (s.mapCtx n f).offlineSlices = s.offlineSlices := rfl
@[simp] theorem State.mapCtx_offlineStacks (s : State) (n : Nat) (f : Context → Context) : (s.mapCtx n f).offlineStacks = s.offlineStacks := rfl
@[simp] theorem State.mapCtx_ptroot (s : State) (n : Nat) (f : Context → Context) : (s.mapCtx n f).ptroot = s.ptroot := rfl
@[simp] theorem State.mapCtx_tlb (s : State) (n : Nat) (f : Context → Context) : (s.mapCtx n f).tlb = s.tlb := rfl
@[simp] theorem State.mapCtx_pool (s : State) (n : Nat) (f : Context → Context) : (s.mapCtx n f).pool = s.pool := rfl
@[simp] theorem State.mapCtx_smallTables (s : State) (n : Nat) (f : Context → Context) : (s.mapCtx n f).smallTables = s.smallTables := rfl
@[simp] theorem State.mapCtx_slots (s : State) (n : Nat) (f : Context → Context) : (s.mapCtx n f).slots = s.slots := rfl
@[simp] theorem State.mapCtx_grids (s : State) (n : Nat) (f : Context → Context) : (s.mapCtx n f).grids = s.grids := rfl
@[simp] theorem State.mapCtx_launches (s : State) (n : Nat) (f : Context → Context) : (s.mapCtx n f).launches = s.launches := rfl
@[simp] theorem State.mapCtx_teams (s : State) (n : Nat) (f : Context → Context) : (s.mapCtx n f).teams = s.teams := rfl
@[simp] theorem State.mapCtx_groups (s : State) (n : Nat) (f : Context → Context) : (s.mapCtx n f).groups = s.groups := rfl
@[simp] theorem State.mapCtx_carve (s : State) (n : Nat) (f : Context → Context) : (s.mapCtx n f).carve = s.carve := rfl
@[simp] theorem State.mapCtx_lineState (s : State) (n : Nat) (f : Context → Context) : (s.mapCtx n f).lineState = s.lineState := rfl
@[simp] theorem State.mapCtx_l1 (s : State) (n : Nat) (f : Context → Context) : (s.mapCtx n f).l1 = s.l1 := rfl
@[simp] theorem State.mapCtx_acc (s : State) (n : Nat) (f : Context → Context) : (s.mapCtx n f).acc = s.acc := rfl
@[simp] theorem State.mapCtx_accOwner (s : State) (n : Nat) (f : Context → Context) : (s.mapCtx n f).accOwner = s.accOwner := rfl
@[simp] theorem State.mapCtx_quads (s : State) (n : Nat) (f : Context → Context) : (s.mapCtx n f).quads = s.quads := rfl
@[simp] theorem State.mapCtx_copies (s : State) (n : Nat) (f : Context → Context) : (s.mapCtx n f).copies = s.copies := rfl
@[simp] theorem State.mapCtx_bursts (s : State) (n : Nat) (f : Context → Context) : (s.mapCtx n f).bursts = s.bursts := rfl
@[simp] theorem State.mapCtx_owned (s : State) (n : Nat) (f : Context → Context) : (s.mapCtx n f).owned = s.owned := rfl
@[simp] theorem State.mapCtx_held (s : State) (n : Nat) (f : Context → Context) : (s.mapCtx n f).held = s.held := rfl
@[simp] theorem State.mapCtx_matOps (s : State) (n : Nat) (f : Context → Context) : (s.mapCtx n f).matOps = s.matOps := rfl
@[simp] theorem State.mapCtx_batchFails (s : State) (n : Nat) (f : Context → Context) : (s.mapCtx n f).batchFails = s.batchFails := rfl
@[simp] theorem State.mapCtx_batchFlags (s : State) (n : Nat) (f : Context → Context) : (s.mapCtx n f).batchFlags = s.batchFlags := rfl
@[simp] theorem State.mapCtx_sliceReqs (s : State) (n : Nat) (f : Context → Context) : (s.mapCtx n f).sliceReqs = s.sliceReqs := rfl
@[simp] theorem State.mapCtx_detBufs (s : State) (n : Nat) (f : Context → Context) : (s.mapCtx n f).detBufs = s.detBufs := rfl
@[simp] theorem State.mapCtx_detRuns (s : State) (n : Nat) (f : Context → Context) : (s.mapCtx n f).detRuns = s.detRuns := rfl
@[simp] theorem State.mapCtx_allow (s : State) (n : Nat) (f : Context → Context) : (s.mapCtx n f).allow = s.allow := rfl
@[simp] theorem State.mapCtx_waiters (s : State) (n : Nat) (f : Context → Context) : (s.mapCtx n f).waiters = s.waiters := rfl
@[simp] theorem State.mapCtx_ports (s : State) (n : Nat) (f : Context → Context) : (s.mapCtx n f).ports = s.ports := rfl
@[simp] theorem State.mapCtx_passes (s : State) (n : Nat) (f : Context → Context) : (s.mapCtx n f).passes = s.passes := rfl
@[simp] theorem State.mapCtx_pushes (s : State) (n : Nat) (f : Context → Context) : (s.mapCtx n f).pushes = s.pushes := rfl
@[simp] theorem State.mapCtx_commits (s : State) (n : Nat) (f : Context → Context) : (s.mapCtx n f).commits = s.commits := rfl
@[simp] theorem State.mapCtx_peerWaits (s : State) (n : Nat) (f : Context → Context) : (s.mapCtx n f).peerWaits = s.peerWaits := rfl
@[simp] theorem State.mapCtx_staged (s : State) (n : Nat) (f : Context → Context) : (s.mapCtx n f).staged = s.staged := rfl
@[simp] theorem State.mapCtx_keptResponses (s : State) (n : Nat) (f : Context → Context) : (s.mapCtx n f).keptResponses = s.keptResponses := rfl
@[simp] theorem State.mapCtx_visits (s : State) (n : Nat) (f : Context → Context) : (s.mapCtx n f).visits = s.visits := rfl
@[simp] theorem State.mapCtx_teamRels (s : State) (n : Nat) (f : Context → Context) : (s.mapCtx n f).teamRels = s.teamRels := rfl
@[simp] theorem State.mapCtx_metWaits (s : State) (n : Nat) (f : Context → Context) : (s.mapCtx n f).metWaits = s.metWaits := rfl
@[simp] theorem State.mapCtx_pushWaits (s : State) (n : Nat) (f : Context → Context) : (s.mapCtx n f).pushWaits = s.pushWaits := rfl
@[simp] theorem State.mapCtx_colls (s : State) (n : Nat) (f : Context → Context) : (s.mapCtx n f).colls = s.colls := rfl
@[simp] theorem State.mapCtx_collsDone (s : State) (n : Nat) (f : Context → Context) : (s.mapCtx n f).collsDone = s.collsDone := rfl
@[simp] theorem State.mapCtx_wire (s : State) (n : Nat) (f : Context → Context) : (s.mapCtx n f).wire = s.wire := rfl
@[simp] theorem State.mapCtx_mirrorReqs (s : State) (n : Nat) (f : Context → Context) : (s.mapCtx n f).mirrorReqs = s.mirrorReqs := rfl
@[simp] theorem State.mapCtx_prismFull (s : State) (n : Nat) (f : Context → Context) : (s.mapCtx n f).prismFull = s.prismFull := rfl
@[simp] theorem State.mapCtx_prismUnreachable (s : State) (n : Nat) (f : Context → Context) : (s.mapCtx n f).prismUnreachable = s.prismUnreachable := rfl
@[simp] theorem State.mapCtx_outbox (s : State) (n : Nat) (f : Context → Context) : (s.mapCtx n f).outbox = s.outbox := rfl
@[simp] theorem State.mapCtx_lantern (s : State) (n : Nat) (f : Context → Context) : (s.mapCtx n f).lantern = s.lantern := rfl
@[simp] theorem State.mapCtx_counters (s : State) (n : Nat) (f : Context → Context) : (s.mapCtx n f).counters = s.counters := rfl
@[simp] theorem State.mapCtx_attests (s : State) (n : Nat) (f : Context → Context) : (s.mapCtx n f).attests = s.attests := rfl
@[simp] theorem State.mapCtx_attestRefused (s : State) (n : Nat) (f : Context → Context) : (s.mapCtx n f).attestRefused = s.attestRefused := rfl
@[simp] theorem State.mapCtx_patchStore (s : State) (n : Nat) (f : Context → Context) : (s.mapCtx n f).patchStore = s.patchStore := rfl
@[simp] theorem State.mapCtx_patchRunning (s : State) (n : Nat) (f : Context → Context) : (s.mapCtx n f).patchRunning = s.patchRunning := rfl
@[simp] theorem State.mapCtx_oneWay (s : State) (n : Nat) (f : Context → Context) : (s.mapCtx n f).oneWay = s.oneWay := rfl

/-! ### State.putBytes -/

@[simp] theorem State.putBytes_agenda (s : State) (key off : Nat) (bs : List Byte) : (s.putBytes key off bs).agenda = s.agenda := rfl
@[simp] theorem State.putBytes_tick (s : State) (key off : Nat) (bs : List Byte) : (s.putBytes key off bs).tick = s.tick := rfl
@[simp] theorem State.putBytes_focus (s : State) (key off : Nat) (bs : List Byte) : (s.putBytes key off bs).focus = s.focus := rfl
@[simp] theorem State.putBytes_fresh (s : State) (key off : Nat) (bs : List Byte) : (s.putBytes key off bs).fresh = s.fresh := rfl
@[simp] theorem State.putBytes_laneCut (s : State) (key off : Nat) (bs : List Byte) : (s.putBytes key off bs).laneCut = s.laneCut := rfl
@[simp] theorem State.putBytes_cycles (s : State) (key off : Nat) (bs : List Byte) : (s.putBytes key off bs).cycles = s.cycles := rfl
@[simp] theorem State.putBytes_nanos (s : State) (key off : Nat) (bs : List Byte) : (s.putBytes key off bs).nanos = s.nanos := rfl
@[simp] theorem State.putBytes_devno (s : State) (key off : Nat) (bs : List Byte) : (s.putBytes key off bs).devno = s.devno := rfl
@[simp] theorem State.putBytes_aclkMHz (s : State) (key off : Nat) (bs : List Byte) : (s.putBytes key off bs).aclkMHz = s.aclkMHz := rfl
@[simp] theorem State.putBytes_aclkSince (s : State) (key off : Nat) (bs : List Byte) : (s.putBytes key off bs).aclkSince = s.aclkSince := rfl
@[simp] theorem State.putBytes_stopped (s : State) (key off : Nat) (bs : List Byte) : (s.putBytes key off bs).stopped = s.stopped := rfl
@[simp] theorem State.putBytes_tripped (s : State) (key off : Nat) (bs : List Byte) : (s.putBytes key off bs).tripped = s.tripped := rfl
@[simp] theorem State.putBytes_booted (s : State) (key off : Nat) (bs : List Byte) : (s.putBytes key off bs).booted = s.booted := rfl
@[simp] theorem State.putBytes_poison (s : State) (key off : Nat) (bs : List Byte) : (s.putBytes key off bs).poison = s.poison := rfl
@[simp] theorem State.putBytes_offlineSlices (s : State) (key off : Nat) (bs : List Byte) : (s.putBytes key off bs).offlineSlices = s.offlineSlices := rfl
@[simp] theorem State.putBytes_offlineStacks (s : State) (key off : Nat) (bs : List Byte) : (s.putBytes key off bs).offlineStacks = s.offlineStacks := rfl
@[simp] theorem State.putBytes_ptroot (s : State) (key off : Nat) (bs : List Byte) : (s.putBytes key off bs).ptroot = s.ptroot := rfl
@[simp] theorem State.putBytes_tlb (s : State) (key off : Nat) (bs : List Byte) : (s.putBytes key off bs).tlb = s.tlb := rfl
@[simp] theorem State.putBytes_pool (s : State) (key off : Nat) (bs : List Byte) : (s.putBytes key off bs).pool = s.pool := rfl
@[simp] theorem State.putBytes_smallTables (s : State) (key off : Nat) (bs : List Byte) : (s.putBytes key off bs).smallTables = s.smallTables := rfl
@[simp] theorem State.putBytes_slots (s : State) (key off : Nat) (bs : List Byte) : (s.putBytes key off bs).slots = s.slots := rfl
@[simp] theorem State.putBytes_ctxs (s : State) (key off : Nat) (bs : List Byte) : (s.putBytes key off bs).ctxs = s.ctxs := rfl
@[simp] theorem State.putBytes_grids (s : State) (key off : Nat) (bs : List Byte) : (s.putBytes key off bs).grids = s.grids := rfl
@[simp] theorem State.putBytes_launches (s : State) (key off : Nat) (bs : List Byte) : (s.putBytes key off bs).launches = s.launches := rfl
@[simp] theorem State.putBytes_teams (s : State) (key off : Nat) (bs : List Byte) : (s.putBytes key off bs).teams = s.teams := rfl
@[simp] theorem State.putBytes_groups (s : State) (key off : Nat) (bs : List Byte) : (s.putBytes key off bs).groups = s.groups := rfl
@[simp] theorem State.putBytes_carve (s : State) (key off : Nat) (bs : List Byte) : (s.putBytes key off bs).carve = s.carve := rfl
@[simp] theorem State.putBytes_lineState (s : State) (key off : Nat) (bs : List Byte) : (s.putBytes key off bs).lineState = s.lineState := rfl
@[simp] theorem State.putBytes_l1 (s : State) (key off : Nat) (bs : List Byte) : (s.putBytes key off bs).l1 = s.l1 := rfl
@[simp] theorem State.putBytes_acc (s : State) (key off : Nat) (bs : List Byte) : (s.putBytes key off bs).acc = s.acc := rfl
@[simp] theorem State.putBytes_accOwner (s : State) (key off : Nat) (bs : List Byte) : (s.putBytes key off bs).accOwner = s.accOwner := rfl
@[simp] theorem State.putBytes_quads (s : State) (key off : Nat) (bs : List Byte) : (s.putBytes key off bs).quads = s.quads := rfl
@[simp] theorem State.putBytes_copies (s : State) (key off : Nat) (bs : List Byte) : (s.putBytes key off bs).copies = s.copies := rfl
@[simp] theorem State.putBytes_bursts (s : State) (key off : Nat) (bs : List Byte) : (s.putBytes key off bs).bursts = s.bursts := rfl
@[simp] theorem State.putBytes_owned (s : State) (key off : Nat) (bs : List Byte) : (s.putBytes key off bs).owned = s.owned := rfl
@[simp] theorem State.putBytes_held (s : State) (key off : Nat) (bs : List Byte) : (s.putBytes key off bs).held = s.held := rfl
@[simp] theorem State.putBytes_matOps (s : State) (key off : Nat) (bs : List Byte) : (s.putBytes key off bs).matOps = s.matOps := rfl
@[simp] theorem State.putBytes_batchFails (s : State) (key off : Nat) (bs : List Byte) : (s.putBytes key off bs).batchFails = s.batchFails := rfl
@[simp] theorem State.putBytes_batchFlags (s : State) (key off : Nat) (bs : List Byte) : (s.putBytes key off bs).batchFlags = s.batchFlags := rfl
@[simp] theorem State.putBytes_sliceReqs (s : State) (key off : Nat) (bs : List Byte) : (s.putBytes key off bs).sliceReqs = s.sliceReqs := rfl
@[simp] theorem State.putBytes_detBufs (s : State) (key off : Nat) (bs : List Byte) : (s.putBytes key off bs).detBufs = s.detBufs := rfl
@[simp] theorem State.putBytes_detRuns (s : State) (key off : Nat) (bs : List Byte) : (s.putBytes key off bs).detRuns = s.detRuns := rfl
@[simp] theorem State.putBytes_allow (s : State) (key off : Nat) (bs : List Byte) : (s.putBytes key off bs).allow = s.allow := rfl
@[simp] theorem State.putBytes_waiters (s : State) (key off : Nat) (bs : List Byte) : (s.putBytes key off bs).waiters = s.waiters := rfl
@[simp] theorem State.putBytes_ports (s : State) (key off : Nat) (bs : List Byte) : (s.putBytes key off bs).ports = s.ports := rfl
@[simp] theorem State.putBytes_passes (s : State) (key off : Nat) (bs : List Byte) : (s.putBytes key off bs).passes = s.passes := rfl
@[simp] theorem State.putBytes_pushes (s : State) (key off : Nat) (bs : List Byte) : (s.putBytes key off bs).pushes = s.pushes := rfl
@[simp] theorem State.putBytes_commits (s : State) (key off : Nat) (bs : List Byte) : (s.putBytes key off bs).commits = s.commits := rfl
@[simp] theorem State.putBytes_peerWaits (s : State) (key off : Nat) (bs : List Byte) : (s.putBytes key off bs).peerWaits = s.peerWaits := rfl
@[simp] theorem State.putBytes_staged (s : State) (key off : Nat) (bs : List Byte) : (s.putBytes key off bs).staged = s.staged := rfl
@[simp] theorem State.putBytes_keptResponses (s : State) (key off : Nat) (bs : List Byte) : (s.putBytes key off bs).keptResponses = s.keptResponses := rfl
@[simp] theorem State.putBytes_visits (s : State) (key off : Nat) (bs : List Byte) : (s.putBytes key off bs).visits = s.visits := rfl
@[simp] theorem State.putBytes_teamRels (s : State) (key off : Nat) (bs : List Byte) : (s.putBytes key off bs).teamRels = s.teamRels := rfl
@[simp] theorem State.putBytes_metWaits (s : State) (key off : Nat) (bs : List Byte) : (s.putBytes key off bs).metWaits = s.metWaits := rfl
@[simp] theorem State.putBytes_pushWaits (s : State) (key off : Nat) (bs : List Byte) : (s.putBytes key off bs).pushWaits = s.pushWaits := rfl
@[simp] theorem State.putBytes_colls (s : State) (key off : Nat) (bs : List Byte) : (s.putBytes key off bs).colls = s.colls := rfl
@[simp] theorem State.putBytes_collsDone (s : State) (key off : Nat) (bs : List Byte) : (s.putBytes key off bs).collsDone = s.collsDone := rfl
@[simp] theorem State.putBytes_wire (s : State) (key off : Nat) (bs : List Byte) : (s.putBytes key off bs).wire = s.wire := rfl
@[simp] theorem State.putBytes_mirrorReqs (s : State) (key off : Nat) (bs : List Byte) : (s.putBytes key off bs).mirrorReqs = s.mirrorReqs := rfl
@[simp] theorem State.putBytes_prismFull (s : State) (key off : Nat) (bs : List Byte) : (s.putBytes key off bs).prismFull = s.prismFull := rfl
@[simp] theorem State.putBytes_prismUnreachable (s : State) (key off : Nat) (bs : List Byte) : (s.putBytes key off bs).prismUnreachable = s.prismUnreachable := rfl
@[simp] theorem State.putBytes_outbox (s : State) (key off : Nat) (bs : List Byte) : (s.putBytes key off bs).outbox = s.outbox := rfl
@[simp] theorem State.putBytes_lantern (s : State) (key off : Nat) (bs : List Byte) : (s.putBytes key off bs).lantern = s.lantern := rfl
@[simp] theorem State.putBytes_counters (s : State) (key off : Nat) (bs : List Byte) : (s.putBytes key off bs).counters = s.counters := rfl
@[simp] theorem State.putBytes_attests (s : State) (key off : Nat) (bs : List Byte) : (s.putBytes key off bs).attests = s.attests := rfl
@[simp] theorem State.putBytes_attestRefused (s : State) (key off : Nat) (bs : List Byte) : (s.putBytes key off bs).attestRefused = s.attestRefused := rfl
@[simp] theorem State.putBytes_patchStore (s : State) (key off : Nat) (bs : List Byte) : (s.putBytes key off bs).patchStore = s.patchStore := rfl
@[simp] theorem State.putBytes_patchRunning (s : State) (key off : Nat) (bs : List Byte) : (s.putBytes key off bs).patchRunning = s.patchRunning := rfl
@[simp] theorem State.putBytes_oneWay (s : State) (key off : Nat) (bs : List Byte) : (s.putBytes key off bs).oneWay = s.oneWay := rfl

/-! ### State.send -/

@[simp] theorem State.send_agenda (s : State) (m : HostOut) : (s.send m).agenda = s.agenda := rfl
@[simp] theorem State.send_tick (s : State) (m : HostOut) : (s.send m).tick = s.tick := rfl
@[simp] theorem State.send_focus (s : State) (m : HostOut) : (s.send m).focus = s.focus := rfl
@[simp] theorem State.send_fresh (s : State) (m : HostOut) : (s.send m).fresh = s.fresh := rfl
@[simp] theorem State.send_laneCut (s : State) (m : HostOut) : (s.send m).laneCut = s.laneCut := rfl
@[simp] theorem State.send_cycles (s : State) (m : HostOut) : (s.send m).cycles = s.cycles := rfl
@[simp] theorem State.send_nanos (s : State) (m : HostOut) : (s.send m).nanos = s.nanos := rfl
@[simp] theorem State.send_devno (s : State) (m : HostOut) : (s.send m).devno = s.devno := rfl
@[simp] theorem State.send_aclkMHz (s : State) (m : HostOut) : (s.send m).aclkMHz = s.aclkMHz := rfl
@[simp] theorem State.send_aclkSince (s : State) (m : HostOut) : (s.send m).aclkSince = s.aclkSince := rfl
@[simp] theorem State.send_stopped (s : State) (m : HostOut) : (s.send m).stopped = s.stopped := rfl
@[simp] theorem State.send_tripped (s : State) (m : HostOut) : (s.send m).tripped = s.tripped := rfl
@[simp] theorem State.send_booted (s : State) (m : HostOut) : (s.send m).booted = s.booted := rfl
@[simp] theorem State.send_mem (s : State) (m : HostOut) : (s.send m).mem = s.mem := rfl
@[simp] theorem State.send_poison (s : State) (m : HostOut) : (s.send m).poison = s.poison := rfl
@[simp] theorem State.send_offlineSlices (s : State) (m : HostOut) : (s.send m).offlineSlices = s.offlineSlices := rfl
@[simp] theorem State.send_offlineStacks (s : State) (m : HostOut) : (s.send m).offlineStacks = s.offlineStacks := rfl
@[simp] theorem State.send_ptroot (s : State) (m : HostOut) : (s.send m).ptroot = s.ptroot := rfl
@[simp] theorem State.send_tlb (s : State) (m : HostOut) : (s.send m).tlb = s.tlb := rfl
@[simp] theorem State.send_pool (s : State) (m : HostOut) : (s.send m).pool = s.pool := rfl
@[simp] theorem State.send_smallTables (s : State) (m : HostOut) : (s.send m).smallTables = s.smallTables := rfl
@[simp] theorem State.send_slots (s : State) (m : HostOut) : (s.send m).slots = s.slots := rfl
@[simp] theorem State.send_ctxs (s : State) (m : HostOut) : (s.send m).ctxs = s.ctxs := rfl
@[simp] theorem State.send_grids (s : State) (m : HostOut) : (s.send m).grids = s.grids := rfl
@[simp] theorem State.send_launches (s : State) (m : HostOut) : (s.send m).launches = s.launches := rfl
@[simp] theorem State.send_teams (s : State) (m : HostOut) : (s.send m).teams = s.teams := rfl
@[simp] theorem State.send_groups (s : State) (m : HostOut) : (s.send m).groups = s.groups := rfl
@[simp] theorem State.send_carve (s : State) (m : HostOut) : (s.send m).carve = s.carve := rfl
@[simp] theorem State.send_lineState (s : State) (m : HostOut) : (s.send m).lineState = s.lineState := rfl
@[simp] theorem State.send_l1 (s : State) (m : HostOut) : (s.send m).l1 = s.l1 := rfl
@[simp] theorem State.send_acc (s : State) (m : HostOut) : (s.send m).acc = s.acc := rfl
@[simp] theorem State.send_accOwner (s : State) (m : HostOut) : (s.send m).accOwner = s.accOwner := rfl
@[simp] theorem State.send_quads (s : State) (m : HostOut) : (s.send m).quads = s.quads := rfl
@[simp] theorem State.send_copies (s : State) (m : HostOut) : (s.send m).copies = s.copies := rfl
@[simp] theorem State.send_bursts (s : State) (m : HostOut) : (s.send m).bursts = s.bursts := rfl
@[simp] theorem State.send_owned (s : State) (m : HostOut) : (s.send m).owned = s.owned := rfl
@[simp] theorem State.send_held (s : State) (m : HostOut) : (s.send m).held = s.held := rfl
@[simp] theorem State.send_matOps (s : State) (m : HostOut) : (s.send m).matOps = s.matOps := rfl
@[simp] theorem State.send_batchFails (s : State) (m : HostOut) : (s.send m).batchFails = s.batchFails := rfl
@[simp] theorem State.send_batchFlags (s : State) (m : HostOut) : (s.send m).batchFlags = s.batchFlags := rfl
@[simp] theorem State.send_sliceReqs (s : State) (m : HostOut) : (s.send m).sliceReqs = s.sliceReqs := rfl
@[simp] theorem State.send_detBufs (s : State) (m : HostOut) : (s.send m).detBufs = s.detBufs := rfl
@[simp] theorem State.send_detRuns (s : State) (m : HostOut) : (s.send m).detRuns = s.detRuns := rfl
@[simp] theorem State.send_allow (s : State) (m : HostOut) : (s.send m).allow = s.allow := rfl
@[simp] theorem State.send_waiters (s : State) (m : HostOut) : (s.send m).waiters = s.waiters := rfl
@[simp] theorem State.send_ports (s : State) (m : HostOut) : (s.send m).ports = s.ports := rfl
@[simp] theorem State.send_passes (s : State) (m : HostOut) : (s.send m).passes = s.passes := rfl
@[simp] theorem State.send_pushes (s : State) (m : HostOut) : (s.send m).pushes = s.pushes := rfl
@[simp] theorem State.send_commits (s : State) (m : HostOut) : (s.send m).commits = s.commits := rfl
@[simp] theorem State.send_peerWaits (s : State) (m : HostOut) : (s.send m).peerWaits = s.peerWaits := rfl
@[simp] theorem State.send_staged (s : State) (m : HostOut) : (s.send m).staged = s.staged := rfl
@[simp] theorem State.send_keptResponses (s : State) (m : HostOut) : (s.send m).keptResponses = s.keptResponses := rfl
@[simp] theorem State.send_visits (s : State) (m : HostOut) : (s.send m).visits = s.visits := rfl
@[simp] theorem State.send_teamRels (s : State) (m : HostOut) : (s.send m).teamRels = s.teamRels := rfl
@[simp] theorem State.send_metWaits (s : State) (m : HostOut) : (s.send m).metWaits = s.metWaits := rfl
@[simp] theorem State.send_pushWaits (s : State) (m : HostOut) : (s.send m).pushWaits = s.pushWaits := rfl
@[simp] theorem State.send_colls (s : State) (m : HostOut) : (s.send m).colls = s.colls := rfl
@[simp] theorem State.send_collsDone (s : State) (m : HostOut) : (s.send m).collsDone = s.collsDone := rfl
@[simp] theorem State.send_wire (s : State) (m : HostOut) : (s.send m).wire = s.wire := rfl
@[simp] theorem State.send_mirrorReqs (s : State) (m : HostOut) : (s.send m).mirrorReqs = s.mirrorReqs := rfl
@[simp] theorem State.send_prismFull (s : State) (m : HostOut) : (s.send m).prismFull = s.prismFull := rfl
@[simp] theorem State.send_prismUnreachable (s : State) (m : HostOut) : (s.send m).prismUnreachable = s.prismUnreachable := rfl
@[simp] theorem State.send_lantern (s : State) (m : HostOut) : (s.send m).lantern = s.lantern := rfl
@[simp] theorem State.send_counters (s : State) (m : HostOut) : (s.send m).counters = s.counters := rfl
@[simp] theorem State.send_attests (s : State) (m : HostOut) : (s.send m).attests = s.attests := rfl
@[simp] theorem State.send_attestRefused (s : State) (m : HostOut) : (s.send m).attestRefused = s.attestRefused := rfl
@[simp] theorem State.send_patchStore (s : State) (m : HostOut) : (s.send m).patchStore = s.patchStore := rfl
@[simp] theorem State.send_patchRunning (s : State) (m : HostOut) : (s.send m).patchRunning = s.patchRunning := rfl
@[simp] theorem State.send_oneWay (s : State) (m : HostOut) : (s.send m).oneWay = s.oneWay := rfl

/-! ### State.withFocus -/

@[simp] theorem State.withFocus_agenda (s : State) (k slot : Nat) : (s.withFocus k slot).agenda = s.agenda := rfl
@[simp] theorem State.withFocus_tick (s : State) (k slot : Nat) : (s.withFocus k slot).tick = s.tick := rfl
@[simp] theorem State.withFocus_fresh (s : State) (k slot : Nat) : (s.withFocus k slot).fresh = s.fresh := rfl
@[simp] theorem State.withFocus_laneCut (s : State) (k slot : Nat) : (s.withFocus k slot).laneCut = s.laneCut := rfl
@[simp] theorem State.withFocus_cycles (s : State) (k slot : Nat) : (s.withFocus k slot).cycles = s.cycles := rfl
@[simp] theorem State.withFocus_nanos (s : State) (k slot : Nat) : (s.withFocus k slot).nanos = s.nanos := rfl
@[simp] theorem State.withFocus_devno (s : State) (k slot : Nat) : (s.withFocus k slot).devno = s.devno := rfl
@[simp] theorem State.withFocus_aclkMHz (s : State) (k slot : Nat) : (s.withFocus k slot).aclkMHz = s.aclkMHz := rfl
@[simp] theorem State.withFocus_aclkSince (s : State) (k slot : Nat) : (s.withFocus k slot).aclkSince = s.aclkSince := rfl
@[simp] theorem State.withFocus_stopped (s : State) (k slot : Nat) : (s.withFocus k slot).stopped = s.stopped := rfl
@[simp] theorem State.withFocus_tripped (s : State) (k slot : Nat) : (s.withFocus k slot).tripped = s.tripped := rfl
@[simp] theorem State.withFocus_booted (s : State) (k slot : Nat) : (s.withFocus k slot).booted = s.booted := rfl
@[simp] theorem State.withFocus_mem (s : State) (k slot : Nat) : (s.withFocus k slot).mem = s.mem := rfl
@[simp] theorem State.withFocus_poison (s : State) (k slot : Nat) : (s.withFocus k slot).poison = s.poison := rfl
@[simp] theorem State.withFocus_offlineSlices (s : State) (k slot : Nat) : (s.withFocus k slot).offlineSlices = s.offlineSlices := rfl
@[simp] theorem State.withFocus_offlineStacks (s : State) (k slot : Nat) : (s.withFocus k slot).offlineStacks = s.offlineStacks := rfl
@[simp] theorem State.withFocus_ptroot (s : State) (k slot : Nat) : (s.withFocus k slot).ptroot = s.ptroot := rfl
@[simp] theorem State.withFocus_tlb (s : State) (k slot : Nat) : (s.withFocus k slot).tlb = s.tlb := rfl
@[simp] theorem State.withFocus_pool (s : State) (k slot : Nat) : (s.withFocus k slot).pool = s.pool := rfl
@[simp] theorem State.withFocus_smallTables (s : State) (k slot : Nat) : (s.withFocus k slot).smallTables = s.smallTables := rfl
@[simp] theorem State.withFocus_slots (s : State) (k slot : Nat) : (s.withFocus k slot).slots = s.slots := rfl
@[simp] theorem State.withFocus_ctxs (s : State) (k slot : Nat) : (s.withFocus k slot).ctxs = s.ctxs := rfl
@[simp] theorem State.withFocus_grids (s : State) (k slot : Nat) : (s.withFocus k slot).grids = s.grids := rfl
@[simp] theorem State.withFocus_launches (s : State) (k slot : Nat) : (s.withFocus k slot).launches = s.launches := rfl
@[simp] theorem State.withFocus_teams (s : State) (k slot : Nat) : (s.withFocus k slot).teams = s.teams := rfl
@[simp] theorem State.withFocus_groups (s : State) (k slot : Nat) : (s.withFocus k slot).groups = s.groups := rfl
@[simp] theorem State.withFocus_carve (s : State) (k slot : Nat) : (s.withFocus k slot).carve = s.carve := rfl
@[simp] theorem State.withFocus_lineState (s : State) (k slot : Nat) : (s.withFocus k slot).lineState = s.lineState := rfl
@[simp] theorem State.withFocus_l1 (s : State) (k slot : Nat) : (s.withFocus k slot).l1 = s.l1 := rfl
@[simp] theorem State.withFocus_acc (s : State) (k slot : Nat) : (s.withFocus k slot).acc = s.acc := rfl
@[simp] theorem State.withFocus_accOwner (s : State) (k slot : Nat) : (s.withFocus k slot).accOwner = s.accOwner := rfl
@[simp] theorem State.withFocus_quads (s : State) (k slot : Nat) : (s.withFocus k slot).quads = s.quads := rfl
@[simp] theorem State.withFocus_copies (s : State) (k slot : Nat) : (s.withFocus k slot).copies = s.copies := rfl
@[simp] theorem State.withFocus_bursts (s : State) (k slot : Nat) : (s.withFocus k slot).bursts = s.bursts := rfl
@[simp] theorem State.withFocus_owned (s : State) (k slot : Nat) : (s.withFocus k slot).owned = s.owned := rfl
@[simp] theorem State.withFocus_held (s : State) (k slot : Nat) : (s.withFocus k slot).held = s.held := rfl
@[simp] theorem State.withFocus_matOps (s : State) (k slot : Nat) : (s.withFocus k slot).matOps = s.matOps := rfl
@[simp] theorem State.withFocus_batchFails (s : State) (k slot : Nat) : (s.withFocus k slot).batchFails = s.batchFails := rfl
@[simp] theorem State.withFocus_batchFlags (s : State) (k slot : Nat) : (s.withFocus k slot).batchFlags = s.batchFlags := rfl
@[simp] theorem State.withFocus_sliceReqs (s : State) (k slot : Nat) : (s.withFocus k slot).sliceReqs = s.sliceReqs := rfl
@[simp] theorem State.withFocus_detBufs (s : State) (k slot : Nat) : (s.withFocus k slot).detBufs = s.detBufs := rfl
@[simp] theorem State.withFocus_detRuns (s : State) (k slot : Nat) : (s.withFocus k slot).detRuns = s.detRuns := rfl
@[simp] theorem State.withFocus_allow (s : State) (k slot : Nat) : (s.withFocus k slot).allow = s.allow := rfl
@[simp] theorem State.withFocus_waiters (s : State) (k slot : Nat) : (s.withFocus k slot).waiters = s.waiters := rfl
@[simp] theorem State.withFocus_ports (s : State) (k slot : Nat) : (s.withFocus k slot).ports = s.ports := rfl
@[simp] theorem State.withFocus_passes (s : State) (k slot : Nat) : (s.withFocus k slot).passes = s.passes := rfl
@[simp] theorem State.withFocus_pushes (s : State) (k slot : Nat) : (s.withFocus k slot).pushes = s.pushes := rfl
@[simp] theorem State.withFocus_commits (s : State) (k slot : Nat) : (s.withFocus k slot).commits = s.commits := rfl
@[simp] theorem State.withFocus_peerWaits (s : State) (k slot : Nat) : (s.withFocus k slot).peerWaits = s.peerWaits := rfl
@[simp] theorem State.withFocus_staged (s : State) (k slot : Nat) : (s.withFocus k slot).staged = s.staged := rfl
@[simp] theorem State.withFocus_keptResponses (s : State) (k slot : Nat) : (s.withFocus k slot).keptResponses = s.keptResponses := rfl
@[simp] theorem State.withFocus_visits (s : State) (k slot : Nat) : (s.withFocus k slot).visits = s.visits := rfl
@[simp] theorem State.withFocus_teamRels (s : State) (k slot : Nat) : (s.withFocus k slot).teamRels = s.teamRels := rfl
@[simp] theorem State.withFocus_metWaits (s : State) (k slot : Nat) : (s.withFocus k slot).metWaits = s.metWaits := rfl
@[simp] theorem State.withFocus_pushWaits (s : State) (k slot : Nat) : (s.withFocus k slot).pushWaits = s.pushWaits := rfl
@[simp] theorem State.withFocus_colls (s : State) (k slot : Nat) : (s.withFocus k slot).colls = s.colls := rfl
@[simp] theorem State.withFocus_collsDone (s : State) (k slot : Nat) : (s.withFocus k slot).collsDone = s.collsDone := rfl
@[simp] theorem State.withFocus_wire (s : State) (k slot : Nat) : (s.withFocus k slot).wire = s.wire := rfl
@[simp] theorem State.withFocus_mirrorReqs (s : State) (k slot : Nat) : (s.withFocus k slot).mirrorReqs = s.mirrorReqs := rfl
@[simp] theorem State.withFocus_prismFull (s : State) (k slot : Nat) : (s.withFocus k slot).prismFull = s.prismFull := rfl
@[simp] theorem State.withFocus_prismUnreachable (s : State) (k slot : Nat) : (s.withFocus k slot).prismUnreachable = s.prismUnreachable := rfl
@[simp] theorem State.withFocus_outbox (s : State) (k slot : Nat) : (s.withFocus k slot).outbox = s.outbox := rfl
@[simp] theorem State.withFocus_lantern (s : State) (k slot : Nat) : (s.withFocus k slot).lantern = s.lantern := rfl
@[simp] theorem State.withFocus_counters (s : State) (k slot : Nat) : (s.withFocus k slot).counters = s.counters := rfl
@[simp] theorem State.withFocus_attests (s : State) (k slot : Nat) : (s.withFocus k slot).attests = s.attests := rfl
@[simp] theorem State.withFocus_attestRefused (s : State) (k slot : Nat) : (s.withFocus k slot).attestRefused = s.attestRefused := rfl
@[simp] theorem State.withFocus_patchStore (s : State) (k slot : Nat) : (s.withFocus k slot).patchStore = s.patchStore := rfl
@[simp] theorem State.withFocus_patchRunning (s : State) (k slot : Nat) : (s.withFocus k slot).patchRunning = s.patchRunning := rfl
@[simp] theorem State.withFocus_oneWay (s : State) (k slot : Nat) : (s.withFocus k slot).oneWay = s.oneWay := rfl

/-! ### What an update does to its own field -/

@[simp] theorem State.group?_mapGroup_same (s : State) (k : Nat) (f : Group → Group) : (s.mapGroup k f).group? k = (s.group? k).map f :=
  alGet_alMap_same s.groups k f

theorem State.group?_mapGroup_other (s : State) {k a : Nat} (f : Group → Group) (h : a ≠ k) : (s.mapGroup k f).group? a = s.group? a :=
  alGet_alMap_other s.groups f h

@[simp] theorem State.group?_putGroup_same (s : State) (k : Nat) (g : Group) : (s.putGroup k g).group? k = some g :=
  alGet_smIns_same s.groups k g

theorem State.group?_putGroup_other (s : State) {k a : Nat} (g : Group) (h : a ≠ k) : (s.putGroup k g).group? a = s.group? a :=
  alGet_smIns_other s.groups g h

theorem State.group?_delGroup_other (s : State) {k a : Nat} (h : a ≠ k) : (s.delGroup k).group? a = s.group? a :=
  alGet_smDel_other s.groups h

@[simp] theorem State.ctx?_mapCtx_same (s : State) (n : Nat) (f : Context → Context) : (s.mapCtx n f).ctx? n = (s.ctx? n).map f :=
  alGet_alMap_same s.ctxs n f

end Sys2Proof.Machine
end

