-- ==== Sys2Proof/Laws/Issue.lean ====
section
/-! SUPPORT. What the shared operations of issue answer (05 R74, 04 R57, 08 R159): everything that issueWord and performWord can do, and the plain case that most words take. -/

namespace Sys2Proof.Machine

/-- A word issues only for an agent and a split in focus that exist; otherwise the machine stops with noIssuer. It never refuses. -/
theorem issueWord_cases (i : Instr) (fm : Form) (body : Env → State → Res) (s : State) :
    issueWord i fm body s = .fault .noIssuer ∨
      ∃ k slot g sp, s.focus = some (k, slot) ∧ s.group? k = some g ∧ g.split? slot = some sp ∧
        ((∃ c, decodeTrap i g sp.hints = some c ∧
            issueWord i fm body s = .next (s.wordTrap k slot sp.pc (sp.exec &&& windowLanes g sp.hints) (trapOf c))) ∨
          (decodeTrap i g sp.hints = none ∧ g.handing = true ∧ Instr.waitsHanded i = true ∧
            issueWord i fm body s = .next (s.holdSplit k slot .handed)) ∨
          (decodeTrap i g sp.hints = none ∧
            issueWord i fm body s = .next (performWord fm body s k slot g (if Instr.ignoresMod i then sp.dropMod else sp)))) := by
  unfold issueWord
  split
  · exact .inl rfl
  · rename_i k slot hf
    split
    · exact .inl rfl
    · rename_i g hg
      split
      · exact .inl rfl
      · rename_i sp hs
        refine .inr ⟨k, slot, g, sp, hf, hg, hs, ?_⟩
        split
        · rename_i c hc
          exact .inl ⟨c, hc, rfl⟩
        · rename_i hc
          split
          · rename_i hw
            simp only [Bool.and_eq_true] at hw
            exact .inr (.inl ⟨hc, hw.1, hw.2, rfl⟩)
          · exact .inr (.inr ⟨hc, rfl⟩)

/-- A word that passes its decode is performed, when no effect of a commit is outstanding or it does not wait for one. -/
theorem issueWord_next {i : Instr} {fm : Form} {body : Env → State → Res} {s : State} {k slot : Nat} {g : Group} {sp : Split}
    (hf : s.focus = some (k, slot)) (hg : s.group? k = some g) (hs : g.split? slot = some sp) (hd : decodeTrap i g sp.hints = none)
    (hw : (g.handing && Instr.waitsHanded i) = false) :
    issueWord i fm body s = .next (performWord fm body s k slot g (if Instr.ignoresMod i then sp.dropMod else sp)) := by
  simp [issueWord, hf, hg, hs, hd, hw]

/-- A word that fails its decode traps. -/
theorem issueWord_trap {i : Instr} {fm : Form} {body : Env → State → Res} {s : State} {k slot c : Nat} {g : Group} {sp : Split}
    (hf : s.focus = some (k, slot)) (hg : s.group? k = some g) (hs : g.split? slot = some sp) (hd : decodeTrap i g sp.hints = some c) :
    issueWord i fm body s = .next (s.wordTrap k slot sp.pc (sp.exec &&& windowLanes g sp.hints) (trapOf c)) := by
  simp [issueWord, hf, hg, hs, hd]

/-- A word that takes no effect only advances the PC. -/
theorem performWord_idle {fm : Form} {body : Env → State → Res} {s : State} {k slot : Nat} {g : Group} {sp : Split}
    (hl : fm.long = none) (hr : g.replaysAt slot sp.pc = false)
    (ht : takesEffect fm sp.hints (sp.exec &&& windowLanes g sp.hints) = false) :
    performWord fm body s k slot g sp = s.mapSplit k slot Split.advance := by
  simp [performWord, envOf, hl, hr, ht]

/-- The writes of a group wait for nothing when no issued operation has a register of it left to read (13 R271). -/
theorem State.writeWaits_none {s : State} (t : State) {k : Nat} (h : s.readsLeft k = []) : s.writeWaits t k = [] := by
  unfold State.writeWaits
  split
  · simp [h]
  · rfl

/-- The registers of a group that are left to read are read from the operations alone. -/
theorem State.readsLeft_congr {s t : State} (k : Nat) (h : t.matOps = s.matOps) : t.readsLeft k = s.readsLeft k := by simp [State.readsLeft, h]

/-- A group that keeps its vector elements and sidecars differs in no register tile. -/
theorem Group.tileDiffers_same {g h : Group} (n : Nat) (hv : h.v = g.v) (hs : h.side = g.side) : g.tileDiffers h n = false := by
  simp [Group.tileDiffers, hv, hs]

/-- A word whose effect writes no register that an operation has yet to read is followed as it is. -/
theorem State.settleWord_finish {s : State} {e : Env} {r : Res} (h : ∀ t, r.state? = some t → s.writeWaits t e.k = []) :
    s.settleWord e r = s.finish e r := by
  unfold State.settleWord
  cases hr : r.state? with
  | none => rfl
  | some t => simp [h t hr]

/-- A word whose effect writes a register that an operation has yet to read is held until that read. -/
theorem State.settleWord_holds {s t : State} {e : Env} {r : Res} (hr : r.state? = some t) (h : s.writeWaits t e.k ≠ []) :
    s.settleWord e r = s.holdSplit e.k e.slot (.regWrite (s.writeWaits t e.k)) := by
  unfold State.settleWord
  simp only [hr, Option.map_some, Option.getD_some]

/-- A word that is no long-latency form, commits nothing and is not the first of a replay performs its body. -/
theorem performWord_plain {fm : Form} {body : Env → State → Res} {s : State} {k slot : Nat} {g : Group} {sp : Split}
    (hg : s.group? k = some g) (hl : fm.long = none) (hc : fm.commits = false) (hr : g.replaysAt slot sp.pc = false)
    (ht : takesEffect fm sp.hints (sp.exec &&& windowLanes g sp.hints) = true)
    (hw : ∀ t, (body (envOf k slot g sp false) s).state? = some t → s.writeWaits t k = []) :
    performWord fm body s k slot g sp = s.finish (envOf k slot g sp false) (body (envOf k slot g sp false) s) := by
  have ht' : takesEffect fm sp.hints (envOf k slot g sp false).act = true := ht
  have hrep : (envOf k slot g sp false).replay = false := rfl
  rw [← State.settleWord_finish hw]
  simp [performWord, hl, hc, hr, ht', hg, hrep]
  rfl

/-- A plain word whose effect is on its group alone: the group's new value, and the split past the word. -/
theorem groupWord_next {i : Instr} {fm : Form} {f : Env → Group} {s : State} {k slot : Nat} {g : Group} {sp : Split}
    (hf : s.focus = some (k, slot)) (hg : s.group? k = some g) (hs : g.split? slot = some sp) (hd : decodeTrap i g sp.hints = none)
    (hw : Instr.waitsHanded i = false) (hm : Instr.ignoresMod i = false) (hl : fm.long = none) (hc : fm.commits = false) (hr : g.replaysAt slot sp.pc = false)
    (ht : takesEffect fm sp.hints (sp.exec &&& windowLanes g sp.hints) = true)
    (hv : s.writeWaits (s.putGroup k (f (envOf k slot g sp false))) k = []) :
    groupWord i fm f s = .next ((s.putGroup k (f (envOf k slot g sp false))).mapSplit k slot Split.advance) := by
  rw [groupWord, issueWord_next hf hg hs hd (by simp [hw]), hm]
  rw [if_neg (by decide), performWord_plain (body := fun e s => .next (s.putGroup e.k (f e))) hg hl hc hr ht fun t h => by cases h; exact hv]
  rfl

/-- A word that is counted and takes effect performs its body in the state after the commit that its form makes first. -/
theorem performWord_effect {fm : Form} {body : Env → State → Res} {s s1 : State} {k slot : Nat} {g g1 : Group} {sp : Split}
    (hl : fm.long = some true → (envOf k slot g sp false).flag ≠ none)
    (hn : fm.long.isSome = true → ∀ n, (envOf k slot g sp false).flag = some n → g.flagCount n < 63)
    (hr : g.replaysAt slot sp.pc = false) (ht : takesEffect fm sp.hints (sp.exec &&& windowLanes g sp.hints) = true)
    (hc : (if fm.commits = true then s.commitFirst k slot sp.pc else .ok s) = .ok s1) (hg : s1.group? k = some g1)
    (hp : (fm.commits && s.stopsAfterCommit k g) = false)
    (hw : ∀ t, (body { envOf k slot g sp false with g := g1 } s1).state? = some t → s1.writeWaits t k = []) :
    performWord fm body s k slot g sp
      = s1.finish { envOf k slot g sp false with g := g1 } (body { envOf k slot g sp false with g := g1 } s1) := by
  have ht' : takesEffect fm sp.hints (envOf k slot g sp false).act = true := ht
  have hrep : (envOf k slot g sp false).replay = false := rfl
  have h1 : (decide (fm.long = some true) && (envOf k slot g sp false).flag.isNone) = false := by
    cases hf : (envOf k slot g sp false).flag with
    | none => simpa using fun h => hl h hf
    | some n => simp
  have h2 : (fm.long.isSome && ((envOf k slot g sp false).flag.map fun n => decide (63 ≤ g.flagCount n)).getD false) = false := by
    cases hs : fm.long.isSome with
    | false => rfl
    | true =>
      cases hf : (envOf k slot g sp false).flag with
      | none => rfl
      | some n => simpa using hn hs n hf
  rw [← State.settleWord_finish hw]
  simp only [performWord, hr, h1, h2, ht', hrep, hc, hp, Bool.false_and, Bool.false_eq_true, Bool.not_true, if_false, hg, ite_self]

end Sys2Proof.Machine
end

