-- ==== Sys2Proof/Laws/Lanes.lean ====
section
/-! SUPPORT. What the operations over the lanes of a group leave: the lanes of a mask, and results written lane by lane (06 R99). -/

namespace Sys2Proof.Machine

/-! ### Lanes of a mask -/

theorem mem_lanesFrom {m : Mask} {a n l : Nat} : l ∈ lanesFrom m a n ↔ a ≤ l ∧ l < a + n ∧ hasLane m l = true := by
  induction n generalizing a with
  | zero => simp [lanesFrom]; omega
  | succ n ih =>
    simp only [lanesFrom]
    split
    · rename_i h
      simp only [List.mem_cons, ih]
      constructor
      · rintro (rfl | ⟨h1, h2, h3⟩)
        · exact ⟨Nat.le_refl _, by omega, h⟩
        · exact ⟨by omega, by omega, h3⟩
      · rintro ⟨h1, h2, h3⟩
        by_cases h4 : l = a
        · exact .inl h4
        · exact .inr ⟨by omega, by omega, h3⟩
    · rename_i h
      rw [ih]
      constructor
      · rintro ⟨h1, h2, h3⟩
        exact ⟨by omega, by omega, h3⟩
      · rintro ⟨h1, h2, h3⟩
        have : l ≠ a := by rintro rfl; exact h h3
        exact ⟨by omega, by omega, h3⟩

theorem hasLane_lt {m : Mask} {l : Nat} (h : hasLane m l = true) : l < 64 := by
  by_contra hl
  have : m.getLsbD l = false := BitVec.getLsbD_of_ge _ _ (by omega)
  simp [hasLane, this] at h

/-- The active lanes of a form are lanes below 64 that the mask holds. -/
theorem mem_lanes {e : Env} {l : Nat} : l ∈ e.lanes ↔ l < e.g.width ∧ hasLane e.act l = true := by
  simp [Env.lanes, mem_lanesFrom]

theorem lanes_lt {e : Env} {l : Nat} (h : l ∈ e.lanes) : l < 64 := hasLane_lt (mem_lanes.1 h).2

/-! ### Elements of the sparse register file -/

theorem laneKey_inj {r r' l l' : Nat} (hl : l < 64) (hl' : l' < 64) : r * 64 + l = r' * 64 + l' ↔ r = r' ∧ l = l' := by
  omega

@[simp] theorem Group.setV_v (g : Group) (r l : Nat) (x : Word) : (g.setV r l x).v = smPut 0 g.v (r * 64 + l) x := rfl
@[simp] theorem Group.raise_v (g : Group) (f : BitVec 8) : (g.raise f).v = g.v := rfl
@[simp] theorem Group.raise_raise (g : Group) (f h : BitVec 8) : (g.raise f).raise h = g.raise (f ||| h) := by
  simp [Group.raise, BitVec.or_assoc]
theorem Group.setV_raise (g : Group) (r l : Nat) (x : Word) (f : BitVec 8) : (g.raise f).setV r l x = (g.setV r l x).raise f := rfl

end Sys2Proof.Machine
end

