-- ==== Sys2Proof/Laws/Mem.lean ====
section
/-! SUPPORT. Memory operations keep memory's canonical form; what each of them can change: the writes of bytes and lines, the write-backs and discards of L1 lines, the ordered accesses built on them. -/

namespace Sys2Proof.Machine

/-! ### Writes at home -/

theorem memGet_memClear (m : Memory) (a b c : Nat) : memGet (memClear m a b) c = if a ≤ c ∧ c < b then 0 else memGet m c := by
  unfold memGet memClear
  induction m with
  | nil => simp [smGet]
  | cons e r ih =>
    obtain ⟨j, v⟩ := e
    by_cases hj : j < a ∨ b ≤ j
    · rw [List.filter_cons_of_pos (by simpa using hj)]
      simp only [smGet]
      by_cases hc : j = c
      · subst hc; simp; omega
      · simp only [hc, if_false]; exact ih
    · rw [List.filter_cons_of_neg (by simpa using hj), ih]
      simp only [smGet]
      by_cases hc : j = c
      · subst hc
        rw [if_pos (by omega), if_pos (by omega)]
      · simp [hc]

@[simp] theorem State.putBytes_mem (s : State) (k o : Nat) (bs : List Byte) : (s.putBytes k o bs).mem = memPuts s.mem (k * 256 + o) bs := rfl
@[simp] theorem State.putLine_l1 (s : State) (k : Nat) (bs : List Byte) : (s.putLine k bs).l1 = s.l1 := rfl

/-- A write of bytes keeps the canonical form. -/
theorem State.putBytes_wf {s : State} (k o : Nat) (bs : List Byte) (h : s.mem.wf = true) : (s.putBytes k o bs).mem.wf = true :=
  memPuts_wf _ _ h

/-- A write of a whole line keeps the canonical form. -/
theorem State.putLine_wf {s : State} (k : Nat) (bs : List Byte) (h : s.mem.wf = true) : (s.putLine k bs).mem.wf = true :=
  memPuts_wf _ _ (memClear_wf _ _ h)

/-- A write of a whole line changes that line alone. -/
theorem State.putLine_get_other (s : State) {k a : Nat} (bs : List Byte) (h : a / 256 ≠ k) : memGet (s.putLine k bs).mem a = memGet s.mem a := by
  have hl : (slice bs 0 138).length = 138 := by simp [slice]
  rw [State.putLine, memGet_memPuts_other _ _ _ (by rw [hl]; omega), memGet_memClear, if_neg (by omega)]

/-- A write of bytes changes the bytes it covers alone. -/
theorem State.putBytes_get_other (s : State) {k o a : Nat} (bs : List Byte) (h : a < k * 256 + o ∨ k * 256 + o + bs.length ≤ a) :
    memGet (s.putBytes k o bs).mem a = memGet s.mem a := memGet_memPuts_other _ _ _ h

/-- A write of bytes leaves those bytes. -/
theorem State.putBytes_get_same (s : State) (k o : Nat) (bs : List Byte) {i : Nat} (h : i < bs.length) :
    memGet (s.putBytes k o bs).mem (k * 256 + o + i) = bs[i] := memGet_memPuts_same _ _ _ h

/-- Single bytes of a line are written one by one. -/
theorem State.putEach_only (s : State) (k : Nat) (es : List (Nat × Byte)) :
    s.putEach k es = { s with mem := (s.putEach k es).mem } ∧ (s.mem.wf = true → (s.putEach k es).mem.wf = true) ∧
      ∀ a, (∀ e ∈ es, a ≠ k * 256 + e.1) → memGet (s.putEach k es).mem a = memGet s.mem a := by
  induction es generalizing s with
  | nil => exact ⟨rfl, id, fun _ _ => rfl⟩
  | cons e r ih =>
    obtain ⟨h1, h2, h3⟩ := ih (s.putBytes k e.1 [e.2])
    refine ⟨by rw [State.putEach, h1]; rfl, fun h => h2 (memPuts_wf _ _ h), fun a ha => ?_⟩
    rw [State.putEach, h3 a fun x hx => ha x (List.mem_cons_of_mem _ hx)]
    have := ha e List.mem_cons_self
    exact s.putBytes_get_other [e.2] (by simp; omega)

/-- Marked bytes lie within the 138 of a line. -/
theorem markedBytes_lt {m : BitVec 138} {bs : List Byte} {i : Nat} {e : Nat × Byte} (h : e ∈ markedBytes m bs i) : e.1 < 138 := by
  induction bs generalizing i with
  | nil => simp [markedBytes] at h
  | cons b r ih =>
    unfold markedBytes at h
    split at h
    · rename_i hm
      rcases List.mem_cons.1 h with rfl | h
      · by_contra hn
        rw [BitVec.getLsbD_of_ge _ _ (by omega)] at hm
        cases hm
      · exact ih h
    · exact ih h

/-! ### What write-backs and discards can change -/

/-- Only memory, L1 lines, the releases remembered at .team scope and the waits found satisfied change; memory keeps its form; a byte of a line that no L1 holds dirty keeps its value; a line that is dirty afterwards was so before, with the same home. -/
structure CacheOnly (s t : State) : Prop where
  rest : t = { s with mem := t.mem, l1 := t.l1, teamRels := t.teamRels, metWaits := t.metWaits }
  wf : s.mem.wf = true → t.mem.wf = true
  frame : ∀ a, (∀ x ∈ s.l1, x.2.dirty ≠ 0 → x.2.home ≠ a / 256) → memGet t.mem a = memGet s.mem a
  homes : ∀ x ∈ t.l1, x.2.dirty ≠ 0 → ∃ y ∈ s.l1, y.2.dirty ≠ 0 ∧ y.2.home = x.2.home

theorem CacheOnly.refl (s : State) : CacheOnly s s := ⟨rfl, id, fun _ _ => rfl, fun x hx hd => ⟨x, hx, hd, rfl⟩⟩

theorem CacheOnly.trans {s t u : State} (h : CacheOnly s t) (h' : CacheOnly t u) : CacheOnly s u where
  rest := by rw [h'.rest, h.rest]
  wf w := h'.wf (h.wf w)
  frame a ha := by
    rw [h'.frame a fun x hx hd => ?_, h.frame a ha]
    obtain ⟨y, hy, hyd, hyh⟩ := h.homes x hx hd
    exact hyh ▸ ha y hy hyd
  homes x hx hd := by
    obtain ⟨y, hy, hyd, hyh⟩ := h'.homes x hx hd
    obtain ⟨z, hz, hzd, hzh⟩ := h.homes y hy hyd
    exact ⟨z, hz, hzd, hzh.trans hyh⟩

/-- A frame in the words of the claims: bytes of lines that no L1 holds a copy of. -/
theorem CacheOnly.uncached {s t : State} (h : CacheOnly s t) {a : Nat} (ha : ∀ x ∈ s.l1, x.2.home ≠ a / 256) :
    memGet t.mem a = memGet s.mem a := h.frame a fun x hx _ => ha x hx

theorem CacheOnly.foldl {α : Type} {f : State → α → State} (hf : ∀ s x, CacheOnly s (f s x)) (ls : List α) (s : State) :
    CacheOnly s (ls.foldl f s) := by
  induction ls generalizing s with
  | nil => exact .refl s
  | cons x r ih => exact (hf s x).trans (ih _)

theorem mem_smIns {α : Type} {m : List (Nat × α)} {k : Nat} {v : α} {e : Nat × α} (h : e ∈ smIns m k v) : e = (k, v) ∨ e ∈ m := by
  induction m with
  | nil => simpa [smIns] using h
  | cons x r ih =>
    obtain ⟨j, u⟩ := x
    unfold smIns at h
    split at h
    · rcases List.mem_cons.1 h with h | h
      · exact .inl h
      · exact .inr (List.mem_cons_of_mem _ h)
    · split at h
      · simpa using h
      · rcases List.mem_cons.1 h with h | h
        · exact .inr (h ▸ List.mem_cons_self)
        · exact (ih h).imp id (List.mem_cons_of_mem _)

theorem mem_of_alGet {α : Type} {m : List (Nat × α)} {k : Nat} {v : α} (h : alGet m k = some v) : (k, v) ∈ m := by
  induction m with
  | nil => simp [alGet] at h
  | cons x r ih =>
    obtain ⟨j, u⟩ := x
    unfold alGet at h
    split at h
    · rename_i hj
      cases h
      exact hj ▸ List.mem_cons_self
    · exact List.mem_cons_of_mem _ (ih h)

@[simp] theorem State.noteMet_l1 (s : State) (k : Nat) : (s.noteMet k).l1 = s.l1 := rfl
@[simp] theorem State.noteMet_mem (s : State) (k : Nat) : (s.noteMet k).mem = s.mem := rfl

/-- The write-back of an L1 line of the state. -/
theorem State.writeBack_only (s : State) (k : Nat) (l : L1Line) (h : l.dirty ≠ 0 → ∃ y ∈ s.l1, y.2.dirty ≠ 0 ∧ y.2.home = l.home) :
    CacheOnly s (s.writeBack k l) := by
  unfold State.writeBack
  split
  · exact .refl s
  · rename_i hd
    obtain ⟨h1, h2, h3⟩ := s.putEach_only l.home (markedBytes l.dirty l.bytes 0)
    refine ⟨by simp only [State.noteMet]; rw [h1], h2, fun a ha => ?_, fun x hx hxd => ?_⟩
    · obtain ⟨y, hy, hyd, hyh⟩ := h hd
      have hn := ha y hy hyd
      refine h3 a fun e he => ?_
      have := markedBytes_lt he
      omega
    · rcases mem_smIns hx with rfl | hx
      · exact absurd rfl hxd
      · exact ⟨x, hx, hxd, rfl⟩

theorem State.flushLine_only (s : State) (core ia : Nat) : CacheOnly s (s.flushLine core ia) := by
  unfold State.flushLine
  split
  · rename_i l hl
    exact s.writeBack_only _ l fun hd => ⟨_, mem_of_alGet hl, hd, rfl⟩
  · exact .refl s

/-- The write-back of some L1 lines. -/
theorem State.writeBackAll_only {s0 : State} (ls : List (Nat × L1Line)) (h : ∀ x ∈ ls, x ∈ s0.l1) (s : State) (hs : CacheOnly s0 s)
    (keep : ∀ x ∈ ls, x.2.dirty ≠ 0 → ∃ y ∈ s0.l1, y.2.dirty ≠ 0 ∧ y.2.home = x.2.home) :
    CacheOnly s0 (s.writeBackAll ls) := by
  induction ls generalizing s with
  | nil => exact hs
  | cons x r ih =>
    obtain ⟨k, l⟩ := x
    refine ih (fun x hx => h x (List.mem_cons_of_mem _ hx)) _ ?_ fun x hx => keep x (List.mem_cons_of_mem _ hx)
    unfold State.writeBack
    split
    · exact hs
    · rename_i hd
      obtain ⟨h1, h2, h3⟩ := s.putEach_only l.home (markedBytes l.dirty l.bytes 0)
      obtain ⟨y, hy, hyd, hyh⟩ := keep (k, l) List.mem_cons_self hd
      refine ⟨by simp only [State.noteMet]; rw [h1, hs.rest], fun w => h2 (hs.wf w), fun a ha => ?_, fun x hx hxd => ?_⟩
      · have hn := ha y hy hyd
        rw [show memGet (({ s.putEach l.home (markedBytes l.dirty l.bytes 0) with l1 := _ } : State).noteMet _).mem a
          = memGet (s.putEach l.home (markedBytes l.dirty l.bytes 0)).mem a from rfl, h3 a fun e he => ?_, hs.frame a ha]
        have := markedBytes_lt he
        simp only at hyh
        omega
      · rcases mem_smIns hx with rfl | hx
        · exact absurd rfl hxd
        · have hx' : x ∈ s.l1 := by
            have := congrArg State.l1 h1
            exact hx
          exact hs.homes x hx' hxd

/-- The remembered releases are no part of what a write-back claims. -/
theorem CacheOnly.rels {s t : State} (h : CacheOnly s t) (r : List (Nat × Nat)) : CacheOnly s { t with teamRels := r } :=
  ⟨by rw [h.rest], h.wf, h.frame, h.homes⟩

theorem State.flushCore_only (s : State) (core : Nat) : CacheOnly s (s.flushCore core) :=
  (State.writeBackAll_only _ (fun _ hx => (List.mem_filter.1 hx).1) s (.refl s) fun x hx hd =>
    ⟨x, (List.mem_filter.1 hx).1, hd, rfl⟩).rels _

theorem State.flushAll_only (s : State) : CacheOnly s s.flushAll :=
  (State.writeBackAll_only _ (fun _ hx => hx) s (.refl s) fun x hx hd => ⟨x, hx, hd, rfl⟩).rels _

theorem State.noteRelease_only (s : State) (core line : Nat) : CacheOnly s (s.noteRelease core line) := by
  unfold State.noteRelease
  split
  · exact .refl s
  · exact (CacheOnly.refl s).rels _

theorem State.noteWrite_only (s : State) (core : Nat) (l : LineRef) (rel : Bool) : CacheOnly s (s.noteWrite core l rel) := by
  unfold State.noteWrite
  split
  · exact s.noteRelease_only core l.own
  · exact .refl s

theorem State.dropClean_only (s : State) (core : Nat) : CacheOnly s (s.dropClean core) := by
  refine ⟨rfl, id, fun _ _ => rfl, fun x hx hd => ?_⟩
  obtain ⟨y, hy, he⟩ := List.mem_filterMap.1 hx
  split at he
  · split at he
    · cases he
    · cases he
      exact ⟨y, hy, hd, rfl⟩
  · cases he
    exact ⟨x, hy, hd, rfl⟩

theorem State.dropLine_only (s : State) (core ia : Nat) : CacheOnly s (s.dropLine core ia) :=
  (s.flushLine_only core ia).trans ⟨rfl, id, fun _ _ => rfl, fun x hx hd => ⟨x, (List.mem_filter.1 hx).1, hd, rfl⟩⟩

theorem State.recall_only (s : State) (ia : Nat) : CacheOnly s (s.recall ia) := CacheOnly.foldl (fun s c => s.flushLine_only c ia) _ s
theorem State.promote_only (s : State) (l : LineRef) : CacheOnly s (s.promote l) := CacheOnly.foldl State.flushCore_only _ s

theorem State.release_only (s : State) (core : Nat) (pair : Bool) (c : Scope) : CacheOnly s (s.release core pair c) := by
  unfold State.release
  split
  · exact s.flushCore_only core
  · exact .refl s

theorem State.acquire_only (s : State) (core : Nat) (pair : Bool) (c : Scope) : CacheOnly s (s.acquire core pair c) := by
  unfold State.acquire
  split
  · exact s.dropClean_only core
  · exact .refl s

/-! ### Loads and stores -/

/-- A fill changes L1 lines alone. -/
theorem State.fillL1_rest (s : State) (core : Nat) (l : LineRef) :
    s.fillL1 core l = { s with l1 := (s.fillL1 core l).l1 } ∧ (s.fillL1 core l).mem = s.mem := by
  simp only [State.fillL1]
  cases s.l1Get core l.ia with
  | some x => exact ⟨rfl, rfl⟩
  | none =>
    by_cases h : s.l1Room core = true
    · simp [h]
    · simp [h]

/-- A fill of a line of which the core holds no dirty byte leaves no new line dirty. -/
theorem State.fillL1_only (s : State) (core : Nat) (l : LineRef) (h : ∀ x, s.l1Get core l.ia = some x → x.dirty = 0) :
    CacheOnly s (s.fillL1 core l) := by
  refine ⟨by rw [(s.fillL1_rest core l).1], by rw [(s.fillL1_rest core l).2]; exact id, fun a _ => by rw [(s.fillL1_rest core l).2], ?_⟩
  intro x hx hd
  simp only [State.fillL1] at hx
  split at hx
  · rename_i y hy
    rcases mem_smIns hx with rfl | hx
    · exact absurd (h y hy) hd
    · exact ⟨x, hx, hd, rfl⟩
  · split at hx
    · rcases mem_smIns hx with rfl | hx
      · exact absurd rfl hd
      · exact ⟨x, hx, hd, rfl⟩
    · exact ⟨x, hx, hd, rfl⟩

/-- After its write-back a core's copy of a line is clean. -/
theorem State.flushLine_clean (s : State) (core ia : Nat) {x : L1Line} (h : (s.flushLine core ia).l1Get core ia = some x) : x.dirty = 0 := by
  unfold State.flushLine at h
  split at h
  · rename_i l hl
    unfold State.writeBack at h
    split at h
    · rename_i hd
      rw [hl] at h
      cases h
      exact hd
    · rw [State.l1Get, State.noteMet_l1, alGet_smIns_same] at h
      cases h
      rfl
  · rename_i hl
    rw [hl] at h
    cases h

/-- A read at the home slice writes back the core's dirty bytes of the line and renews its copy, and changes nothing else. -/
theorem State.refresh_only (s : State) (core : Nat) (l : LineRef) : CacheOnly s (s.refresh core l) := by
  simp only [State.refresh]
  split
  · exact .refl s
  · split
    · exact (s.flushLine_only core l.ia).trans (State.fillL1_only _ core l fun x hx => s.flushLine_clean core l.ia hx)
    · exact s.flushLine_only core l.ia

/-- A load changes memory, L1 lines, remembered releases and satisfied waits alone, and keeps the canonical form. -/
theorem State.load_rest (s : State) (core : Nat) (l : LineRef) (off n : Nat) (c : Scope) (cp : BitVec 2) :
    (s.load core l off n c cp).2 = { s with
        mem := (s.load core l off n c cp).2.mem, l1 := (s.load core l off n c cp).2.l1, teamRels := (s.load core l off n c cp).2.teamRels, metWaits := (s.load core l off n c cp).2.metWaits } ∧
      (s.mem.wf = true → (s.load core l off n c cp).2.mem.wf = true) := by
  simp only [State.load]
  split
  · exact ⟨rfl, id⟩
  · split
    · exact ⟨(s.refresh_only core l).rest, (s.refresh_only core l).wf⟩
    · split
      · split
        · exact ⟨rfl, id⟩
        · have h := (s.flushLine_only core l.ia).trans (State.fillL1_only _ core l fun x hx => s.flushLine_clean core l.ia hx)
          split <;> exact ⟨h.rest, h.wf⟩
      · exact ⟨by simp only; rw [(s.fillL1_rest core l).1], by simp only; rw [(s.fillL1_rest core l).2]; exact id⟩

/-- A load at .grp or .team that does not bypass the L1, of a line of which the core holds no dirty byte, leaves memory as it is. -/
theorem State.load_mem (s : State) (core : Nat) (l : LineRef) (off n : Nat) {c : Scope} {cp : BitVec 2} (hc : c.wide = false) (hp : cp ≠ 3)
    (hd : ∀ x, s.l1Get core l.ia = some x → x.dirty = 0) :
    (s.load core l off n c cp).2.mem = s.mem := by
  simp only [State.load, hc, hp]
  split
  · rfl
  · simp only [Bool.false_or, decide_false, Bool.false_eq_true, if_false]
    split
    · rename_i x hx
      split
      · rfl
      · have hf : s.flushLine core l.ia = s := by simp [State.flushLine, hx, State.writeBack, hd x hx]
        rw [hf]
        split <;> exact (s.fillL1_rest core l).2
    · exact (s.fillL1_rest core l).2

/-- A load at .die or wider, or one that bypasses the L1, writes back the core's dirty bytes of the line and changes nothing else. -/
theorem State.load_wide_only (s : State) (core : Nat) (l : LineRef) (off n : Nat) {c : Scope} {cp : BitVec 2}
    (h : c.wide = true ∨ cp = 3) : CacheOnly s (s.load core l off n c cp).2 := by
  have hw : (c.wide || decide (cp = 3)) = true := by simpa using h
  simp only [State.load, hw]
  split
  · exact .refl s
  · exact s.refresh_only core l

/-- A store changes memory, L1 lines, remembered releases and satisfied waits alone, and keeps the canonical form. -/
theorem State.store_rest (s : State) (core : Nat) (pair : Bool) (l : LineRef) (off : Nat) (bs : List Byte) (c : Scope) (cp : BitVec 2) :
    s.store core pair l off bs c cp =
        { s with
          mem := (s.store core pair l off bs c cp).mem, l1 := (s.store core pair l off bs c cp).l1
          teamRels := (s.store core pair l off bs c cp).teamRels, metWaits := (s.store core pair l off bs c cp).metWaits } ∧
      (s.mem.wf = true → (s.store core pair l off bs c cp).mem.wf = true) := by
  have hf := s.flushLine_only core l.ia
  simp only [State.store]
  split
  · exact ⟨rfl, s.putBytes_wf _ _ _⟩
  · split
    · split
      · exact ⟨rfl, id⟩
      · split
        · exact ⟨by simp only [State.putBytes]; rw [hf.rest], fun w => State.putBytes_wf _ _ _ (hf.wf w)⟩
        · exact ⟨by simp only [State.putBytes]; rw [hf.rest], fun w => State.putBytes_wf _ _ _ (hf.wf w)⟩
    · split
      · exact ⟨rfl, id⟩
      · exact ⟨rfl, s.putBytes_wf _ _ _⟩

/-- The bytes of memory outside those stored, in lines that no L1 holds dirty, are as they were. -/
theorem State.store_frame (s : State) (core : Nat) (pair : Bool) (l : LineRef) (off : Nat) (bs : List Byte) (c : Scope) (cp : BitVec 2)
    {a : Nat} (hu : ∀ x ∈ s.l1, x.2.dirty ≠ 0 → x.2.home ≠ a / 256) (ho : a < l.key * 256 + off ∨ l.key * 256 + off + bs.length ≤ a) :
    memGet (s.store core pair l off bs c cp).mem a = memGet s.mem a := by
  have hf := (s.flushLine_only core l.ia).frame a hu
  simp only [State.store]
  split
  · exact s.putBytes_get_other bs ho
  · split
    · split
      · rfl
      · split
        · exact (State.putBytes_get_other _ bs ho).trans hf
        · exact (State.putBytes_get_other _ bs ho).trans hf
    · split
      · rfl
      · exact s.putBytes_get_other bs ho

/-- A load with an order changes memory, L1 lines, remembered releases and satisfied waits alone, and keeps the canonical form. -/
theorem State.loadOrd_rest (s : State) (core : Nat) (pair : Bool) (l : LineRef) (off n : Nat) (o : MemOrder) (c : Scope) (cp : BitVec 2) :
    (s.loadOrd core pair l off n o c cp).2 =
        { s with
          mem := (s.loadOrd core pair l off n o c cp).2.mem, l1 := (s.loadOrd core pair l off n o c cp).2.l1
          teamRels := (s.loadOrd core pair l off n o c cp).2.teamRels, metWaits := (s.loadOrd core pair l off n o c cp).2.metWaits } ∧
      (s.mem.wf = true → (s.loadOrd core pair l off n o c cp).2.mem.wf = true) := by
  simp only [State.loadOrd]
  have h1 : CacheOnly s (if o.rels = true then s.release core pair c else s) := by
    split
    · exact s.release_only core pair c
    · exact .refl s
  generalize (if o.rels = true then s.release core pair c else s) = s1 at h1 ⊢
  have h2 : CacheOnly s1 (if (o.acqs && decide (c = .prom) && !keyIsSram l.key) = true then s1.promote l else s1) := by
    split
    · exact s1.promote_only _
    · exact .refl s1
  generalize (if (o.acqs && decide (c = .prom) && !keyIsSram l.key) = true then s1.promote l else s1) = s2 at h2 ⊢
  have h3 := s2.load_rest core l off n c cp
  generalize (s2.load core l off n c cp).2 = s3 at h3 ⊢
  have h12 := h1.trans h2
  split
  · have h4 := s3.acquire_only core pair c
    exact ⟨by rw [h4.rest, h3.1, h12.rest], fun w => h4.wf (h3.2 (h12.wf w))⟩
  · exact ⟨by rw [h3.1, h12.rest], fun w => h3.2 (h12.wf w)⟩

/-- A store with an order changes memory, L1 lines, remembered releases and satisfied waits alone, and keeps the canonical form. -/
theorem State.storeOrd_rest (s : State) (core : Nat) (pair : Bool) (l : LineRef) (off : Nat) (bs : List Byte) (o : MemOrder) (c : Scope)
    (cp : BitVec 2) :
    s.storeOrd core pair l off bs o c cp =
        { s with
          mem := (s.storeOrd core pair l off bs o c cp).mem, l1 := (s.storeOrd core pair l off bs o c cp).l1
          teamRels := (s.storeOrd core pair l off bs o c cp).teamRels, metWaits := (s.storeOrd core pair l off bs o c cp).metWaits } ∧
      (s.mem.wf = true → (s.storeOrd core pair l off bs o c cp).mem.wf = true) := by
  simp only [State.storeOrd]
  have h1 : CacheOnly s (if o.rels = true then s.release core pair c else s) := by
    split
    · exact s.release_only core pair c
    · exact .refl s
  generalize (if o.rels = true then s.release core pair c else s) = s1 at h1 ⊢
  have h2 := s1.store_rest core pair l off bs c cp
  generalize s1.store core pair l off bs c cp = s2 at h2 ⊢
  have h3 := s2.noteWrite_only core l (o.rels && decide (c = .team))
  generalize s2.noteWrite core l (o.rels && decide (c = .team)) = s3 at h3 ⊢
  split
  · have h4 := s3.acquire_only core pair c
    exact ⟨by rw [h4.rest, h3.rest, h2.1, h1.rest], fun w => h4.wf (h3.wf (h2.2 (h1.wf w)))⟩
  · exact ⟨by rw [h3.rest, h2.1, h1.rest], fun w => h3.wf (h2.2 (h1.wf w))⟩

/-! ### Lines taken, cleared and filled -/

/-- Taking ownership of a line changes memory, L1 lines, remembered releases, satisfied waits and owners alone, and keeps the canonical form. -/
theorem State.own_rest (s : State) (l : LineRef) (op core : Nat) (pair : Bool) :
    s.own l op core pair = { s with
        mem := (s.own l op core pair).mem, l1 := (s.own l op core pair).l1, teamRels := (s.own l op core pair).teamRels, metWaits := (s.own l op core pair).metWaits
        owned := s.owned ++ [(l.own, op)] } ∧
      (s.mem.wf = true → (s.own l op core pair).mem.wf = true) := by
  simp only [State.own]
  split
  · exact ⟨rfl, id⟩
  · have hr := s.recall_only l.ia
    generalize s.recall l.ia = s1 at hr ⊢
    split
    · have h := hr.trans ((s1.dropLine_only (evenCore core) l.ia).trans (State.dropLine_only _ (evenCore core + 1) l.ia))
      exact ⟨by rw [h.rest], h.wf⟩
    · have h := hr.trans (s1.dropLine_only core l.ia)
      exact ⟨by rw [h.rest], h.wf⟩

theorem State.engineFill_wf {s : State} (l : LineRef) (bs : List Byte) (h : s.mem.wf = true) : (s.engineFill l bs).mem.wf = true := by
  unfold State.engineFill
  refine State.putLine_wf _ _ ?_
  split
  · exact h
  · exact (s.recall_only l.ia).wf h

theorem State.engineBytes_wf {s : State} (l : LineRef) (off : Nat) (bs : List Byte) (h : s.mem.wf = true) :
    (s.engineBytes l off bs).mem.wf = true := by
  unfold State.engineBytes
  refine State.putBytes_wf _ _ _ ?_
  split
  · exact h
  · exact (s.recall_only l.ia).wf h

theorem State.clearLines_wf {s : State} (core base n : Nat) (h : s.mem.wf = true) : (s.clearLines core base n).mem.wf = true := memClear_wf _ _ h
theorem State.zeroLines_wf {s : State} (die pa n : Nat) (h : s.mem.wf = true) : (s.zeroLines die pa n).mem.wf = true := memClear_wf _ _ h
theorem State.setPte_wf {s : State} (die t i e : Nat) (h : s.mem.wf = true) : (s.setPte die t i e).mem.wf = true := State.putBytes_wf _ _ _ h

theorem restoreCells_wf (m : List (Nat × Nat)) (cs : List Host.Cell) (mem : Memory) (h : mem.wf = true) : (restoreCells m cs mem).wf = true := by
  induction cs generalizing mem with
  | nil => exact h
  | cons c r ih => exact ih _ (memPut_wf _ _ h)

end Sys2Proof.Machine
end

