-- ==== Sys2Proof/Laws/Traps.lean ====
section
/-! SUPPORT. What a report and a trap entry do (16 R322 to R325): every case of the shared operation, and the plain case, as equations that the claims about traps cite. -/

namespace Sys2Proof.Machine

/-! ### Reports -/

/-- A report of a context that does not exist, or has been reported, does nothing. -/
theorem State.report_again {s : State} {ctx : Nat} (f : Frame) (core num team : Nat)
    (h : ∀ c, s.ctx? ctx = some c → c.reported.isSome = true) : s.report ctx f core num team = s := by
  unfold State.report
  cases hc : s.ctx? ctx with
  | none => rfl
  | some c => simp [h c hc]

/-- The first report of a context that no host command is pre-empting: its fault message, the cause kept, its groups stopped. -/
theorem State.report_first {s : State} {ctx : Nat} {c : Context} (f : Frame) (core num team : Nat) (hc : s.ctx? ctx = some c)
    (hr : c.reported = none) (hp : c.preempting = none) :
    s.report ctx f core num team =
      { (s.send (faultMessage ctx f core num team)).mapCtx ctx (fun c => { c with reported := some f.cause, preempting := none }) with
        waiters := (s.leaveGroups ctx).waiters
        groups := s.groups.map fun e => if e.2.ctx = ctx && e.2.glint.isNone then (e.1, { e.2 with stopped := true }) else e } := by
  simp [State.report, hc, hr, hp, State.send, State.mapCtx, State.leaveGroups, State.leaveAll]

/-- A report leaves memory, L1 lines and accumulators as they are. -/
theorem State.report_mem (s : State) (ctx : Nat) (f : Frame) (core num team : Nat) :
    (s.report ctx f core num team).mem = s.mem ∧ (s.report ctx f core num team).l1 = s.l1 ∧ (s.report ctx f core num team).acc = s.acc := by
  simp only [State.report]
  split
  · exact ⟨rfl, rfl, rfl⟩
  · split
    · exact ⟨rfl, rfl, rfl⟩
    · split <;> simp [State.leaveGroups]

/-- The fault message begins with the cause. -/
theorem faultMessage_head (ctx : Nat) (f : Frame) (core num team : Nat) : (faultMessage ctx f core num team).payload.head? = some f.cause := by
  simp [faultMessage, Frame.bytes]

/-! ### Entries -/

/-- Everything that a trap entry can do: nothing without an agent and its context, the stop of a group whose context has been reported, a report, or the handler. -/
theorem State.enterTrap_cases (s : State) (k slot : Nat) (f : Frame) :
    s.enterTrap k slot f = s ∨
      ∃ g c, s.group? k = some g ∧ s.ctx? g.ctx = some c ∧
        ((c.reported.isSome = true ∧ s.enterTrap k slot f = s.mapGroup k fun g => { g with stopped := true }) ∨
          (c.reported = none ∧ ∃ f', s.enterTrap k slot f = s.reportGroup k g f') ∨
          (c.reported = none ∧ g.handler = none ∧ causeGrid f.cause = false ∧ c.handler ≠ 0 ∧ s.handlerOk (keyCore k) c = true ∧
            ∃ l t, s.resolveScalar c (frameAddr c g) .store false = .ok l ∧
              t = ((s.fetched (keyCore k) c c.handler).storeOrd (s.doer k g).core (s.doer k g).pair l (frameAddr c g % 128) f.bytes .rel .grp 0).leaveWaits (.group k) ∧
              ∃ h : Group → Group, s.enterTrap k slot f = t.mapGroup k h)) := by
  unfold State.enterTrap
  cases hg : s.group? k with
  | none => exact .inl rfl
  | some g =>
    simp only
    cases hc : s.ctx? g.ctx with
    | none => exact .inl rfl
    | some c =>
      refine .inr ⟨g, c, rfl, hc, ?_⟩
      simp only
      cases hr : c.reported with
      | some x => exact .inl ⟨rfl, by simp⟩
      | none =>
        simp only [Option.isSome_none, Bool.false_eq_true, if_false]
        split
        · exact .inr (.inl ⟨trivial, _, rfl⟩)
        · rename_i hh
          split
          · exact .inr (.inl ⟨trivial, _, rfl⟩)
          · rename_i hq
            simp only [Bool.or_eq_true, decide_eq_true_eq, Bool.not_eq_true', not_or, Bool.not_eq_true, Bool.not_eq_false] at hq
            split
            · exact .inr (.inl ⟨trivial, _, rfl⟩)
            · rename_i l hl
              exact .inr (.inr ⟨trivial, by simpa using hh, hq.1.1, hq.1.2, hq.2, l, _, hl, rfl, _, rfl⟩)

/-- A precise trap outside regions delivers the group's own accesses and enters with the frame of its word. -/
theorem State.takeTrap_plain {s : State} {k slot : Nat} {pc : Pc} {act : Mask} {t : TrapInfo} {g : Group} (hg : s.group? k = some g)
    (hr : g.region = none) (hm : t.cause ≠ 0x64) :
    s.takeTrap k slot pc act t =
      (s.mapGroup k Group.finishThreads).enterTrap k slot
        { cause := t.cause, attr := 1, split := slot, seq := g.nextSeq, fpc := pc.toNat, faddr := t.faddr.toNat, lanes := (t.lanes.getD act).toNat,
          resume := if causeNext t.cause then (pc + 4).toNat else pc.toNat, rpc := 0, origin := 0, detail := t.detail.toNat } := by
  have hm' : ¬t.cause = 100#8 := hm
  simp [State.takeTrap, hg, hr, State.commitTrap, hm']

/-- A trap of a glint that is no memory-side page fault ends it. -/
theorem State.agentTrap_glint {s : State} {k slot : Nat} {pc : Pc} {act : Mask} {t : TrapInfo} {g : Group} (hg : s.group? k = some g)
    (hx : g.glint.isSome = true) (hp : ¬(0x4C ≤ t.cause.toNat ∧ t.cause.toNat ≤ 0x4F)) :
    s.agentTrap k slot pc act t = s.glintFatal k t.cause := by
  simp only [State.agentTrap, hg, hx, if_true]
  rw [if_neg (by simpa using hp)]

/-- A trap of a group is taken by the group. -/
theorem State.agentTrap_group {s : State} {k slot : Nat} {pc : Pc} {act : Mask} {t : TrapInfo} {g : Group} (hg : s.group? k = some g)
    (hx : g.glint = none) : s.agentTrap k slot pc act t = s.takeTrap k slot pc act t := by
  simp [State.agentTrap, hg, hx]

/-- An abort of a group in no region does nothing. -/
theorem State.abortRegion_none (s : State) (k : Nat) (cause : Option ReplayCause) (h : ∀ g, s.group? k = some g → g.region = none) :
    s.abortRegion k cause = s := by
  unfold State.abortRegion
  cases hg : s.group? k with
  | none => rfl
  | some g => simp [h g hg]

end Sys2Proof.Machine
end

