-- ==== Sys2Proof/Laws/Words.lean ====
section
/-! SUPPORT. What a word poised in focus does: the shared lemmas of Laws/Issue.lean in the terms of Safety.lean. -/

namespace Sys2Proof.Machine

open Sys2Proof.Claims

/-- A word in focus that passes its decode and finds nothing handed over is performed. -/
theorem issueWord_poised {i : Instr} {fm : Form} {body : Env → State → Res} {s : State} {k slot : Nat} {g : Group} {p : Split}
    (h : Poised s i k slot g p) :
    issueWord i fm body s = .next (performWord fm body s k slot g (if Instr.ignoresMod i then p.dropMod else p)) :=
  issueWord_next h.focus h.agent h.split h.decodes (by simp [h.drained])

/-- A counted form, or one that is not of long latency, that takes effect performs its body: in the state after the commit it makes first. -/
theorem issueWord_effect {i : Instr} {fm : Form} {body : Env → State → Res} {s s1 : State} {k slot : Nat} {g g1 : Group} {p : Split}
    (h : Poised s i k slot g p) (hm : Instr.ignoresMod i = false) (hcnt : ∀ w, fm.long = some w → Counted g p w)
    (ht : takesEffect fm p.hints (activeLanes g p) = true)
    (hc : (if fm.commits = true then s.commitFirst k slot p.pc else .ok s) = .ok s1) (hg : s1.group? k = some g1)
    (hp : (fm.commits && s.stopsAfterCommit k g) = false) (hr : s1.readsLeft k = []) :
    issueWord i fm body s = .next (s1.finish (wordEnv k slot g g1 p) (body (wordEnv k slot g g1 p) s1)) := by
  rw [issueWord_poised h, hm]
  simp only [Bool.false_eq_true, if_false]
  rw [performWord_effect (k := k) (slot := slot) (fun hl => (hcnt true hl).1 rfl) ?_ h.first ht hc hg hp fun t _ => State.writeWaits_none t hr]
  · rfl
  · intro hs n hn
    obtain ⟨w, hw⟩ := Option.isSome_iff_exists.1 hs
    exact (hcnt w hw).2 n hn

/-- A form that commits first, in the words of the claims. -/
theorem issueWord_commits {i : Instr} {fm : Form} {body : Env → State → Res} {s s1 : State} {k slot : Nat} {g g1 : Group} {p : Split}
    (h : Poised s i k slot g p) (hm : Instr.ignoresMod i = false) (hcnt : ∀ w, fm.long = some w → Counted g p w)
    (ht : takesEffect fm p.hints (activeLanes g p) = true) (hc : fm.commits = true) (h1 : CommitsTo s k slot p s1 g1) :
    issueWord i fm body s = .next (s1.finish (wordEnv k slot g g1 p) (body (wordEnv k slot g g1 p) s1)) :=
  issueWord_effect h hm hcnt ht (by simp [hc, h1.1]) h1.2.1 (by simp [h1.2.2.1 g h.agent]) h1.2.2.2

/-- A plain form performs its body in the state as it stands. -/
theorem issueWord_plain {i : Instr} {fm : Form} {body : Env → State → Res} {s : State} {k slot : Nat} {g : Group} {p : Split}
    (h : Poised s i k slot g p) (hm : Instr.ignoresMod i = false) (hl : fm.long = none) (hc : fm.commits = false)
    (ht : takesEffect fm p.hints (activeLanes g p) = true) :
    issueWord i fm body s = .next (s.finish (wordEnv k slot g g p) (body (wordEnv k slot g g p) s)) :=
  issueWord_effect h hm (by simp [hl]) ht (by simp [hc]) h.agent (by simp [hc]) h.read

/-- A word whose effect is on its group alone. -/
theorem groupWord_plain {i : Instr} {fm : Form} {f : Env → Group} {s : State} {k slot : Nat} {g : Group} {p : Split}
    (h : Poised s i k slot g p) (hm : Instr.ignoresMod i = false) (hl : fm.long = none) (hc : fm.commits = false)
    (ht : takesEffect fm p.hints (activeLanes g p) = true) :
    groupWord i fm f s = .next (after s k slot (f (wordEnv k slot g g p))) := by
  rw [groupWord, issueWord_plain h hm hl hc ht]
  rfl

/-- A word that takes no effect only advances the PC. -/
theorem issueWord_idle {i : Instr} {fm : Form} {body : Env → State → Res} {s : State} {k slot : Nat} {g : Group} {p : Split}
    (h : Poised s i k slot g p) (hm : Instr.ignoresMod i = false) (hl : fm.long = none)
    (ht : takesEffect fm p.hints (activeLanes g p) = false) :
    issueWord i fm body s = .next (s.mapSplit k slot Split.advance) := by
  rw [issueWord_poised h, hm]
  simp only [Bool.false_eq_true, if_false]
  rw [performWord_idle hl h.first ht]

theorem takesEffect_lane {l : Option Bool} {c : Bool} {h : Hints} {m : Mask} (hm : m ≠ 0) : takesEffect ⟨.lane, l, c⟩ h m = true := by
  simpa [takesEffect] using hm

theorem takesEffect_once {l : Option Bool} {c : Bool} {g : Group} {p : Split} (hr : scalarRuns g p) :
    takesEffect ⟨.once, l, c⟩ p.hints (activeLanes g p) = true := by
  rcases hr with h | h
  · simp [takesEffect, h]
  · simpa [takesEffect] using Or.inr h

/-! ### Results written lane by lane -/

/-- The lanes of a word's environment are its active lanes below the width. -/
theorem mem_wordLanes {k slot : Nat} {g g1 : Group} {p : Split} {l : Nat} :
    l ∈ (wordEnv k slot g g1 p).lanes ↔ l < g1.width ∧ hasLane (activeLanes g p) l = true := by
  rw [mem_lanes]
  rfl

/-- A group that differs from g0 in active lanes of registers d to d + n − 1 and in flags raised; none raised when `quiet`. -/
def VecOut (g0 : Group) (act : Mask) (d n : Nat) (quiet : Prop) (g : Group) : Prop :=
  ∃ (v : SMap Word) (x : BitVec 8), g = vectorResult g0 v x ∧ vectorFrame g0 v act d n ∧ (quiet → x = 0)

theorem VecOut.refl (g0 : Group) (act : Mask) (d n : Nat) (q : Prop) : VecOut g0 act d n q g0 :=
  ⟨g0.v, 0, by simp [vectorResult], fun _ _ _ _ => rfl, fun _ => rfl⟩

theorem VecOut.setV {g0 g : Group} {act : Mask} {d n r l : Nat} {q : Prop} (x : Word) (h : VecOut g0 act d n q g)
    (hr : d ≤ r ∧ r < d + n) (hl : hasLane act l = true) : VecOut g0 act d n q (g.setV r l x) := by
  obtain ⟨v, f, rfl, hv, hq⟩ := h
  refine ⟨smPut 0 v (r * 64 + l) x, f, rfl, ?_, hq⟩
  intro r' l' hl' ho
  have hl64 := hasLane_lt hl
  rw [smGet_smPut_other]
  · exact hv r' l' hl' ho
  · intro he
    obtain ⟨rfl, rfl⟩ := (laneKey_inj hl' hl64).1 he
    rcases ho with ho | ho | ho
    · omega
    · omega
    · simp [ho] at hl

theorem VecOut.setVPair {g0 g : Group} {act : Mask} {d n r l : Nat} {q : Prop} (x : DWord) (h : VecOut g0 act d n q g)
    (hr : d ≤ r ∧ r + 1 < d + n) (hl : hasLane act l = true) : VecOut g0 act d n q (g.setVPair r l x) :=
  (h.setV _ (by omega) hl).setV _ (by omega) hl

theorem VecOut.raise {g0 g : Group} {act : Mask} {d n : Nat} {q : Prop} (f : BitVec 8) (h : VecOut g0 act d n q g) (hf : q → f = 0) :
    VecOut g0 act d n q (g.raise f) := by
  obtain ⟨v, x, rfl, hv, hq⟩ := h
  refine ⟨v, x ||| f, ?_, hv, fun h => by simp [hq h, hf h]⟩
  simp [vectorResult, Group.raise, BitVec.or_assoc]

theorem VecOut.fold {g0 : Group} {act : Mask} {d n : Nat} {q : Prop} {f : Group → Nat → Group} {ls : List Nat} {g : Group}
    (hg : VecOut g0 act d n q g) (hf : ∀ l ∈ ls, ∀ g, VecOut g0 act d n q g → VecOut g0 act d n q (f g l)) :
    VecOut g0 act d n q (ls.foldl f g) := by
  induction ls generalizing g with
  | nil => exact hg
  | cons a r ih =>
    exact ih (hf a (List.mem_cons_self ..) g hg) fun l hl => hf l (List.mem_cons_of_mem _ hl)

theorem VecOut.mapLanes {e : Env} {d : Nat} {q : Prop} (f : Nat → Word) : VecOut e.g e.act d 1 q (e.mapLanes d f) :=
  (VecOut.refl ..).fold fun _ hl _ hg => hg.setV _ (by omega) (mem_lanes.1 hl).2

theorem VecOut.mapPairs {e : Env} {d : Nat} {q : Prop} (f : Nat → DWord) : VecOut e.g e.act d 2 q (e.mapPairs d f) :=
  (VecOut.refl ..).fold fun _ hl _ hg => hg.setVPair _ (by omega) (mem_lanes.1 hl).2

theorem VecOut.mapFlagged {e : Env} {d : Nat} {q : Prop} (hq : ¬q) (f : Nat → Word × BitVec 8) : VecOut e.g e.act d 1 q (e.mapFlagged d f) :=
  (VecOut.refl ..).fold fun _ hl _ hg => (hg.setV _ (by omega) (mem_lanes.1 hl).2).raise _ fun h => absurd h hq

theorem VecOut.setElem {g0 g : Group} {act : Mask} {d l n : Nat} {q : Prop} (wide : Bool) (x : Nat)
    (h : VecOut g0 act d n q g) (hn : n = if wide = true then 2 else 1) (hl : hasLane act l = true) :
    VecOut g0 act d n q (g.setElem wide d l x) := by
  unfold Group.setElem
  cases wide
  · exact h.setV _ (by simp at hn; omega) hl
  · exact h.setVPair _ (by simp at hn; omega) hl

/-- What the integer forms of R101 to R103 leave. -/
theorem VecOut.intLanes {d a b : BitVec 7} {t : BitVec 2} {sat : Bool} {f : Int → Int → Int → Int} {e : Env} {q : Prop}
    (hq : q → sat = false) : VecOut e.g e.act d.toNat (if 2 ≤ t.toNat then 2 else 1) q (Machine.intLanes d a b t sat f e) := by
  refine (VecOut.refl ..).fold fun l hl g hg => ?_
  exact (hg.setElem _ _ (by simp) (mem_lanes.1 hl).2).raise _ fun h => by simp [hq h, intResult]

/-- What the selections of R106 leave. -/
theorem VecOut.selLanes {d a : BitVec 7} {k : BitVec 5} {g : BitVec 1} {e : Env} {q : Prop} :
    VecOut e.g e.act d.toNat 1 q (Machine.selLanes d a k g e) :=
  (VecOut.refl ..).fold fun l hl _ hg => hg.setV _ (by omega) (mem_lanes.1 (List.mem_filter.1 hl).1).2

/-- A vector word whose meaning is a function of its environment completes, with what that function leaves. -/
theorem vectorWord_completes {i : Instr} {f : Env → Group} {s : State} {k slot : Nat} {g : Group} {p : Split} {d n : Nat} {q : Prop}
    (h : Poised s i k slot g p) (ha : activeLanes g p ≠ 0) (hm : Instr.ignoresMod i = false)
    (hv : VecOut (wordEnv k slot g g p).g (wordEnv k slot g g p).act d n q (f (wordEnv k slot g g p))) :
    ∃ (v : SMap Word) (x : BitVec 8), groupWord i .lanes f s = .next (after s k slot (vectorResult g v x)) ∧
      vectorFrame g v (activeLanes g p) d n ∧ (q → x = 0) := by
  obtain ⟨v, x, h1, h2, h3⟩ := hv
  refine ⟨v, x, ?_, h2, h3⟩
  rw [groupWord_plain (fm := .lanes) h hm rfl rfl (takesEffect_lane ha), h1]
  rfl

end Sys2Proof.Machine
end

