-- ==== Sys2Proof/Tests/Slice0.lean ====
section
/-! SUPPORT. Tests: words of every family decoded, terms that WellFormed refuses, witnesses of the statements' hypotheses, single steps on small states. -/

open Sys2Proof Sys2Proof.Machine Sys2Proof.Claims

/-! ### Decoding -/

/-- Words of the family, written out from its encodings in 05 R78 to R91. -/
theorem test_decode_integer_arithmetic :
    decodeWord 0b00_0_000000_0000110_0001010_0010100_10#32 = .ok ⟨0, 0, .iadd 6 10 20 2⟩
    ∧ decodeWord 0b00_0_000001_0000110_0001010_0010100_10#32 = .ok ⟨0, 0, .isub 6 10 20 2⟩
    ∧ decodeWord 0b00_0_000010_0000110_0001010_0010100_10#32 = .ok ⟨0, 0, .imul 6 10 20 2⟩
    ∧ decodeWord 0b00_0_000011_0000110_0001010_0010100_10#32 = .ok ⟨0, 0, .imulh 6 10 20 2⟩
    ∧ decodeWord 0b00_0_000100_0000110_0001010_0010100_10#32 = .ok ⟨0, 0, .imad 6 10 20 2⟩
    ∧ decodeWord 0b00_0_000101_0000110_0001010_0010100_10#32 = .ok ⟨0, 0, .imin 6 10 20 2⟩
    ∧ decodeWord 0b00_0_000110_0000110_0001010_0010100_10#32 = .ok ⟨0, 0, .imax 6 10 20 2⟩
    ∧ decodeWord 0b00_0_000111_00110_0000110_0001010_10_10#32 = .ok ⟨0, 0, .icmp 6 6 10 2 2⟩ := by decide

/-- Words of the family, written out from its encodings in 05 R78 to R91. -/
theorem test_decode_logic_and_shifts :
    decodeWord 0b00_0_001000_0000110_0001010_0010100_00#32 = .ok ⟨0, 0, .and 6 10 20⟩
    ∧ decodeWord 0b00_0_001000_0000110_0001010_0010100_01#32 = .ok ⟨0, 0, .or 6 10 20⟩
    ∧ decodeWord 0b00_0_001000_0000110_0001010_0010100_10#32 = .ok ⟨0, 0, .xor 6 10 20⟩
    ∧ decodeWord 0b00_0_001000_0000110_0001010_0010100_11#32 = .ok ⟨0, 0, .andn 6 10 20⟩
    ∧ decodeWord 0b00_0_001001_0000110_0001010_0010100_00#32 = .ok ⟨0, 0, .shl 6 10 20⟩
    ∧ decodeWord 0b00_0_001001_0000110_0001010_0010100_01#32 = .ok ⟨0, 0, .shr 6 10 20⟩
    ∧ decodeWord 0b00_0_001001_0000110_0001010_0010100_10#32 = .ok ⟨0, 0, .sar 6 10 20⟩
    ∧ decodeWord 0b00_0_001001_0000110_0001010_0010100_11#32 = .ok ⟨0, 0, .rol 6 10 20⟩ := by decide

/-- Words of the family, written out from its encodings in 05 R78 to R91. -/
theorem test_decode_moves_and_bits :
    decodeWord 0b00_0_001010_0000110_0001010_000000000#32 = .ok ⟨0, 0, .movB32 6 10⟩
    ∧ decodeWord 0b00_0_001010_0000110_0001010_000000001#32 = .ok ⟨0, 0, .movB64 6 10⟩
    ∧ decodeWord 0b00_0_001010_0000110_0001010_000000010#32 = .ok ⟨0, 0, .not 6 10⟩
    ∧ decodeWord 0b00_0_001010_0000110_0001010_000000011#32 = .ok ⟨0, 0, .popc 6 10⟩
    ∧ decodeWord 0b00_0_001010_0000110_0001010_000000100#32 = .ok ⟨0, 0, .clz 6 10⟩
    ∧ decodeWord 0b00_0_001010_0000110_0001010_000000101#32 = .ok ⟨0, 0, .brev 6 10⟩
    ∧ decodeWord 0b00_0_001010_0000110_0001010_00000011_1#32 = .ok ⟨0, 0, .iabs 6 10 1⟩
    ∧ decodeWord 0b00_0_001010_0000110_0001010_00000100_1#32 = .ok ⟨0, 0, .ineg 6 10 1⟩
    ∧ decodeWord 0b00_0_001010_0000110_00000001000_00110#32 = .ok ⟨0, 0, .vectorMovs 6 6⟩
    ∧ decodeWord 0b00_0_001011_0000110_0001010_00110_1_000#32 = .ok ⟨0, 0, .isel 6 10 6 1⟩
    ∧ decodeWord 0b00_0_001011_0000110_0001010_00110_1_001#32 = .ok ⟨0, 0, .fsel 6 10 6 1⟩
    ∧ decodeWord 0b00_0_001100_0000110_0001010_0010100_0_1#32 = .ok ⟨0, 0, .bfx 6 10 20 1⟩
    ∧ decodeWord 0b00_0_001100_0000110_0001010_0010100_10#32 = .ok ⟨0, 0, .bfi 6 10 20⟩
    ∧ decodeWord 0b00_0_001101_0000110_0001010_0010100_10#32 = .ok ⟨0, 0, .lea 6 10 20 2⟩
    ∧ decodeWord 0b00_0_001110_0000110_0001010_100010101#32 = .ok ⟨0, 0, .aadd 6 10 277⟩
    ∧ decodeWord 0b00_0_001111_0000110_0000000100001011#32 = .ok ⟨0, 0, .movi 6 267⟩ := by decide

/-- Words of the family, written out from its encodings in 05 R78 to R91. -/
theorem test_decode_floating_point :
    decodeWord 0b00_0_010000_0000110_0001010_0010100_00#32 = .ok ⟨0, 0, .fadd 6 10 20⟩
    ∧ decodeWord 0b00_0_010000_0000110_0001010_0010100_01#32 = .ok ⟨0, 0, .fsub 6 10 20⟩
    ∧ decodeWord 0b00_0_010000_0000110_0001010_0010100_10#32 = .ok ⟨0, 0, .fmul 6 10 20⟩
    ∧ decodeWord 0b00_0_010000_0000110_0001010_0010100_11#32 = .ok ⟨0, 0, .ffma 6 10 20⟩
    ∧ decodeWord 0b00_0_010001_0000110_0001010_0010100_00#32 = .ok ⟨0, 0, .fmin 6 10 20⟩
    ∧ decodeWord 0b00_0_010001_0000110_0001010_0010100_01#32 = .ok ⟨0, 0, .fmax 6 10 20⟩
    ∧ decodeWord 0b00_0_010010_00110_0000110_0001010_011_0#32 = .ok ⟨0, 0, .fcmp 6 6 10 3⟩
    ∧ decodeWord 0b00_0_010011_0000110_0001010_000000000#32 = .ok ⟨0, 0, .fabs 6 10⟩
    ∧ decodeWord 0b00_0_010011_0000110_0001010_000000001#32 = .ok ⟨0, 0, .fneg 6 10⟩
    ∧ decodeWord 0b00_0_010011_0000110_0001010_000000010#32 = .ok ⟨0, 0, .frcp 6 10⟩
    ∧ decodeWord 0b00_0_010011_0000110_0001010_000000011#32 = .ok ⟨0, 0, .frsq 6 10⟩
    ∧ decodeWord 0b00_0_010011_0000110_0001010_000000100#32 = .ok ⟨0, 0, .fsqrt 6 10⟩
    ∧ decodeWord 0b00_0_010011_0000110_0001010_000000101#32 = .ok ⟨0, 0, .fexp2 6 10⟩
    ∧ decodeWord 0b00_0_010011_0000110_0001010_000000110#32 = .ok ⟨0, 0, .flog2 6 10⟩
    ∧ decodeWord 0b00_0_010011_0000110_0001010_000000111#32 = .ok ⟨0, 0, .fsin 6 10⟩
    ∧ decodeWord 0b00_0_010011_0000110_0001010_000001000#32 = .ok ⟨0, 0, .fcos 6 10⟩ := by decide

/-- Words of the family, written out from its encodings in 05 R78 to R91. -/
theorem test_decode_packed_and_conversions :
    decodeWord 0b00_0_01010_1_0000110_0001010_0010100_00#32 = .ok ⟨0, 0, .hadd2 1 6 10 20⟩
    ∧ decodeWord 0b00_0_01010_1_0000110_0001010_0010100_01#32 = .ok ⟨0, 0, .hmul2 1 6 10 20⟩
    ∧ decodeWord 0b00_0_01010_1_0000110_0001010_0010100_10#32 = .ok ⟨0, 0, .hfma2 1 6 10 20⟩
    ∧ decodeWord 0b00_0_01010_1_0000110_0001010_0010100_11#32 = .ok ⟨0, 0, .hmin2 1 6 10 20⟩
    ∧ decodeWord 0b00_0_010110_0000110_0001010_0010100_0_1#32 = .ok ⟨0, 0, .hmax2 6 10 20 1⟩
    ∧ decodeWord 0b00_0_011000_0000110_0001010_0100_0101_0#32 = .ok ⟨0, 0, .cvt 6 10 4 5⟩
    ∧ decodeWord 0b00_0_011001_0000110_0001010_0010100_00#32 = .ok ⟨0, 0, .flick 6 10 20⟩
    ∧ decodeWord 0b00_0_011010_0000110_0001010_0010100_10#32 = .ok ⟨0, 0, .fsr 6 10 20 2⟩ := by decide

/-- Words of the family, written out from its encodings in 05 R78 to R91. -/
theorem test_decode_block_words :
    decodeWord 0b00_0_011011_0000110_0001010_010100_000#32 = .ok ⟨0, 0, .bmax 6 10 20⟩
    ∧ decodeWord 0b00_0_011011_0000110_0001010_010100_001#32 = .ok ⟨0, 0, .bscale 6 10 20⟩
    ∧ decodeWord 0b00_0_011011_0000110_0001010_010100_010#32 = .ok ⟨0, 0, .bq 6 10 20⟩
    ∧ decodeWord 0b00_0_011011_0000110_0001010_010100_011#32 = .ok ⟨0, 0, .bdq 6 10 20⟩
    ∧ decodeWord 0b00_0_011011_0000110_0001010_010100_100#32 = .ok ⟨0, 0, .bpack 6 10 20⟩
    ∧ decodeWord 0b00_0_011011_0000110_0001010_010100_101#32 = .ok ⟨0, 0, .bunpack 6 10 20⟩ := by decide

/-- Words of the family, written out from its encodings in 05 R78 to R91. -/
theorem test_decode_divergence_and_lanes :
    decodeWord 0b00_0_011100_00011_1_000000101_00001001#32 = .ok ⟨0, 0, .brd 3 1 5 9⟩
    ∧ decodeWord 0b00_0_01110100000000000000000000000#32 = .ok ⟨0, 0, .merge⟩
    ∧ decodeWord 0b00_0_01110100000000000000000000001#32 = .ok ⟨0, 0, .meet⟩
    ∧ decodeWord 0b00_0_0111010000000000000000001_0100#32 = .ok ⟨0, 0, .brk 4⟩
    ∧ decodeWord 0b00_0_011101_0000110_0000000000100000#32 = .ok ⟨0, 0, .exrd 6⟩
    ∧ decodeWord 0b00_0_0111010000000_0000110_000100001#32 = .ok ⟨0, 0, .exwr 6⟩
    ∧ decodeWord 0b00_0_011101000000000_00110_000100010#32 = .ok ⟨0, 0, .expr 6⟩
    ∧ decodeWord 0b00_0_011110_0000110_0001010_0010100_00#32 = .ok ⟨0, 0, .shflIdx 6 10 20⟩
    ∧ decodeWord 0b00_0_011110_0000110_0001010_0010100_01#32 = .ok ⟨0, 0, .shflUp 6 10 20⟩
    ∧ decodeWord 0b00_0_011110_0000110_0001010_0010100_10#32 = .ok ⟨0, 0, .shflDown 6 10 20⟩
    ∧ decodeWord 0b00_0_011110_0000110_0001010_0010100_11#32 = .ok ⟨0, 0, .shflXor 6 10 20⟩
    ∧ decodeWord 0b00_0_011111_0000110_00_00110_000000000#32 = .ok ⟨0, 0, .voteAny 6 6⟩
    ∧ decodeWord 0b00_0_011111_0000110_00_00110_000000001#32 = .ok ⟨0, 0, .voteAll 6 6⟩
    ∧ decodeWord 0b00_0_011111_0000110_00_00110_000000010#32 = .ok ⟨0, 0, .voteBallot 6 6⟩
    ∧ decodeWord 0b00_0_011111_0000110_0001010_00001_0100#32 = .ok ⟨0, 0, .redg 6 10 4⟩ := by decide

/-- Words of the family, written out from its encodings in 05 R78 to R91. -/
theorem test_decode_scalar :
    decodeWord 0b00_0_100000_0000110_0001010_0010100_10#32 = .ok ⟨0, 0, .sadd 6 10 20 2⟩
    ∧ decodeWord 0b00_0_100001_0000110_0001010_0010100_10#32 = .ok ⟨0, 0, .ssub 6 10 20 2⟩
    ∧ decodeWord 0b00_0_100010_0000110_0001010_0010100_10#32 = .ok ⟨0, 0, .smul 6 10 20 2⟩
    ∧ decodeWord 0b00_0_100011_0000110_0001010_0010100_00#32 = .ok ⟨0, 0, .sand 6 10 20⟩
    ∧ decodeWord 0b00_0_100011_0000110_0001010_0010100_01#32 = .ok ⟨0, 0, .sor 6 10 20⟩
    ∧ decodeWord 0b00_0_100011_0000110_0001010_0010100_10#32 = .ok ⟨0, 0, .sxor 6 10 20⟩
    ∧ decodeWord 0b00_0_100100_0000110_0001010_0010100_00#32 = .ok ⟨0, 0, .sshl 6 10 20⟩
    ∧ decodeWord 0b00_0_100100_0000110_0001010_0010100_01#32 = .ok ⟨0, 0, .sshr 6 10 20⟩
    ∧ decodeWord 0b00_0_100101_00110_0000110_0001010_10_10#32 = .ok ⟨0, 0, .scmp 6 6 10 2 2⟩
    ∧ decodeWord 0b00_0_100110_0000110_0000000100001011#32 = .ok ⟨0, 0, .smovImmediate 6 267⟩
    ∧ decodeWord 0b00_0_100111_0000110_0001010_000000000#32 = .ok ⟨0, 0, .smov 6 10⟩
    ∧ decodeWord 0b00_0_100111_0000110_0001010_001_010100#32 = .ok ⟨0, 0, .srd 6 10 20⟩
    ∧ decodeWord 0b00_0_100111_0000110_0001010_010_010100#32 = .ok ⟨0, 0, .swr 6 10 20⟩
    ∧ decodeWord 0b00_0_100111_0000110_0001010_0110_00110#32 = .ok ⟨0, 0, .scalarMovs 6 10 6⟩
    ∧ decodeWord 0b00_0_100111_0000110_0001010_100000000#32 = .ok ⟨0, 0, .broadcastMov 6 10⟩ := by decide

/-- Words of the family, written out from its encodings in 05 R78 to R91. -/
theorem test_decode_loads_and_stores :
    decodeWord 0b00_0_101000_0000110_0001010_100010101#32 = .ok ⟨0, 0, .ldg 6 10 277⟩
    ∧ decodeWord 0b00_0_101001_0000110_0001010_100010101#32 = .ok ⟨0, 0, .stg 6 10 277⟩
    ∧ decodeWord 0b00_0_101010_0000110_0001010_0_10_011_011#32 = .ok ⟨0, 0, .ld 6 10 2 3 3⟩
    ∧ decodeWord 0b00_0_101010_0000110_0001010_1_10_011_011#32 = .ok ⟨0, 0, .st 6 10 2 3 3⟩
    ∧ decodeWord 0b00_0_101011_0000110_0001010_000000_011#32 = .ok ⟨0, 0, .lds 6 10 3⟩
    ∧ decodeWord 0b00_0_101011_0000110_0001010_010000_011#32 = .ok ⟨0, 0, .sts 6 10 3⟩
    ∧ decodeWord 0b00_0_101011_0000110_0001010_100000_011#32 = .ok ⟨0, 0, .ldw 6 10 3⟩
    ∧ decodeWord 0b00_0_101100_0000110_001010_0_0010100_10#32 = .ok ⟨0, 0, .bld 6 10 20 2⟩
    ∧ decodeWord 0b00_0_101100_0000110_001010_1_0010100_10#32 = .ok ⟨0, 0, .bst 6 10 20 2⟩ := by decide

/-- Words of the family, written out from its encodings in 05 R78 to R91. -/
theorem test_decode_atomics_and_order :
    decodeWord 0b00_0_101101_0000110_0001010_0100_011_10#32 = .ok ⟨0, 0, .atom 6 10 4 3 2⟩
    ∧ decodeWord 0b00_0_101110_0000110_0001010_0100_011_10#32 = .ok ⟨0, 0, .red 6 10 4 3 2⟩
    ∧ decodeWord 0b00_0_101111_0100_011_0000000000000_1_10#32 = .ok ⟨0, 0, .fence 4 3 1 2⟩
    ∧ decodeWord 0b00_0_101111_0000110_0001010_000010_011#32 = .ok ⟨0, 0, .waitge 6 10 3⟩
    ∧ decodeWord 0b00_0_1011110000000_0000110_000100_011#32 = .ok ⟨0, 0, .vpub 6 3⟩
    ∧ decodeWord 0b00_0_101111_0000110_0001010_000110000#32 = .ok ⟨0, 0, .privaddr 6 10⟩
    ∧ decodeWord 0b00_0_1011110000000_0000110_0010000_10#32 = .ok ⟨0, 0, .pref 6 2⟩
    ∧ decodeWord 0b00_0_1011110000000_0000110_001010000#32 = .ok ⟨0, 0, .dsync 6⟩
    ∧ decodeWord 0b00_0_10111100000000000000001010001#32 = .ok ⟨0, 0, .dsyncAll⟩
    ∧ decodeWord 0b00_0_101111_0000110_0001010_001100000#32 = .ok ⟨0, 0, .atomDetFadd 6 10⟩
    ∧ decodeWord 0b00_0_101111_0000110_0001010_001110000#32 = .ok ⟨0, 0, .atomDetBfadd2 6 10⟩ := by decide

/-- Words of the family, written out from its encodings in 05 R78 to R91. -/
theorem test_decode_copies_and_barriers :
    decodeWord 0b00_0_11000000000_1_000110_0100_1_000000#32 = .ok ⟨0, 0, .cpy 1 6 4 1⟩
    ∧ decodeWord 0b00_0_11000000001_000110_0001010_0100_0#32 = .ok ⟨0, 0, .cpym 6 10 4⟩
    ∧ decodeWord 0b00_0_11000000010_000110_001010_0100_00#32 = .ok ⟨0, 0, .bread 6 10 4⟩
    ∧ decodeWord 0b00_0_11000000011000000000000000000#32 = .ok ⟨0, 0, .gret⟩
    ∧ decodeWord 0b00_0_11000100000_0100_1_0000110_000000#32 = .ok ⟨0, 0, .barinit 4 1 6⟩
    ∧ decodeWord 0b00_0_11000100001_0100_0000110_0000000#32 = .ok ⟨0, 0, .bararr 4 6⟩
    ∧ decodeWord 0b00_0_11000100010_0100_0000110_0000000#32 = .ok ⟨0, 0, .barexp 4 6⟩
    ∧ decodeWord 0b00_0_11000100011_0100_0000110_0000000#32 = .ok ⟨0, 0, .barwait 4 6⟩
    ∧ decodeWord 0b00_0_11000100100_0100_000110_00000000#32 = .ok ⟨0, 0, .bartest 4 6⟩
    ∧ decodeWord 0b00_0_11000100101_0100_00000000000000#32 = .ok ⟨0, 0, .tbar 4⟩ := by decide

/-- Words of the family, written out from its encodings in 05 R78 to R91. -/
theorem test_decode_matrix :
    decodeWord 0b00_0_11010000000_000110_000000000000#32 = .ok ⟨0, 0, .mzero 6⟩
    ∧ decodeWord 0b00_0_11010000001_000110_0001010_00000#32 = .ok ⟨0, 0, .mlda 6 10⟩
    ∧ decodeWord 0b00_0_11010000010_000110_0001010_00000#32 = .ok ⟨0, 0, .msta 6 10⟩
    ∧ decodeWord 0b00_0_11010000011_000110_001010_010100#32 = .ok ⟨0, 0, .mloop 6 10 20⟩
    ∧ decodeWord 0b00_0_11010000100_000110_001010_010100#32 = .ok ⟨0, 0, .mdist 6 10 20⟩
    ∧ decodeWord 0b00_0_11010000101_000110_0001010_00000#32 = .ok ⟨0, 0, .mtopk 6 10⟩
    ∧ decodeWord 0b00_0_11010000110_000110_0001010_00000#32 = .ok ⟨0, 0, .mepi 6 10⟩
    ∧ decodeWord 0b00_0_11010000111_0000110_00000000000#32 = .ok ⟨0, 0, .mroute 6⟩
    ∧ decodeWord 0b00_0_11010001000_0000110_00000000000#32 = .ok ⟨0, 0, .mfence 6⟩
    ∧ decodeWord 0b00_0_11010001001_0000110_00000000000#32 = .ok ⟨0, 0, .mwait 6⟩
    ∧ decodeWord 0b00_0_11010001010_000110_000000000000#32 = .ok ⟨0, 0, .conv 6⟩
    ∧ decodeWord 0b00_0_11010001011000000000000000000#32 = .ok ⟨0, 0, .disb⟩ := by decide

/-- Words of the family, written out from its encodings in 05 R78 to R91. -/
theorem test_decode_fabric :
    decodeWord 0b00_0_11100000000_0000110_00110_10_011_0#32 = .ok ⟨0, 0, .rld 6 6 2 3⟩
    ∧ decodeWord 0b00_0_11100000001_0000110_00110_10_011_0#32 = .ok ⟨0, 0, .rst 6 6 2 3⟩
    ∧ decodeWord 0b00_0_11100000010_0000110_00110_0100_10#32 = .ok ⟨0, 0, .ratom 6 6 4 2⟩
    ∧ decodeWord 0b00_0_11100000011_0000110_0001010_0000#32 = .ok ⟨0, 0, .alwr 6 10⟩
    ∧ decodeWord 0b00_0_11100000100_0000110_10_100001011#32 = .ok ⟨0, 0, .balw 6 2 267⟩
    ∧ decodeWord 0b00_0_11100000101_000110_0001010_00000#32 = .ok ⟨0, 0, .coll 6 10⟩
    ∧ decodeWord 0b00_0_11100000110_0000110_0001010_0000#32 = .ok ⟨0, 0, .cwait 6 10⟩
    ∧ decodeWord 0b00_0_11100000111_000110_0001010_00000#32 = .ok ⟨0, 0, .chunkinc 6 10⟩
    ∧ decodeWord 0b00_0_11100001000_000110_000000000000#32 = .ok ⟨0, 0, .mighint 6⟩ := by decide

/-- Words of the family, written out from its encodings in 05 R78 to R91. -/
theorem test_decode_transfers_and_launches :
    decodeWord 0b00_0_111011_00000000000000100000111#32 = .ok ⟨0, 0, .bra 263⟩
    ∧ decodeWord 0b00_0_11110000000_000110_000100001011#32 = .ok ⟨0, 0, .call 6 267⟩
    ∧ decodeWord 0b00_0_11110000001_0000110_1_0100001011#32 = .ok ⟨0, 0, .brc 6 1 267⟩
    ∧ decodeWord 0b00_0_11110000010_000110_000000000000#32 = .ok ⟨0, 0, .ret 6⟩
    ∧ decodeWord 0b00_0_11110000011_000110_000000000000#32 = .ok ⟨0, 0, .jmpi 6⟩
    ∧ decodeWord 0b00_0_11110000100000000000000000000#32 = .ok ⟨0, 0, .exit⟩
    ∧ decodeWord 0b00_0_11110000101_000110_0001010_00000#32 = .ok ⟨0, 0, .launch 6 10⟩
    ∧ decodeWord 0b00_0_11110000110_000110_0001010_00000#32 = .ok ⟨0, 0, .launchi 6 10⟩
    ∧ decodeWord 0b00_0_11110000111_000110_0001010_00000#32 = .ok ⟨0, 0, .spawn 6 10⟩
    ∧ decodeWord 0b00_0_11110001000_000110_001010_000000#32 = .ok ⟨0, 0, .evpub 6 10⟩
    ∧ decodeWord 0b00_0_11110001001_000110_001010_000000#32 = .ok ⟨0, 0, .evwait 6 10⟩ := by decide

/-- Words of the family, written out from its encodings in 05 R78 to R91. -/
theorem test_decode_system :
    decodeWord 0b00_0_1111000101000_0000000100000111#32 = .ok ⟨0, 0, .rbeg 263⟩
    ∧ decodeWord 0b00_0_11110001011000000000000000000#32 = .ok ⟨0, 0, .rcom⟩
    ∧ decodeWord 0b00_0_1111000110000_0000000100000111#32 = .ok ⟨0, 0, .safe 263⟩
    ∧ decodeWord 0b00_0_11110001101000000000000000_011#32 = .ok ⟨0, 0, .trap 3⟩
    ∧ decodeWord 0b00_0_1111000111000_0000000100000111#32 = .ok ⟨0, 0, .svc 263⟩
    ∧ decodeWord 0b00_0_11110001111000000000000000000#32 = .ok ⟨0, 0, .eret⟩
    ∧ decodeWord 0b00_0_11110010000_0000110_00000000000#32 = .ok ⟨0, 0, .lsupd 6⟩
    ∧ decodeWord 0b00_0_11110010001_000110_000000000000#32 = .ok ⟨0, 0, .seedset 6⟩
    ∧ decodeWord 0b00_0_11110010010_000110_1_00000000000#32 = .ok ⟨0, 0, .clkrd 6 1⟩
    ∧ decodeWord 0b00_0_1111001001100_0000000100000111#32 = .ok ⟨0, 0, .halt 263⟩
    ∧ decodeWord 0b00_0_1111001010000_0000000100000111#32 = .ok ⟨0, 0, .bkpt 263⟩
    ∧ decodeWord 0b00_0_11110010101_0000110_00000000000#32 = .ok ⟨0, 0, .flrd 6⟩
    ∧ decodeWord 0b00_0_11110010101_0000110_1_0100_000000#32 = .ok ⟨0, 0, .flrdCnt 6 4⟩
    ∧ decodeWord 0b00_0_11110010110_00110_0000110_000000#32 = .ok ⟨0, 0, .wrs 6 6⟩ := by decide

/-- Words of the family, written out from its encodings in 05 R78 to R91. -/
theorem test_decode_hints_and_headers :
    decodeWord 0b00_0_11111000000000000000000000000#32 = .ok ⟨0, 0, .nop⟩
    ∧ decodeWord 0b00_0_11111000_0101_01_000000000000000#32 = .ok ⟨0, 0, .hsched 5 1⟩
    ∧ decodeWord 0b00_0_11111001_000000000000100000111#32 = .ok ⟨0, 0, .himm 263⟩
    ∧ decodeWord 0b00_0_11111010_00110_1_011_000000000000#32 = .ok ⟨0, 0, .hpred 6 1 3⟩
    ∧ decodeWord 0b00_0_11111011_1_010_1_0_10_1_1_00000000000#32 = .ok ⟨0, 0, .hmod 1 2 1 0 2 1 1⟩
    ∧ decodeWord 0b00_0_111111_100000000001_0011_0111_0_1_0#32 = .ok ⟨0, 0, .clh 2049 3 7 1 0⟩ := by decide

/-! ### Terms that WellFormed refuses -/

/-- 05 R76, R79, 04 R54: a 64-bit integer form names an odd register. -/
theorem test_wf_refuses_odd_integer_pairs :
    Instr.wf (.iadd 7 10 20 2) = false ∧ Instr.wf (.isub 6 11 20 3) = false ∧ Instr.wf (.imul 6 10 21 2) = false
    ∧ Instr.wf (.imulh 7 10 20 3) = false ∧ Instr.wf (.imad 7 10 20 2) = false ∧ Instr.wf (.imin 6 11 20 2) = false
    ∧ Instr.wf (.imax 6 10 21 3) = false ∧ Instr.wf (.icmp 6 11 20 0 2) = false ∧ Instr.wf (.movB64 7 10) = false
    ∧ Instr.wf (.iabs 7 10 1) = false ∧ Instr.wf (.ineg 6 11 1) = false ∧ Instr.wf (.lea 7 10 20 0) = false
    ∧ Instr.wf (.aadd 6 11 0) = false ∧ Instr.wf (.flick 6 11 20) = false ∧ Instr.wf (.fsr 6 10 21 0) = false
    ∧ Instr.wf (.bpack 7 10 20) = false ∧ Instr.wf (.bunpack 6 11 20) = false ∧ Instr.wf (.cvt 7 10 3 4) = false := by decide

/-- 05 R76: a predicate above 23. -/
theorem test_wf_refuses_predicates :
    Instr.wf (.icmp 24 10 20 0 0) = false ∧ Instr.wf (.isel 6 10 24 0) = false ∧ Instr.wf (.fsel 6 10 24 0) = false
    ∧ Instr.wf (.fcmp 24 10 20 0) = false ∧ Instr.wf (.brd 24 0 0 0) = false ∧ Instr.wf (.expr 24) = false
    ∧ Instr.wf (.voteAny 6 24) = false ∧ Instr.wf (.voteAll 6 24) = false ∧ Instr.wf (.voteBallot 6 24) = false
    ∧ Instr.wf (.hpred 24 0 0) = false := by decide

/-- 05 R76, R86: scalar pairs and special registers. -/
theorem test_wf_refuses_scalar_pairs :
    Instr.wf (.sadd 7 10 20 1) = false ∧ Instr.wf (.ssub 6 11 20 1) = false ∧ Instr.wf (.smul 6 10 21 3) = false
    ∧ Instr.wf (.scmp 6 11 20 0 3) = false ∧ Instr.wf (.scalarMovs 6 0 0) = false ∧ Instr.wf (.scalarMovs 6 1 1) = false
    ∧ Instr.wf (.scalarMovs 7 0 7) = false ∧ Instr.wf (.scalarMovs 6 0 17) = false ∧ Instr.wf (.vectorMovs 6 17) = false
    ∧ Instr.wf (.vectorMovs 7 8) = false ∧ Instr.wf (.exrd 7) = false ∧ Instr.wf (.exwr 7) = false ∧ Instr.wf (.voteBallot 7 6) = false
    ∧ Instr.wf (.wrs 17 6) = false ∧ Instr.wf (.wrs 7 7) = false ∧ Instr.wf (.alwr 7 10) = false ∧ Instr.wf (.waitge 7 10 0) = false
    ∧ Instr.wf (.vpub 7 0) = false ∧ Instr.wf (.pref 7 0) = false ∧ Instr.wf (.dsync 7) = false := by decide

/-- 05 R79 to R91, 06 R104, R117: reserved codes of the words' own fields. -/
theorem test_wf_refuses_reserved_codes :
    Instr.wf (.fcmp 6 10 20 5) = false ∧ Instr.wf (.cvt 6 10 4 4) = false ∧ Instr.wf (.cvt 6 10 14 4) = false ∧ Instr.wf (.cvt 6 10 11 4) = false
    ∧ Instr.wf (.redg 6 10 11) = false ∧ Instr.wf (.ld 6 10 0 6 4) = false ∧ Instr.wf (.ld 6 10 0 5 4) = false ∧ Instr.wf (.ld 6 10 0 0 6) = false
    ∧ Instr.wf (.ld 7 10 0 0 5) = false ∧ Instr.wf (.st 6 10 2 5 4) = false ∧ Instr.wf (.st 6 11 0 0 4) = false ∧ Instr.wf (.lds 6 10 6) = false
    ∧ Instr.wf (.sts 7 10 5) = false ∧ Instr.wf (.ldw 6 10 7) = false ∧ Instr.wf (.ldg 6 11 0) = false ∧ Instr.wf (.stg 6 11 0) = false
    ∧ Instr.wf (.bld 6 10 20 3) = false ∧ Instr.wf (.bst 6 10 20 3) = false ∧ Instr.wf (.atom 6 11 0 0 0) = false
    ∧ Instr.wf (.atom 7 10 1 0 0) = false ∧ Instr.wf (.atom 6 10 15 0 0) = false ∧ Instr.wf (.red 6 10 9 0 0) = false
    ∧ Instr.wf (.fence 0 3 0 1) = false ∧ Instr.wf (.fence 1 3 0 0) = false ∧ Instr.wf (.fence 1 2 1 1) = false
    ∧ Instr.wf (.waitge 6 10 6) = false ∧ Instr.wf (.vpub 6 5) = false ∧ Instr.wf (.privaddr 7 10) = false ∧ Instr.wf (.pref 6 2) = false
    ∧ Instr.wf (.atomDetFadd 6 11) = false ∧ Instr.wf (.atomDetBfadd2 6 11) = false := by decide

/-- 12 R257, 13 R286, 14 R292, R305, R306, 17 R341, 20 R375, 05 R87, R88. -/
theorem test_wf_refuses_engine_system_and_hint_fields :
    Instr.wf (.cpy 0 6 4 1) = false ∧ Instr.wf (.bread 63 10 4) = false ∧ Instr.wf (.barinit 4 1 0) = false ∧ Instr.wf (.mloop 6 10 63) = false
    ∧ Instr.wf (.mdist 6 10 62) = false ∧ Instr.wf (.rld 6 6 0 6) = false ∧ Instr.wf (.rst 7 6 0 5) = false ∧ Instr.wf (.ratom 7 6 1 0) = false
    ∧ Instr.wf (.flrdCnt 6 12) = false ∧ Instr.wf (.hsched 1 3) = false ∧ Instr.wf (.hsched 0 0) = false
    ∧ Instr.wf (.hmod 1 5 0 0 0 0 0) = false ∧ Instr.wf (.hmod 0 1 0 0 0 0 0) = false := by decide

/-! ### A small state -/

namespace Sys2Proof.Tests

set_option Elab.async false

/-- One group of 32 lanes on core 0 with the split of slot 0 in focus, its team, its context, the lowest 1 GiB of die 0 mapped onto itself: what placing a word leaves. -/
def ws : State := { State.reset.placeWord 32 0 with agenda := [], focus := some (0, 0) }
/-- Its split, group, team, context. -/
def wp : Split := { newSplit 0 (BitVec.ofNat 56 placeAddr) (laneMask 32) none with fa := 0, fb := 1 }
def wg : Group := placeGroup 0 1 0
def wt : Team := placeTeam 0
def wc : Context := placeContext
/-- The split with lane 0 alone active. -/
def wp1 : Split := { wp with exec := 1 }
/-- The split with no lane active. -/
def wp0 : Split := { wp with exec := 0 }
/-- The state with another group in its place. -/
def withG (g : Group) : State := { ws with groups := [(0, g)] }
/-- A group whose one split is p. -/
def gOf (p : Split) : Group := { wg with splits := [p] }

/-- The small state stands before any word that passes its decode. -/
theorem poised {i : Instr} {g : Group} {p : Split} (hs : g.split? 0 = some p) (hd : decodeTrap i g p.hints = none)
    (hh : g.handing = false) (hr : g.replaysAt 0 p.pc = false) : Poised (withG g) i 0 0 g p :=
  ⟨rfl, by simp [withG, State.group?, alGet], hs, hd, hh, hr, rfl⟩

theorem poisedG {i : Instr} (hd : decodeTrap i wg Hints.none = none) : Poised (withG wg) i 0 0 wg wp := poised rfl hd rfl rfl

/-- A word that commits first does so in place, when no region is open. -/
theorem startsIn {s : State} {k slot : Nat} {g : Group} {p : Split} {c : Bool} (hg : s.group? k = some g) (hr : g.region = none)
    (hl : s.readsLeft k = [] := by rfl) : StartsIn c s k slot g p s g := by
  cases c with
  | false => exact ⟨rfl, rfl⟩
  | true => exact ⟨by simp [State.commitFirst, hg, hr], hg, fun h hh => by rw [hg] at hh; cases hh; simp [State.stopsAfterCommit, hr], hl⟩

theorem startsG {c : Bool} {g : Group} {p : Split} (hr : g.region = none) : StartsIn c (withG g) 0 0 g p (withG g) g :=
  startsIn (by simp [withG, State.group?, alGet]) hr rfl

/-- What every active lane reaches, lane by lane. -/
theorem reaches {i : Instr} {s : State} {g g1 : Group} {p : Split} {ts : Nat → Target}
    (h : ∀ l < g1.width, hasLane (activeLanes g p) l = true → laneReaches i s 0 0 g g1 p l = some (.ok (ts l))) :
    AllReach i s 0 0 g g1 p ts := fun l hl => h l hl.1 hl.2

/-- Each word of a list stands poised in the small state. -/
theorem poisedAll (is : List Instr) (h : is.all (fun i => decide (decodeTrap i wg Hints.none = none)) = true) :
    ∀ i ∈ is, Poised (withG wg) i 0 0 wg wp :=
  fun i hi => poisedG (of_decide_eq_true (List.all_eq_true.mp h i hi))

/-- A pending PRED window, MOD hint, IMM hint. -/
def pPred (k : BitVec 5) : Split := { wp with hints := { Hints.none with window := some ⟨k, false, 1⟩ } }
def pSat : Split := { wp with hints := { Hints.none with mod := some ⟨true, 0, true, false, 0, false, false⟩ } }
def pImm (h : BitVec 21) : Split := { wp with hints := { Hints.none with imm := some h } }

/-- The flag that a word selects counts less than 63. -/
theorem counted {g : Group} {p : Split} {w : Bool} {n : Nat} (hf : (envOf 0 0 g p false).flag = some n) (hc : g.flagCount n < 63) : Counted g p w :=
  ⟨fun _ => by simp [hf], fun m h => by rw [hf] at h; cases h; exact hc⟩

/-! ### Witnesses: encoding, the step -/

/-- A word that is well formed, with SC 1; one whose SC is reserved. -/
theorem witness_DecodeEncode :
    (let f : Fetched := ⟨1, 1, .iadd 6 10 20 2⟩
     f.ver.toNat < 2 ∧ f.instr.isWord = true ∧ f.instr.wf = true ∧ (scReserved f.instr = true → f.sc = 0))
    ∧ (let f : Fetched := ⟨0, 0, .nop⟩
       f.ver.toNat < 2 ∧ f.instr.isWord = true ∧ f.instr.wf = true ∧ (scReserved f.instr = true → f.sc = 0)) := by decide

theorem witness_EncodeDecode : decodeWord 0b01_1_000000_0000110_0001010_0010100_10#32 = .ok ⟨1, 1, .iadd 6 10 20 2⟩ := by decide

/-- Words of the three failures: VER 11, the unassigned major 0x3D, function 11 of the major 0x0A's moves. -/
theorem witness_IllegalWordsTrap :
    (withG wg).focus = some (0, 0) ∧ (withG wg).group? 0 = some wg ∧ wg.split? 0 = some wp
    ∧ decodeWord 0b11_0_000000_0000000_0000000_0000000_00#32 = .error .schedVer
    ∧ decodeWord 0b00_0_111101_0000000_0000000_0000000_00#32 = .error .major
    ∧ decodeWord 0b00_0_001010_0000000_0000000_111111111#32 = .error .function := by decide +kernel

/-! ### Witnesses: vector and scalar words -/

/-- One word of each shape of `vectorDest`, at the last register that it may name. -/
def vectorWords : List Instr :=
  [.iadd 4 10 20 2, .imul 126 2 4 3, .imulh 127 1 2 1, .iabs 6 8 1, .and 1 2 3, .sar 127 0 1, .brev 0 127, .bfx 1 2 3 1, .bfi 1 2 3, .isel 1 2 15 1,
   .fsel 1 2 0 0, .movB32 1 2, .movB64 126 2, .movi 3 0xFFFF, .broadcastMov 4 127, .lea 8 10 3 1, .aadd 8 10 0x1FF, .vectorMovs 5 0, .fadd 1 2 3,
   .ffma 1 2 3, .fneg 1 2, .hadd2 0 1 2 3, .hmax2 1 1 2 3, .shflIdx 1 2 3, .shflXor 1 2 3, .flick 1 2 3, .fsr 1 2 4 3, .cvt 126 9 5 1]

theorem witness_VectorWordsComplete :
    (∀ i ∈ vectorWords, Poised (withG wg) i 0 0 wg wp) ∧ (∀ i ∈ vectorWords, (vectorDest i).isSome = true) ∧ activeLanes wg wp ≠ 0
    ∧ vectorSilent (.shflXor 1 2 3) = true := ⟨poisedAll _ (by decide), by decide, by decide, by decide⟩

/-- One word of each shape of `scalarDest`. -/
def scalarWords : List Instr :=
  [.sadd 1 2 3 0, .ssub 2 4 6 1, .smul 126 4 6 1, .sand 1 2 3, .sshr 127 2 3, .smovImmediate 1 0x8000, .smov 1 2, .srd 1 127 31, .scmp 1 2 3 3 1,
   .scalarMovs 1 0 1, .scalarMovs 2 0 7, .voteAny 1 0, .voteAll 1 15, .voteBallot 126 0, .redg 1 2 0, .exrd 4, .flrd 1, .flrdCnt 1 11, .cvt 4 6 11 2]

theorem witness_ScalarWordsComplete :
    (∀ i ∈ scalarWords, Poised (withG wg) i 0 0 wg wp) ∧ (∀ i ∈ scalarWords.take 18, (scalarDest i).isSome = true) ∧ scalarRuns wg wp
    ∧ scalarSilent (.exrd 4) = true :=
  ⟨poisedAll _ (by decide), by decide, .inl rfl, by decide⟩

/-- A vector word without an active lane; a guarded scalar word whose predicate is 0 everywhere. -/
theorem witness_WordsWithoutEffect :
    (Poised (withG (gOf wp0)) (.iadd 4 10 20 2) 0 0 (gOf wp0) wp0 ∧ (vectorDest (.iadd 4 10 20 2)).isSome = true ∧ activeLanes (gOf wp0) wp0 = 0)
    ∧ (Poised (withG (gOf (pPred 3))) (.sadd 1 2 3 0) 0 0 (gOf (pPred 3)) (pPred 3) ∧ (scalarDest (.sadd 1 2 3 0)).isSome = true
      ∧ ¬scalarRuns (gOf (pPred 3)) (pPred 3)) :=
  ⟨⟨poised rfl (by decide) rfl rfl, by decide, by decide⟩, poised rfl (by decide) rfl rfl, by decide,
    fun h => h.elim (by decide) (by decide)⟩

theorem witness_CompareWords :
    activeLanes wg wp ≠ 0 ∧ Poised (withG wg) (.icmp 15 126 0 3 2) 0 0 wg wp ∧ Poised (withG wg) (.icmp 0 1 1 0 0) 0 0 wg wp
    ∧ Poised (withG wg) (.fcmp 15 1 2 4) 0 0 wg wp ∧ scalarRuns wg wp ∧ Poised (withG wg) (.scmp 15 1 2 4 2) 0 0 wg wp
    ∧ Poised (withG wg) (.scmp 0 2 4 0 3) 0 0 wg wp :=
  ⟨by decide, poisedG (by decide), poisedG (by decide), poisedG (by decide), .inl rfl, poisedG (by decide), poisedG (by decide)⟩

/-- A form of each type, without and with SAT. -/
theorem witness_IntegerResults :
    (∀ i ∈ ([.iadd 4 10 20 2, .isub 1 2 3 1, .imul 2 4 6 3, .imad 1 2 3 0, .imulh 1 2 3 0, .imin 2 4 6 2, .imax 1 2 3 1, .iabs 2 4 1, .ineg 1 2 0] : List Instr),
      Poised (withG wg) i 0 0 wg wp ∧ (intForm i).isSome = true) ∧ activeLanes wg wp ≠ 0
    ∧ (Poised (withG (gOf pSat)) (.iadd 4 10 20 2) 0 0 (gOf pSat) pSat ∧ (intForm (.iadd 4 10 20 2)).isSome = true ∧ satHint pSat = true
      ∧ activeLanes (gOf pSat) pSat ≠ 0) :=
  ⟨fun i hi => ⟨poisedAll [.iadd 4 10 20 2, .isub 1 2 3 1, .imul 2 4 6 3, .imad 1 2 3 0, .imulh 1 2 3 0, .imin 2 4 6 2, .imax 1 2 3 1, .iabs 2 4 1, .ineg 1 2 0] (by decide) i hi,
    by revert i; decide⟩, by decide, poised rfl (by decide) rfl rfl, by decide, by decide, by decide⟩

theorem witness_LogicAndMoveResults :
    (∀ i ∈ ([.and 1 2 3, .or 1 2 3, .xor 1 2 3, .andn 1 2 3, .shl 1 2 3, .shr 1 2 3, .sar 1 2 3, .rol 1 2 3, .not 1 2, .popc 1 2, .clz 1 2, .brev 1 2,
        .movB32 1 2, .movB64 126 2, .movi 3 0xFFFF, .broadcastMov 4 127, .lea 8 10 3 3, .aadd 8 10 0x1FF] : List Instr),
      Poised (withG wg) i 0 0 wg wp)
    ∧ (∀ i ∈ ([.and 1 2 3, .or 1 2 3, .xor 1 2 3, .andn 1 2 3, .shl 1 2 3, .shr 1 2 3, .sar 1 2 3, .rol 1 2 3, .not 1 2, .popc 1 2, .clz 1 2,
        .brev 1 2] : List Instr), (logicForm i).isSome = true)
    ∧ (∀ i ∈ ([.movB32 1 2, .movB64 126 2, .movi 3 0xFFFF, .broadcastMov 4 127, .lea 8 10 3 3, .aadd 8 10 0x1FF] : List Instr),
      (moveForm i wg wp 0).isSome = true)
    ∧ activeLanes wg wp ≠ 0
    ∧ (Poised (withG (gOf (pImm 0x1FFFFF))) (.movi 3 0) 0 0 (gOf (pImm 0x1FFFFF)) (pImm 0x1FFFFF)
      ∧ (moveForm (.movi 3 0) (gOf (pImm 0x1FFFFF)) (pImm 0x1FFFFF) 0).isSome = true) :=
  ⟨poisedAll _ (by decide), by decide, by decide, by decide, poised rfl (by decide) rfl rfl, by decide⟩

theorem witness_BitAndSelectResults :
    activeLanes wg wp ≠ 0 ∧ ∀ i ∈ ([.bfx 1 2 3 0, .bfx 1 2 3 1, .bfi 1 2 3, .isel 1 2 0 0, .isel 1 2 15 1, .fsel 1 2 15 0, .fabs 1 2, .fneg 127 127] : List Instr),
      Poised (withG wg) i 0 0 wg wp := ⟨by decide, poisedAll _ (by decide)⟩

/-- v1 of lane 31 a signalling NaN, v2 a quiet one. -/
def gNan : Group := { wg with v := [(95, 0x7F800001), (159, 0xFFC00000)] }

theorem witness_FloatResults :
    (∀ i ∈ ([.fadd 0 1 2, .fsub 0 1 2, .fmul 0 1 2, .ffma 2 0 1, .fmin 0 1 2, .fmax 127 1 2, .hadd2 0 0 1 2, .hmul2 1 0 1 2, .hfma2 0 2 0 1, .hmin2 1 0 1 2,
        .hmax2 127 1 2 1, .sadd 2 4 6 2, .ssub 2 4 6 3, .smul 126 4 6 3, .cvt 126 9 5 1, .cvt 0 1 8 10, .cvt 4 6 11 2, .cvt 2 4 2 11, .flick 1 2 3, .fsr 1 2 4 3] :
        List Instr), Poised (withG gNan) i 0 0 gNan wp)
    ∧ activeLanes gNan wp ≠ 0 ∧ scalarRuns gNan wp ∧ 31 < gNan.width ∧ hasLane (activeLanes gNan wp) 31 = true
    ∧ 0x7F800000 < (gNan.vreg 1 31).toNat % 2 ^ 31 ∧ (gNan.vreg 1 31).getLsbD 22 = false
    ∧ 0x7F800000 < (gNan.vreg 2 31).toNat % 2 ^ 31 ∧ (gNan.vreg 2 31).getLsbD 22 = true := by
  refine ⟨fun i hi => poised rfl ?_ rfl rfl, by decide, .inl rfl, by decide, by decide, by decide, by decide, by decide, by decide⟩
  revert i; decide

theorem witness_ShuffleResults :
    (∀ i ∈ ([.shflIdx 1 2 3, .shflUp 1 2 3, .shflDown 1 2 3, .shflXor 127 127 127] : List Instr), Poised (withG wg) i 0 0 wg wp)
    ∧ (∀ i ∈ ([.shflIdx 1 2 3, .shflUp 1 2 3, .shflDown 1 2 3, .shflXor 127 127 127] : List Instr), (shuffleFrom i wg 0).isSome = true)
    ∧ activeLanes wg wp ≠ 0 := ⟨poisedAll _ (by decide), by decide, by decide⟩

/-- A form of each clause; SADD and SSUB with SAT as well. -/
theorem witness_ScalarResults :
    (∀ i ∈ ([.sadd 1 2 3 0, .ssub 2 4 6 1, .smul 1 2 3 0, .sand 1 2 3, .sor 1 2 3, .sxor 1 2 3, .sshl 1 2 3, .sshr 1 2 3, .smov 1 2, .smovImmediate 1 0x8000,
        .scmp 15 2 3 2 0, .scmp 1 2 3 3 1, .srd 1 127 0, .srd 1 127 31, .swr 127 1 0, .swr 127 1 31, .voteAny 1 15, .voteAll 1 0, .voteBallot 126 0,
        .redg 1 2 0, .redg 127 127 10] : List Instr),
      Poised (withG wg) i 0 0 wg wp) ∧ scalarRuns wg wp
    ∧ Poised (withG (gOf pSat)) (.sadd 2 4 6 1) 0 0 (gOf pSat) pSat ∧ satHint pSat = true :=
  ⟨poisedAll _ (by decide), .inl rfl, poised rfl (by decide) rfl rfl, by decide⟩

theorem witness_SpecialRegisterReads :
    (withG wg).team? wg.team = some wt
    ∧ (∀ i ∈ ([.scalarMovs 0 0 1, .scalarMovs 0 0 2, .scalarMovs 0 0 3, .scalarMovs 0 0 4, .scalarMovs 0 0 5, .scalarMovs 0 0 6, .scalarMovs 126 0 7, .scalarMovs 0 0 8, .scalarMovs 0 0 9,
        .scalarMovs 0 0 10, .scalarMovs 0 0 11, .scalarMovs 0 0 12, .scalarMovs 0 0 13, .scalarMovs 0 0 14, .scalarMovs 126 0 15, .scalarMovs 127 0 16,
        .vectorMovs 127 0, .vectorMovs 5 3, .vectorMovs 126 7, .vectorMovs 127 16] : List Instr), Poised (withG wg) i 0 0 wg wp)
    ∧ scalarRuns wg wp ∧ activeLanes wg wp ≠ 0 := ⟨rfl, poisedAll _ (by decide), .inl rfl, by decide⟩

/-! ### Witnesses: special functions, block words, masks, special registers -/

/-- v2 of lane 0 is −0, of lanes 1 and 2 are 1 and −1, of lanes 3 and 4 are 1/2 and 3, of lane 31 a NaN; flag 0 counts 62 operations; f1 counts 63. -/
def gSpec : Group := { wg with v := [(128, 0x80000000), (129, 0x3F800000), (130, 0xBF800000), (131, 0x3F000000), (132, 0x40400000), (159, 0x7FC00001)] }
def opOn (n id : Nat) : PendOp := ⟨id, 0, some n, .engine id, [], [], 0⟩
def gFull : Group := { wg with pend := (List.range 63).map (opOn 0) }
def g62 : Group := { gSpec with pend := (List.range 62).map (opOn 0) }
/-- Its flag A is none. -/
def pNone : Split := { wp with fa := 15 }

theorem witness_SpecialFunctions :
    (∀ i ∈ ([.frcp 1 2, .frsq 1 2, .fsqrt 1 2, .fexp2 1 2, .flog2 1 2, .fsin 1 2, .fcos 127 127] : List Instr),
      Poised (withG g62) i 0 0 g62 wp ∧ (specialForm i).isSome = true)
    ∧ activeLanes g62 wp ≠ 0 ∧ Counted g62 wp true
    ∧ (g62.vreg 2 0).toNat % 2 ^ 31 = 0 ∧ 0x7F800000 < (g62.vreg 2 31).toNat % 2 ^ 31
    ∧ (∀ i ∈ ([.frcp 1 2, .frsq 1 2, .fsqrt 1 2, .fexp2 1 2, .flog2 1 2, .fsin 1 2, .fcos 127 127] : List Instr), (specialResult i RndCtl.rne 0x80000000).isSome = true)
    ∧ (g62.vreg 2 2 = g62.vreg 2 1 ^^^ 0x80000000 ∧ allOnes ⟨8, 23⟩ (g62.vreg 2 1).toNat = false ∧
      ∀ x ∈ ([(.fexp2 1 2, 3), (.flog2 1 2, 4), (.fsin 1 2, 1), (.fcos 1 2, 1)] : List (Instr × Nat)),
        specialResult x.1 (roundingOf wp) (g62.vreg 2 x.2).toNat = none ∧ (specialSample x.1).map Prod.fst = some (g62.vreg 2 x.2))
    ∧ (Poised (withG (gOf pNone)) (.frcp 1 2) 0 0 (gOf pNone) pNone ∧ flagOf (gOf pNone) pNone = none)
    ∧ (Poised (withG gFull) (.fsin 1 2) 0 0 gFull wp ∧ flagOf gFull wp = some 0 ∧ 63 ≤ gFull.flagCount 0 ∧ activeLanes gFull wp ≠ 0) := by
  refine ⟨fun i hi => ⟨poised rfl ?_ rfl rfl, ?_⟩, by decide, counted (n := 0) (by decide) (by decide +kernel), by decide, by decide, by decide +kernel,
    by decide +kernel, ⟨poised rfl (by decide) rfl rfl, by decide⟩, poised rfl (by decide) rfl rfl, by decide, by decide +kernel, by decide⟩
  · revert i; decide
  · revert i; decide

/-- s4, s5 hold a control word. -/
def gCtl (c : Word) : Group := { wg with s := [(4, c)] }

/-- Forms whose control word passes: DT 8, TAG 1, each class; stochastic rounding with a pair beside the control word. A control word of each reserved field. -/
theorem witness_BlockWords :
    (Poised (withG (gCtl 0x80004)) (.bmax 1 2 2) 0 0 (gCtl 0x80004) wp ∧ blockReady (.bmax 1 2 2) (gCtl 0x80004) wp)
    ∧ (Poised (withG (gCtl 0xFF080004)) (.bscale 127 2 2) 0 0 (gCtl 0xFF080004) wp ∧ blockReady (.bscale 127 2 2) (gCtl 0xFF080004) wp
      ∧ sliceActive (gCtl 0xFF080004) wp 0 = true)
    ∧ (Poised (withG (gCtl 0x80084)) (.bq 1 2 2) 0 0 (gCtl 0x80084) wp ∧ blockReady (.bq 1 2 2) (gCtl 0x80084) wp)
    ∧ (Poised (withG (gCtl 0xA0006)) (.bdq 1 2 2) 0 0 (gCtl 0xA0006) wp ∧ blockReady (.bdq 1 2 2) (gCtl 0xA0006) wp)
    ∧ (Poised (withG (gCtl 0x780004)) (.bpack 2 4 2) 0 0 (gCtl 0x780004) wp ∧ blockReady (.bpack 2 4 2) (gCtl 0x780004) wp)
    ∧ (Poised (withG (gCtl 0x380006)) (.bunpack 2 4 2) 0 0 (gCtl 0x380006) wp ∧ blockReady (.bunpack 2 4 2) (gCtl 0x380006) wp)
    ∧ activeLanes wg wp ≠ 0
    ∧ (∀ c ∈ ([0x82004, 0x84004, 0x88004, 0x880004] : List Word), controlWord (gCtl c) 2 / 2 ^ 13 % 8 ≠ 0 ∨ controlWord (gCtl c) 2 / 2 ^ 23 % 2 ≠ 0)
    ∧ Poised (withG (gCtl 0x82004)) (.bq 1 2 2) 0 0 (gCtl 0x82004) wp := by
  have w := fun (i : Instr) (c : Word) (h : decodeTrap i (gCtl c) Hints.none = none) => poised (i := i) (g := gCtl c) (p := wp) rfl h rfl rfl
  refine ⟨⟨w _ _ (by decide), ?_⟩, ⟨w _ _ (by decide), ?_, ?_⟩, ⟨w _ _ (by decide), ?_⟩, ⟨w _ _ (by decide), ?_⟩, ⟨w _ _ (by decide), ?_⟩,
    ⟨w _ _ (by decide), ?_⟩, by decide, ?_, w _ _ (by decide)⟩
  rotate_right
  · intro c hc
    simp only [List.mem_cons, List.not_mem_nil, or_false] at hc
    rcases hc with rfl | rfl | rfl | rfl
    · exact .inl (by decide +kernel)
    · exact .inl (by decide +kernel)
    · exact .inl (by decide +kernel)
    · exact .inr (by decide +kernel)
  all_goals first | decide +kernel | (unfold blockReady; dsimp only; decide +kernel)

/-- The placed context with SEEDW. -/
def cSeedw : Context := { wc with record := memPuts [] 4 (natLe 1 1) ++ wc.record }

theorem witness_SpecialWrites :
    (∀ i ∈ ([.exwr 126, .wrs 7 126, .expr 15, .wrs 8 2, .wrs 9 1, .wrs 10 1, .wrs 11 1, .wrs 12 1, .wrs 13 127, .seedset 63, .clkrd 62 0, .clkrd 62 1] : List Instr),
      Poised (withG wg) i 0 0 wg wp)
    ∧ scalarRuns wg wp ∧ activeLanes wg wp ≠ 0 ∧ ((withG wg).ctxOf wg).field 4 1 % 2 = 0 ∧ wg.pend = []
    ∧ (let s := { withG wg with ctxs := [(1, cSeedw)] }
       Poised s (.seedset 63) 0 0 wg wp ∧ (s.ctxOf wg).field 4 1 % 2 = 1)
    ∧ Poised (withG g62) (.clkrd 62 0) 0 0 g62 wp ∧ g62.pend ≠ [] := by
  refine ⟨poisedAll _ (by decide), .inl rfl, by decide, by decide +kernel, rfl, ⟨⟨rfl, rfl, rfl, by decide, rfl, rfl, rfl⟩, by decide +kernel⟩, ?_, ?_⟩
  · exact poised rfl (by decide) rfl rfl
  · decide

/-- %lscale, %lsmin, %lsmax, COUNT, RUN, %flags. -/
def gLs (sc mn mx : BitVec 8) (count run : BitVec 16) (fl : BitVec 8) : Group :=
  { wg with lscale := sc, lsmin := mn, lsmax := mx, count := count, run := run, xflags := fl }

/-- A state of each row: overflow above the least scale and at it, RUN 0, below RUN, at RUN below the greatest scale and at it; engine operations outstanding. -/
theorem witness_LossScaleUpdate :
    (∀ g ∈ ([gLs 0x80 0x7F 0x97 5 9 0xFF, gLs 0x7F 0x7F 0x97 5 9 0x40, gLs 0x80 0x7F 0x97 0xFFFF 0 0, gLs 0x80 0x7F 0x97 7 9 0,
        gLs 0x96 0x7F 0x97 8 9 0, gLs 0x97 0x7F 0x97 0xFFFF 0xFFFF 0] : List Group), Poised (withG g) (.lsupd 127) 0 0 g wp)
    ∧ scalarRuns wg wp ∧ (∀ o ∈ wg.pend, ∃ n, o.kind = .engine n)
    ∧ Poised (withG g62) (.lsupd 1) 0 0 g62 wp ∧ (∀ o ∈ g62.pend, ∃ n, o.kind = .engine n) := by
  refine ⟨fun g hg => ?_, .inl rfl, by simp [wg, placeGroup, newGroup], poised rfl (by decide) rfl rfl, ?_⟩
  · simp only [List.mem_cons, List.not_mem_nil, or_false] at hg
    rcases hg with rfl | rfl | rfl | rfl | rfl | rfl <;> exact poised rfl (by decide) rfl rfl
  · intro o ho
    simp only [g62, List.mem_map] at ho
    obtain ⟨n, -, rfl⟩ := ho
    exact ⟨n, rfl⟩

/-! ### Witnesses: hints, transfers, divergence -/

/-- A hint of each kind, a header, NOP in an open window and outside. -/
theorem witness_HintWords :
    (∀ i ∈ ([.himm 0x1FFFFF, .hpred 15 1 3, .hmod 1 3 1 1 3 1 1, .hsched 15 2, .hsched 0 0, .clh 0xFFF 11 15 1 1, .nop] : List Instr),
      Poised (withG wg) i 0 0 wg wp)
    ∧ Poised (withG (gOf (pPred 3))) .nop 0 0 (gOf (pPred 3)) (pPred 3) := ⟨poisedAll _ (by decide), poised rfl (by decide) rfl rfl⟩

/-- The small state with clause headers at 0x10000 and 0x10100, and another group in its place. -/
def withH (g : Group) : State :=
  ((withG g).putBytes (hbmKey 0 0x10000) 0 (natLe 0x1F800000 4)).putBytes (hbmKey 0 0x10100) 0 (natLe 0x1F800000 4)

theorem headerIn {c : Context} {s : State} {g : Group} {a : Pc} (h : s.ctx? g.ctx = some c) (ha : a.toNat % 4 = 0)
    (hf : s.fetchOwned c a.toNat = none ∧ s.fetchWord 0 c a.toNat = .ok 0x1F800000) : headerAt s 0 g a := ⟨ha, c, _, h, hf.1, hf.2, by decide⟩
theorem header {s : State} {g : Group} {a : Pc} (h : s.ctx? g.ctx = some wc) (ha : a.toNat % 4 = 0)
    (hf : s.fetchOwned wc a.toNat = none ∧ s.fetchWord 0 wc a.toNat = .ok 0x1F800000) : headerAt s 0 g a := headerIn h ha hf

/-- BRA −1, CALL −1, BRC both ways, RET and JMPI to a header; JMPI to an address that is not a word's, to a word that is no header, that an engine owns, that no page maps. -/
def gT (x : Word) : Group := { wg with s := [(2, x)] }
def isErr {ε α : Type} : Except ε α → Bool
  | .ok _ => false
  | .error _ => true
theorem okExcept {ε α : Type} {x : Except ε α} (h : x.isOk = true) : ∃ a, x = .ok a := by
  cases x <;> first | exact ⟨_, rfl⟩ | cases h
theorem errOf {ε α : Type} {x : Except ε α} (h : isErr x = true) : ∃ e, x = .error e := by
  cases x <;> first | exact ⟨_, rfl⟩ | cases h

theorem witness_TransferWords :
    (∀ i ∈ ([.bra 0x7FFFFF, .call 63 0xFFF, .brc 1 0 0x3FF, .brc 2 1 0x3FF, .ret 1, .jmpi 1] : List Instr),
      Poised (withH (gT 0x10000)) i 0 0 (gT 0x10000) wp ∧
      ∃ t, transferOf i (withH (gT 0x10000)) 0 (gT 0x10000) wp = some (0x10000, t))
    ∧ scalarRuns (gT 0x10000) wp ∧ headerAt (withH (gT 0x10000)) 0 (gT 0x10000) 0x10000
    ∧ (Poised (withH (gT 0x10000)) (.brc 2 0 0x3FF) 0 0 (gT 0x10000) wp ∧ transferOf (.brc 2 0 0x3FF) (withH (gT 0x10000)) 0 (gT 0x10000) wp = none)
    ∧ (Poised (withH (gT 0x10001)) (.jmpi 1) 0 0 (gT 0x10001) wp ∧
      transferOf (.jmpi 1) (withH (gT 0x10001)) 0 (gT 0x10001) wp = some (0x10001, withH (gT 0x10001)) ∧ (0x10001 : Pc).toNat % 4 ≠ 0)
    ∧ (Poised (withH (gT 0x10004)) (.jmpi 1) 0 0 (gT 0x10004) wp ∧
      transferOf (.jmpi 1) (withH (gT 0x10004)) 0 (gT 0x10004) wp = some (0x10004, withH (gT 0x10004)) ∧ (0x10004 : Pc).toNat % 4 = 0 ∧
      (withH (gT 0x10004)).ctx? 1 = some wc ∧ (withH (gT 0x10004)).fetchOwned wc 0x10004 = none ∧ (withH (gT 0x10004)).fetchWord 0 wc 0x10004 = .ok 0 ∧
      (0 : Word).toNat / 2 ^ 23 % 64 ≠ 0x3F)
    ∧ (let s := { withH (gT 0x10000) with owned := [((⟨hbmKey 0 0x10000, 0x200⟩ : LineRef).own, 7)] }
       Poised s (.ret 1) 0 0 (gT 0x10000) wp ∧ transferOf (.ret 1) s 0 (gT 0x10000) wp = some (0x10000, s) ∧ s.ctx? 1 = some wc ∧ (s.fetchOwned wc 0x10000).isSome = true)
    ∧ (Poised (withH (gT 0xFFFFFFFC)) (.jmpi 1) 0 0 (gT 0xFFFFFFFC) wp ∧
      transferOf (.jmpi 1) (withH (gT 0xFFFFFFFC)) 0 (gT 0xFFFFFFFC) wp = some (0xFFFFFFFC, withH (gT 0xFFFFFFFC)) ∧ (0xFFFFFFFC : Pc).toNat % 4 = 0 ∧
      (withH (gT 0xFFFFFFFC)).ctx? 1 = some wc ∧ (withH (gT 0xFFFFFFFC)).fetchOwned wc 0xFFFFFFFC = none ∧ ∃ f, (withH (gT 0xFFFFFFFC)).fetchWord 0 wc 0xFFFFFFFC = .error f)
    ∧ cleanAt (withH (gT 0x10000)) 0 (gT 0x10000) 0x10000 := by
  refine ⟨fun i hi => ⟨⟨rfl, rfl, rfl, ?_, rfl, rfl, rfl⟩, ?_⟩, .inl rfl, header (by decide +kernel) (by decide) (by decide +kernel),
    ⟨⟨rfl, rfl, rfl, by decide, rfl, rfl, rfl⟩, by decide +kernel⟩, ⟨⟨rfl, rfl, rfl, by decide, rfl, rfl, rfl⟩, ?_, by decide⟩,
    ⟨⟨rfl, rfl, rfl, by decide, rfl, rfl, rfl⟩, ?_, by decide, by decide +kernel, by decide +kernel, by decide +kernel, by decide⟩,
    ⟨⟨rfl, rfl, rfl, by decide, rfl, rfl, rfl⟩, rfl, rfl, by decide +kernel⟩,
    ⟨⟨rfl, rfl, rfl, by decide, rfl, rfl, rfl⟩, rfl, by decide, by decide +kernel, by decide +kernel, errOf (by decide +kernel)⟩, fun c h x _ _ hx => by cases hx⟩
  · revert i; decide
  · simp only [List.mem_cons, List.not_mem_nil, or_false] at hi
    rcases hi with rfl | rfl | rfl | rfl | rfl | rfl <;> exact ⟨_, rfl⟩
  · rfl
  · rfl

/-- p1 holds the low 16 lanes. -/
def gB : Group := { wg with p := [(1, 0xFFFF)] }
/-- All sixteen entries in use; four splits. -/
def gDeep : Group := { gB with meet := (List.range 16).map fun e => (e, ⟨0x10100, 1, 0, 0, 0, 0, none⟩) }
def gFour : Group := { gB with splits := wp :: (List.range 3).map fun j => newSplit (j + 1) 0x10000 (1#64 <<< (40 + j)) none }

/-- No lane taken; every lane; some lanes, with entry 0 and slot 1 free, with all slots in use, with no entry free. -/
theorem witness_DivergentBranch :
    (∀ c neg, (c, neg) = (2, 0) ∨ (c, neg) = (2, 1) ∨ (c, neg) = (1, 0) → Poised (withH gB) (.brd c neg 0x1FF 0x3F) 0 0 gB wp)
    ∧ takenLanes gB wp 2 0 = 0
    ∧ (takenLanes gB wp 2 1 ≠ 0 ∧ wp.live &&& ~~~takenLanes gB wp 2 1 = 0)
    ∧ (takenLanes gB wp 1 0 ≠ 0 ∧ wp.live &&& ~~~takenLanes gB wp 1 0 ≠ 0)
    ∧ headerAt (withH gB) 0 gB (branchTarget wp 0x1FF) ∧ headerAt (wordRead (withH gB) 0 gB (branchTarget wp 0x1FF)) 0 gB (branchMeet wp 0x3F)
    ∧ alGet gB.meet 0 = none ∧ gB.split? 1 = none ∧ (gB.split? 0).isSome = true
    ∧ (Poised (withH gFour) (.brd 1 0 0x1FF 0x3F) 0 0 gFour wp ∧ (∀ j < 4, (gFour.split? j).isSome = true) ∧ alGet gFour.meet 0 = none
      ∧ headerAt (withH gFour) 0 gFour (branchTarget wp 0x1FF) ∧ headerAt (wordRead (withH gFour) 0 gFour (branchTarget wp 0x1FF)) 0 gFour (branchMeet wp 0x3F))
    ∧ (Poised (withH gDeep) (.brd 1 0 0x1FF 0x3F) 0 0 gDeep wp ∧ (∀ e < 16, (alGet gDeep.meet e).isSome = true)
      ∧ headerAt (withH gDeep) 0 gDeep (branchTarget wp 0x1FF) ∧ headerAt (wordRead (withH gDeep) 0 gDeep (branchTarget wp 0x1FF)) 0 gDeep (branchMeet wp 0x3F)) := by
  have h : ∀ g : Group, g.ctx = 1 → ((withH g).fetchOwned wc 0x10000 = none ∧ (withH g).fetchWord 0 wc 0x10000 = .ok 0x1F800000) →
      (let u := wordRead (withH g) 0 g 0x10000
       u.ctx? 1 = some wc ∧ u.fetchOwned wc 0x10100 = none ∧ u.fetchWord 0 wc 0x10100 = .ok 0x1F800000) →
      headerAt (withH g) 0 g (branchTarget wp 0x1FF) ∧ headerAt (wordRead (withH g) 0 g (branchTarget wp 0x1FF)) 0 g (branchMeet wp 0x3F) :=
    fun g hg h1 h2 => ⟨header (by rw [hg]; rfl) (by decide) h1, header (by rw [hg]; exact h2.1) (by decide) h2.2⟩
  obtain ⟨h1, h2⟩ := h gB rfl (by decide +kernel) (by decide +kernel)
  refine ⟨?_, by decide, by decide, by decide, h1, h2, by decide, by decide, by decide,
    ⟨⟨rfl, rfl, rfl, by decide, rfl, rfl, rfl⟩, by decide, by decide, h gFour rfl (by decide +kernel) (by decide +kernel)⟩,
    ⟨rfl, rfl, rfl, by decide, rfl, rfl, rfl⟩, by decide, h gDeep rfl (by decide +kernel) (by decide +kernel)⟩
  rintro c neg (h | h | h) <;> cases h <;> exact ⟨rfl, rfl, rfl, by decide, rfl, rfl, rfl⟩

/-- A split of lanes 0 to 15 in entry 0. -/
def pIn (e : Option Nat) : Split := { wp with live := 0xFFFF, exec := 0xFFFF, entry := e }
def meetOf (full arrived pmask : Mask) (mpc : Pc) : MeetEntry := ⟨mpc, full, arrived, 0, 0x10000, pmask, none⟩
def gMeet (m : MeetEntry) : Group := { wg with splits := [pIn (some 0)], meet := [(0, m)] }
/-- The team with the group in a convened set. -/
def withSet : State := { withG wg with teams := [{ wt with sets := [⟨[0], ⟨5, 0, 0, 0⟩, [0]⟩] }] }

/-- MEET outside a region, as the last to arrive, before others; the arrival at the meet point; EXIT in a set and outside; two splits that merge. -/
theorem witness_MeetAndExit :
    (Poised (withG wg) .meet 0 0 wg wp ∧ scalarRuns wg wp ∧ wp.entry = none)
    ∧ (∀ full ∈ ([0xFFFF, 0xFFFFFFFF] : List Mask), Poised (withG (gMeet (meetOf full 0 0 0x10100))) .meet 0 0 (gMeet (meetOf full 0 0 0x10100)) (pIn (some 0)))
    ∧ keysRise none (gMeet (meetOf 0xFFFF 0 0 0x10100)).meet = true
    ∧ ((0xFFFF : Mask) &&& ~~~(0 ||| (pIn (some 0)).live) = 0 ∧ (0 : Mask) ||| (pIn (some 0)).live ||| 0 ≠ 0)
    ∧ ((gMeet (meetOf 0xFFFF 0 0 0x10100)).dropSplit 0).split? 0 = none
    ∧ (0xFFFFFFFF : Mask) &&& ~~~(0 ||| (pIn (some 0)).live) ≠ 0
    ∧ (let g := gMeet (meetOf 0xFFFFFFFF 0 0xFF000000 0x10100)
       Poised (withG g) .meet 0 0 g (pIn (some 0)) ∧ keysRise none g.meet = true ∧ (∀ q ∈ g.splits, q.slot ≠ 0 → ¬within g q 0) ∧ (g.dropSplit 0).split? 0 = none)
    ∧ (let q := newSplit 2 0x10000 0xFF0000 (some 0)
       let g := { gMeet (meetOf 0xFFFFFFFF 0 0xFF000000 0x10100) with splits := [pIn (some 0), q] }
       Poised (withG g) .meet 0 0 g (pIn (some 0)) ∧ ∃ q ∈ g.splits, q.slot ≠ 0 ∧ within g q 0)
    ∧ (let p := { pIn (some 0) with live := 0, exec := 0 }
       let g := { gMeet (meetOf 0 0 0 0x10100) with splits := [p] }
       Poised (withG g) .meet 0 0 g p ∧ scalarRuns g p ∧ (0 : Mask) &&& ~~~(0 ||| p.live) = 0 ∧ (0 : Mask) ||| p.live ||| 0 = 0)
    ∧ (agentKey (.group 0 0) = 0 ∧ (withG (gMeet (meetOf 0xFFFF 0 0 0x10004))).group? 0 = some (gMeet (meetOf 0xFFFF 0 0 0x10004)) ∧
      (gMeet (meetOf 0xFFFF 0 0 0x10004)).split? 0 = some (pIn (some 0)) ∧ (meetOf 0xFFFF 0 0 0x10004).mpc = (pIn (some 0)).pc)
    ∧ (Poised withSet .exit 0 0 wg wp ∧ (withSet.setOf wg).isSome = true)
    ∧ (Poised (withG wg) .exit 0 0 wg wp ∧ (withG wg).setOf wg = none)
    ∧ (let g := { wg with splits := [pIn none, { newSplit 3 wp.pc 0xFF0000 none with fa := 0 }] }
       (withG g).group? 0 = some g ∧ (pIn none).pc = wp.pc ∧ (pIn none).entry = none ∧ (pIn none).slot < 3) := by
  refine ⟨⟨poisedG (by decide), .inl rfl, rfl⟩, ?_, by decide, by decide, by decide, by decide,
    ⟨poised rfl (by decide) rfl rfl, by decide, by simp [gMeet, pIn, wp, newSplit], by decide⟩,
    ⟨poised rfl (by decide) rfl rfl, _, .tail _ (.head _), by decide, 1, [0], by decide, ⟨rfl, ?_⟩, by simp⟩,
    ⟨poised rfl (by decide) rfl rfl, .inl rfl, by decide, by decide⟩, ⟨rfl, by simp [withG, State.group?, alGet], rfl, rfl⟩,
    ⟨⟨rfl, rfl, rfl, by decide, rfl, rfl, rfl⟩, by decide⟩, ⟨poisedG (by decide), by decide⟩, by simp [withG, State.group?, alGet], rfl, rfl, by decide⟩
  · intro full hf
    simp only [List.mem_cons, List.not_mem_nil, or_false] at hf
    rcases hf with rfl | rfl <;> exact poised rfl (by decide) rfl rfl
  · rintro (_ | j) e h
    · cases h; exact ⟨_, rfl, by rw [if_pos rfl]; rfl⟩
    · simp at h

/-- Two splits of one entry; one split in no region; in a region with and without a pending side; BRK with no lane, outside regions, out of one and of two. -/
theorem witness_MergeAndBreak :
    (let q := newSplit 2 0x10000 0xFF0000 (some 0)
     let g := { gMeet (meetOf 0xFFFFFF 0 0 0x10100) with splits := [pIn (some 0), q] }
     Poised (withG g) .merge 0 0 g (pIn (some 0)) ∧ (g.splits.find? fun q => q.slot ≠ 0 && q.entry = (pIn (some 0)).entry) = some q)
    ∧ (Poised (withG wg) .merge 0 0 wg wp ∧ scalarRuns wg wp ∧ wp.slot = 0 ∧ (∀ q ∈ wg.splits, q.slot ≠ 0 → q.entry ≠ wp.entry) ∧ wp.entry = none)
    ∧ (∀ m ∈ ([0, 0xFF0000] : List Mask), let g := gMeet (meetOf 0xFFFFFF 0 m 0x10100)
        Poised (withG g) .merge 0 0 g (pIn (some 0)) ∧ alGet g.meet 0 = some (meetOf 0xFFFFFF 0 m 0x10100))
    ∧ (Poised (withG (gOf wp0)) (.brk 0) 0 0 (gOf wp0) wp0 ∧ activeLanes (gOf wp0) wp0 = 0)
    ∧ (Poised (withG wg) (.brk 15) 0 0 wg wp ∧ activeLanes wg wp ≠ 0 ∧ openAll wg wp [])
    ∧ (let g := { wg with splits := [pIn (some 1)], meet := [(0, meetOf 0xFFFF 0 0 0x10100), (1, ⟨0x10100, 0xFFFF, 0, 0, 0, 0, some 0⟩)] }
       Poised (withG g) (.brk 2) 0 0 g (pIn (some 1)) ∧ activeLanes g (pIn (some 1)) ≠ 0 ∧ openAll g (pIn (some 1)) [1, 0])
    ∧ (let g := gMeet (meetOf 0xFFFF 0 0 0x10100)
       Poised (withG g) (.brk 0) 0 0 g (pIn (some 0)) ∧ openEntries g (pIn (some 0)) 1 [0] ∧ (pIn (some 0)).live &&& ~~~activeLanes g (pIn (some 0)) = 0)
    ∧ (let p := { pIn (some 1) with exec := 1 }
       let g := { wg with splits := [p], meet := [(0, meetOf 0xFFFF 0 0 0x10100), (1, ⟨0x10100, 0xFFFF, 0, 0, 0, 0, some 0⟩)] }
       Poised (withG g) (.brk 1) 0 0 g p ∧ openEntries g p 2 [1, 0] ∧ p.live &&& ~~~activeLanes g p ≠ 0) := by
  refine ⟨⟨poised rfl (by decide) rfl rfl, by decide⟩, ⟨poisedG (by decide), .inl rfl, rfl, by decide, rfl⟩, ?_,
    ⟨poised rfl (by decide) rfl rfl, by decide⟩, ⟨poisedG (by decide), by decide, ⟨⟨rfl, fun j e h => by simp at h⟩, fun _ => rfl, fun e m h => by simp at h⟩⟩,
    ⟨poised rfl (by decide) rfl rfl, by decide, ⟨⟨rfl, ?_⟩, (fun h => by cases h), (fun e m h hm => by cases h; cases hm; rfl)⟩⟩,
    ⟨poised rfl (by decide) rfl rfl, ⟨rfl, ?_⟩, by decide⟩, poised rfl (by decide) rfl rfl, ⟨rfl, ?_⟩, by decide⟩
  · intro m hm
    simp only [List.mem_cons, List.not_mem_nil, or_false] at hm
    rcases hm with rfl | rfl <;> exact ⟨poised rfl (by decide) rfl rfl, rfl⟩
  · rintro (_ | _ | j) e h
    · cases h; exact ⟨_, rfl, by rw [if_pos rfl]; rfl⟩
    · cases h; exact ⟨_, rfl, by simp; exact ⟨_, rfl, rfl⟩⟩
    · simp at h
  · rintro (_ | j) e h
    · cases h; exact ⟨_, rfl, by rw [if_pos rfl]; rfl⟩
    · simp at h
  · rintro (_ | _ | j) e h
    · cases h; exact ⟨_, rfl, by rw [if_pos rfl]; rfl⟩
    · cases h; exact ⟨_, rfl, by simp; exact ⟨_, rfl, rfl⟩⟩
    · simp at h

/-! ### Witnesses: memory words -/

/-- The lines that addresses and offsets 0 to 127 of the small state reach. -/
def line0 : LineRef := ⟨0, 0⟩
def scratch0 : LineRef := ⟨2 ^ 33, 0⟩

theorem allAt {i : Instr} {s : State} {g : Group} {p : Split} {t : Target}
    (h : ∀ l < g.width, hasLane (activeLanes g p) l = true → laneReaches i s 0 0 g g p l = some (.ok t)) :
    AllReach i s 0 0 g g p fun _ => t := reaches h

theorem linesFree {s : State} {g : Group} {p : Split} {ln : LineRef} {o : Nat} (h1 : s.isOwned ln = false)
    (h2 : keyIsSram ln.key = true → (s.sramSt ln.key).present = true) : LinesFree s g g p fun _ => .line ln o :=
  fun l ln' off _ h => by cases h; exact ⟨h1, h2⟩

theorem sysQuiet {s : State} {g : Group} {o : MemOrder} {c : Scope} (h : s.fabricPending 0 g = false) : SysQuiet s 0 g o c := fun _ _ => h

/-- One lane active. -/
def g1 : Group := gOf wp1
theorem onlyFirst {g : Group} {p : Split} (h : ∀ l < 32, hasLane (activeLanes g p) l = true → l = 0) (hw : g.width = 32)
    (h0 : hasLane (activeLanes g p) 0 = true) : onlyLane g g p 0 := fun l =>
  ⟨fun ⟨hl, ha⟩ => h l (hw ▸ hl) ha, fun e => by subst e; exact ⟨by omega, h0⟩⟩

/-- An address of 124 in lane 0, as the last whole word of its line. -/
def g124 : Group := { g1 with v := [(10 * 64, 124)] }

theorem witness_LoadWords :
    (∀ i ∈ ([.ld 6 10 0 0 0, .ld 6 10 0 1 5, .ld 6 10 1 4 4, .ld 6 10 3 5 1] : List Instr),
      Poised (withG wg) i 0 0 wg wp ∧ (∃ f, memForm i = some f ∧ f.stores = false) ∧ AllReach i (withG wg) 0 0 wg wg wp (fun _ => .line line0 0))
    ∧ (∀ i ∈ ([.lds 6 10 5, .ldw 6 10 3] : List Instr),
      Poised (withG wg) i 0 0 wg wp ∧ (∃ f, memForm i = some f ∧ f.stores = false ∧ f.z < 6) ∧
        AllReach i (withG wg) 0 0 wg wg wp (fun _ => .line scratch0 0))
    ∧ activeLanes wg wp ≠ 0 ∧ Counted wg wp true ∧ wg.buf = []
    ∧ LinesFree (withG wg) wg wg wp (fun _ => .line line0 0) ∧ LinesFree (withG wg) wg wg wp (fun _ => .line scratch0 0)
    ∧ (∀ o c, SysQuiet (withG wg) 0 wg o c) ∧ acts wg wg wp 31 ∧ (withG wg).noL1 0 scratch0 = true
    ∧ (Poised (withG wg) (.ldg 6 10 0x1FF) 0 0 wg wp ∧ (memForm (.ldg 6 10 0)).isSome = true)
    ∧ (Poised (withG g124) (.ld 6 10 0 0 4) 0 0 g124 wp1 ∧ AllReach (.ld 6 10 0 0 4) (withG g124) 0 0 g124 g124 wp1 (fun _ => .line line0 124) ∧
      onlyLane g124 g124 wp1 0 ∧ LinesFree (withG g124) g124 g124 wp1 (fun _ => .line line0 124) ∧ cachePolicy wp1 ≠ 3 ∧ 124 + sizeBytes 4 ≤ 128
      ∧ Counted g124 wp1 true) := by
  refine ⟨fun i hi => ?_, fun i hi => ?_, by decide, counted (n := 0) (by decide) (by decide), rfl, linesFree (by decide +kernel) (by decide +kernel),
    linesFree (by decide +kernel) (by decide +kernel), fun _ _ => sysQuiet (by decide +kernel), ⟨by decide, by decide⟩, by decide +kernel, ⟨poisedG (by decide), by decide⟩,
    poised rfl (by decide) rfl rfl, allAt (by decide +kernel), onlyFirst (by decide) rfl (by decide), linesFree (by decide +kernel) (by decide +kernel), by decide, by decide,
    counted (n := 0) (by decide) (by decide)⟩
  · simp only [List.mem_cons, List.not_mem_nil, or_false] at hi
    rcases hi with rfl | rfl | rfl | rfl <;> exact ⟨poisedG (by decide), ⟨_, rfl, rfl⟩, allAt (by decide +kernel)⟩
  · simp only [List.mem_cons, List.not_mem_nil, or_false] at hi
    rcases hi with rfl | rfl <;> exact ⟨poisedG (by decide), ⟨_, rfl, rfl, by decide⟩, allAt (by decide +kernel)⟩

/-- A region that split 0 opened at its word. -/
def shadow0 : Shadow :=
  { v := [], side := [], s := [], p := [], xflags := 0, lscale := 0x8F, lsmin := 0x7F, lsmax := 0x97, run := 2000, count := 0, seed := 0, splits := [wp],
    meet := [], lastSplit := 3 }
def region0 : Region := { id := 9, rbeg := wp.pc, slot := 0, mask := 0, shadow := shadow0, issued := 0, replaying := false }
def gReg : Group := { wg with region := some region0 }
/-- Stores of n lines that its region has buffered. -/
def gHeld (n : Nat) : Group := { gReg with buf := (List.range n).map fun j => ⟨⟨j + 8, j + 8⟩, 0, .store 0 [1, 2] none, .rlx, .grp, 0, 0⟩ }

theorem witness_StoreWords :
    (∀ i ∈ ([.st 6 10 0 0 0, .st 6 10 0 1 5, .st 6 10 2 4 4, .st 6 10 3 3 2] : List Instr),
      Poised (withG wg) i 0 0 wg wp ∧ (∃ f, memForm i = some f ∧ f.stores = true) ∧ AllReach i (withG wg) 0 0 wg wg wp (fun _ => .line line0 0))
    ∧ (Poised (withG wg) (.sts 6 10 5) 0 0 wg wp ∧ AllReach (.sts 6 10 5) (withG wg) 0 0 wg wg wp (fun _ => .line scratch0 0))
    ∧ Poised (withG wg) (.stg 127 10 0x1FF) 0 0 wg wp
    ∧ activeLanes wg wp ≠ 0 ∧ Counted wg wp false ∧ wg.region = none
    ∧ LinesFree (withG wg) wg wg wp (fun _ => .line line0 0) ∧ LinesFree (withG wg) wg wg wp (fun _ => .line scratch0 0)
    ∧ (∀ o c, SysQuiet (withG wg) 0 wg o c)
    ∧ (∀ n, n = 31 ∨ n = 32 → Poised (withG (gHeld n)) (.st 6 10 0 0 4) 0 0 (gHeld n) wp ∧ activeLanes (gHeld n) wp ≠ 0 ∧ Counted (gHeld n) wp false
      ∧ (gHeld n).region.isSome = true ∧ AllReach (.st 6 10 0 0 4) (withG (gHeld n)) 0 0 (gHeld n) (gHeld n) wp (fun _ => .line line0 0))
    ∧ bufFits 32 (gHeld 31).buf [⟨line0, 0, .store 0 [0] none, .rlx, .grp, 0, 0⟩] = true
    ∧ bufFits 32 (gHeld 32).buf [⟨line0, 0, .store 0 [0] none, .rlx, .grp, 0, 0⟩] = false := by
  refine ⟨fun i hi => ?_, ⟨poisedG (by decide), allAt (by decide +kernel)⟩, poisedG (by decide), by decide, counted (n := 0) (by decide) (by decide), rfl,
    linesFree (by decide +kernel) (by decide +kernel), linesFree (by decide +kernel) (by decide +kernel), fun _ _ => sysQuiet (by decide +kernel), ?_,
    by decide +kernel, by decide +kernel⟩
  · simp only [List.mem_cons, List.not_mem_nil, or_false] at hi
    rcases hi with rfl | rfl | rfl | rfl <;> exact ⟨poisedG (by decide), ⟨_, rfl, rfl⟩, allAt (by decide +kernel)⟩
  · rintro n (rfl | rfl) <;>
      exact ⟨poised rfl (by decide +kernel) rfl rfl, by decide +kernel, counted (n := 0) (by decide +kernel) (by decide +kernel), rfl, allAt (by decide +kernel)⟩

theorem witness_StoredValues :
    (∀ i ∈ ([.sts 6 10 0, .sts 6 10 5] : List Instr), Poised (withG wg) i 0 0 wg wp ∧ (∃ f, memForm i = some f ∧ f.stores = true ∧ f.order = .rlx ∧ f.z < 6) ∧
      AllReach i (withG wg) 0 0 wg wg wp (fun _ => .line scratch0 0))
    ∧ activeLanes wg wp ≠ 0 ∧ Counted wg wp false ∧ wg.region = none ∧ LinesFree (withG wg) wg wg wp (fun _ => .line scratch0 0)
    ∧ (withG wg).noL1 0 scratch0 = true
    ∧ (Poised (withG g124) (.st 6 10 0 0 4) 0 0 g124 wp1 ∧ (∃ f, memForm (.st 6 10 0 0 4) = some f ∧ f.stores = true ∧ f.order = .rlx ∧ f.scope = .grp ∧ f.z < 6) ∧
      AllReach (.st 6 10 0 0 4) (withG g124) 0 0 g124 g124 wp1 (fun _ => .line line0 124) ∧ LinesFree (withG g124) g124 g124 wp1 (fun _ => .line line0 124) ∧
      cachesOk (withG g124) ∧ onlyLane g124 g124 wp1 0 ∧ 124 + sizeBytes 4 ≤ 128 ∧ Counted g124 wp1 false) := by
  refine ⟨fun i hi => ?_, by decide, counted (n := 0) (by decide) (by decide), rfl, linesFree (by decide +kernel) (by decide +kernel), by decide +kernel,
    poised rfl (by decide) rfl rfl, ⟨_, rfl, rfl, rfl, rfl, by decide⟩, allAt (by decide +kernel), linesFree (by decide +kernel) (by decide +kernel), ?_,
    onlyFirst (by decide) rfl (by decide), by decide, counted (n := 0) (by decide) (by decide)⟩
  · simp only [List.mem_cons, List.not_mem_nil, or_false] at hi
    rcases hi with rfl | rfl <;> exact ⟨poisedG (by decide), ⟨_, rfl, rfl, rfl, by decide⟩, allAt (by decide +kernel)⟩
  · intro x hx; cases hx

/-- Lane 31 holds an address that is not aligned, one beyond every window, one beyond the team's scratchpad. -/
def gBad (lo hi : Word) : Group := { wg with v := [(10 * 64 + 31, lo), (11 * 64 + 31, hi)] }

theorem witness_LaneFaultsTrap :
    (Poised (withG (gBad 2 0)) (.ld 6 10 0 0 4) 0 0 (gBad 2 0) wp ∧ laneReaches (.ld 6 10 0 0 4) (withG (gBad 2 0)) 0 0 (gBad 2 0) (gBad 2 0) wp 31 = some (.error ⟨1, 0x40, none⟩))
    ∧ (Poised (withG (gBad 0 1)) (.st 6 10 0 0 4) 0 0 (gBad 0 1) wp ∧
      ∃ f, laneReaches (.st 6 10 0 0 4) (withG (gBad 0 1)) 0 0 (gBad 0 1) (gBad 0 1) wp 31 = some (.error f))
    ∧ (Poised (withG (gBad 0x80000 0)) (.lds 6 10 4) 0 0 (gBad 0x80000 0) wp ∧
      ∃ f, laneReaches (.lds 6 10 4) (withG (gBad 0x80000 0)) 0 0 (gBad 0x80000 0) (gBad 0x80000 0) wp 31 = some (.error f))
    ∧ (Poised (withG (gBad 1 0)) (.red 6 10 0 0 0) 0 0 (gBad 1 0) wp ∧
      ∃ f, laneReaches (.red 6 10 0 0 0) (withG (gBad 1 0)) 0 0 (gBad 1 0) (gBad 1 0) wp 31 = some (.error f))
    ∧ acts (gBad 2 0) (gBad 2 0) wp 31 ∧ (∀ w, Counted (gBad 2 0) wp w) := by
  refine ⟨⟨poised rfl (by decide) rfl rfl, by decide +kernel⟩, ⟨poised rfl (by decide) rfl rfl, _, rfl⟩, ⟨poised rfl (by decide) rfl rfl, _, rfl⟩,
    ⟨poised rfl (by decide) rfl rfl, _, rfl⟩, ⟨by decide, by decide⟩, fun _ => counted (n := 0) (by decide) (by decide)⟩

/-! ### Witnesses: block records, atomics, fences, words waited on -/

theorem witness_BlockRecordsComplete :
    activeLanes wg wp ≠ 0 ∧ (∃ bs, (withG wg).reachBlocks (wordEnv 0 0 wg wg wp) 2 20 0 .load = .ok bs ∧ bs.length = 1 ∧
      ∀ x ∈ bs, (withG wg).isOwned x.2.2 = false ∧ (keyIsSram x.2.2.key = true → ((withG wg).sramSt x.2.2.key).present = true))
    ∧ Poised (withG wg) (.bld 6 20 2 0) 0 0 wg wp ∧ Counted wg wp true
    ∧ (∃ bs, (withG wg).reachBlocks (wordEnv 0 0 wg wg wp) 2 20 2 .store = .ok bs ∧ bs.length = 1 ∧
      ∀ x ∈ bs, (withG wg).isOwned x.2.2 = false ∧ (keyIsSram x.2.2.key = true → ((withG wg).sramSt x.2.2.key).present = true))
    ∧ Poised (withG wg) (.bst 6 20 2 2) 0 0 wg wp ∧ Counted wg wp false ∧ wg.region = none
    ∧ (wg.buf = [] ∧ cachePolicy wp ≠ 3 ∧ wholeLine (withG wg) 0 line0 ∧ cachesOk (withG wg) ∧ homedLine (withG wg) 0 line0 ∧ elementActs wg wp 0 31 = true)
    ∧ (∀ n, n = 31 ∨ n = 32 → Poised (withG (gHeld n)) (.bst 6 20 2 1) 0 0 (gHeld n) wp ∧ (gHeld n).region.isSome = true ∧ Counted (gHeld n) wp false ∧
      (withG (gHeld n)).reachBlocks (wordEnv 0 0 (gHeld n) (gHeld n) wp) 2 20 1 .store = .ok [(0, 0, line0)] ∧
      bufFits 32 (gHeld n).buf [⟨line0, 0, .store 0 [0] (some (0, 0)), .rlx, .grp, 0, 0⟩] = decide (n = 31)) := by
  have h : ∀ w, Counted wg wp w := fun _ => counted (n := 0) (by decide) (by decide)
  refine ⟨by decide, ⟨[(0, 0, line0)], by decide +kernel, rfl, ?_⟩, poisedG (by decide), h _, ⟨[(0, 0, line0)], by decide +kernel, rfl, ?_⟩, poisedG (by decide), h _, rfl,
    ⟨rfl, by decide, .inr (fun x h => by cases h), (fun x hx => by cases hx), (fun x h => by cases h), by decide⟩, ?_⟩
  rotate_right
  · rintro n (rfl | rfl) <;>
      exact ⟨poised rfl (by decide +kernel) rfl rfl, rfl, counted (n := 0) (by decide +kernel) (by decide +kernel), by decide +kernel, by decide +kernel⟩
  all_goals
    intro x hx
    rw [List.mem_singleton] at hx
    subst hx
    exact ⟨by decide +kernel, by decide⟩

/-- A log that holds the word's effect, one that holds another's. -/
def gLog (en : LogEntry) : Group := { gReg with log := [en] }
def enOf (lanes : Mask) : LogEntry := ⟨lanes, (List.range 32).map fun l => (l, 0), [(0, [5])], false⟩

/-- A reduction of lane l with its location; a word of 32 lanes, 31 of which have acted. -/
def redOf (l : Nat) : Nat × BufEntry := (l, ⟨line0, 0, .red 0 4 [0] 0 false false, .rlx, .grp, 0, wp.pc⟩)
def pLanes : Split := { wp with park := .retry (.lanes ((List.range 32).map redOf) ((List.range 31).map fun l => (l, [7])) 0x10) }

/-- Outside a region, of both sizes, RED, ATOM and a releasing ATOM; cut before its first lane and before its last; in a region whose log holds another; one lane, an op of 11 R233 with a known value; RED buffered; ATOM replayed. -/
theorem witness_AtomicWords :
    (∀ i ∈ ([.red 6 10 0 4 3, .red 6 10 14 0 0, .atom 6 10 4 3 1, .atom 8 10 15 0 0, .atom 6 10 1 0 0] : List Instr),
      Poised (withG wg) i 0 0 wg wp ∧ (atomForm i).isSome = true ∧ AllReach i (withG wg) 0 0 wg wg wp (fun _ => .line line0 0))
    ∧ (Poised (withG wg) (.atom 6 10 4 3 2) 0 0 wg wp ∧ (memOrder 2).rels = true ∧ AllReach (.atom 6 10 4 3 2) (withG wg) 0 0 wg wg wp (fun _ => .line line0 0))
    ∧ activeLanes wg wp ≠ 0 ∧ (∀ w, Counted wg wp w) ∧ (∀ c, StartsIn c (withG wg) 0 0 wg wp (withG wg) wg) ∧ (∀ i, ¬glintBar i wg wg wp)
    ∧ wg.region = none ∧ LinesFree (withG wg) wg wg wp (fun _ => .line line0 0) ∧ (∀ o c, SysQuiet (withG wg) 0 wg o c)
    ∧ (withG wg).laneCut = none ∧ wp.midLanes = false
    ∧ (∀ m, m = 0 ∨ m = 31 → let s := { withG wg with laneCut := some m }
        Poised s (.atom 6 10 4 3 0) 0 0 wg wp ∧ StartsIn false s 0 0 wg wp s wg ∧ m < (laneLocations (.atom 6 10 4 3 0) wg wg wp).length ∧
        AllReach (.atom 6 10 4 3 0) s 0 0 wg wg wp (fun _ => .line line0 0) ∧ LinesFree s wg wg wp (fun _ => .line line0 0) ∧ ∀ o c, SysQuiet s 0 wg o c)
    ∧ (∀ i ∈ ([.atom 6 10 4 3 0, .red 6 10 4 3 0] : List Instr), let g := gOf pLanes
        Poised (withG g) i 0 0 g pLanes ∧ (atomForm i).isSome = true ∧ activeLanes g pLanes ≠ 0 ∧ (∀ w, Counted g pLanes w) ∧ ¬glintBar i g g pLanes)
    ∧ ((List.range 31).map fun l => (l, [(7 : Word)])).length ≤ ((List.range 32).map redOf).length
    ∧ (Poised (withG (gLog (enOf 1))) (.atom 6 10 4 3 0) 0 0 (gLog (enOf 1)) wp ∧
      (∃ keep, (gLog (enOf 1)).logStep (activeLanes (gLog (enOf 1)) wp) (laneLocations (.atom 6 10 4 3 0) (gLog (enOf 1)) (gLog (enOf 1)) wp) = .perform keep []) ∧
      AllReach (.atom 6 10 4 3 0) (withG (gLog (enOf 1))) 0 0 (gLog (enOf 1)) (gLog (enOf 1)) wp (fun _ => .line line0 0))
    ∧ (Poised (withG g124) (.atom 6 10 2 0 0) 0 0 g124 wp1 ∧ AllReach (.atom 6 10 2 0 0) (withG g124) 0 0 g124 g124 wp1 (fun _ => .line line0 124) ∧
      onlyLane g124 g124 wp1 0 ∧ (withG g124).l1Get 0 line0.ia = none)
    ∧ (let en := { enOf 0xFFFFFFFF with failed := true }
       let g := { gLog en with log := [en, enOf 2] }
       Poised (withG g) (.atom 6 10 4 3 0) 0 0 g wp ∧ g.logStep (activeLanes g wp) (laneLocations (.atom 6 10 4 3 0) g g wp) = .perform [] [enOf 2] ∧
        AllReach (.atom 6 10 4 3 0) (withG g) 0 0 g g wp (fun _ => .line line0 0))
    ∧ (Poised (withG gReg) (.red 6 10 0 4 3) 0 0 gReg wp ∧ gReg.region.isSome = true ∧ activeLanes gReg wp ≠ 0 ∧ Counted gReg wp false ∧
      AllReach (.red 6 10 0 4 3) (withG gReg) 0 0 gReg gReg wp (fun _ => .line line0 0))
    ∧ (let g := gLog (enOf 0xFFFFFFFF)
       Poised (withG g) (.atom 6 10 4 3 1) 0 0 g wp ∧ (memOrder 1).rels = false ∧ g.log[g.replayPos]? = some (enOf 0xFFFFFFFF) ∧ (enOf 0xFFFFFFFF).failed = false ∧
        (enOf 0xFFFFFFFF).lanes = activeLanes g wp ∧ (enOf 0xFFFFFFFF).locs = laneLocations (.atom 6 10 4 3 1) g g wp) := by
  have h : ∀ w, Counted wg wp w := fun _ => counted (n := 0) (by decide) (by decide)
  refine ⟨fun i hi => ?_, ⟨poisedG (by decide), rfl, allAt (by decide +kernel)⟩, by decide, h, fun _ => startsG rfl, ?_, rfl,
    linesFree (by decide +kernel) (by decide +kernel), fun _ _ => sysQuiet (by decide +kernel), rfl, rfl, ?_, ?_, by decide, ⟨poised rfl (by decide) rfl rfl, ⟨[], by decide +kernel⟩, allAt (by decide +kernel)⟩,
    ⟨poised rfl (by decide) rfl rfl, allAt (by decide +kernel), onlyFirst (by decide) rfl (by decide), by decide +kernel⟩,
    ⟨poised rfl (by decide) rfl rfl, by decide +kernel, allAt (by decide +kernel)⟩,
    ⟨poised rfl (by decide) rfl rfl, rfl, by decide, counted (n := 0) (by decide) (by decide), allAt (by decide +kernel)⟩,
    poised rfl (by decide) rfl rfl, rfl, rfl, rfl, by decide, by decide +kernel⟩
  · simp only [List.mem_cons, List.not_mem_nil, or_false] at hi
    rcases hi with rfl | rfl | rfl | rfl | rfl <;> exact ⟨poisedG (by decide), rfl, allAt (by decide +kernel)⟩
  · rintro i ⟨d, a, o, c, r, l, -, hg, -⟩
    exact absurd hg (by decide)
  · rintro m (rfl | rfl) <;> exact ⟨⟨rfl, rfl, rfl, by decide, rfl, rfl, rfl⟩, ⟨rfl, rfl⟩, by decide, allAt (by decide +kernel),
      linesFree (by decide +kernel) (by decide +kernel), fun _ _ => sysQuiet (by decide +kernel)⟩
  · intro i hi
    simp only [List.mem_cons, List.not_mem_nil, or_false] at hi
    rcases hi with rfl | rfl <;> exact ⟨poised rfl (by decide) rfl rfl, rfl, by decide, fun _ => counted (n := 0) (by decide) (by decide),
      fun ⟨_, _, _, _, _, _, _, hg, _⟩ => absurd hg (by decide)⟩

/-- The last sequence number but one of lane 31. -/
def gDet : Group := { wg with detSeq := [(31, 2 ^ 32 - 2)] }
def buf0 : DetBuf := { slice := homeSlice 0, line := line0, off := 0, ctx := 1, grid := 1, entries := [⟨3, 0, false, 0x3F800000⟩], latest := 0, va := 0 }
/-- A buffer of the next word, its entries of both forms. -/
def buf4 : DetBuf := { buf0 with off := 4, entries := [⟨3, 1, true, 0x3F803F80⟩, ⟨3, 0, false, 0x3F800000⟩] }
def reqDet : SliceReq := ⟨2, homeSlice 0, 0, false, line0, 0, false, 4, 31, 1, 1, 1, 0, 8, 0, 0x10004, 0, none⟩

theorem witness_DeterministicWords :
    (∀ i ∈ ([.atomDetFadd 6 10, .atomDetBfadd2 127 10] : List Instr), Poised (withG gDet) i 0 0 gDet wp ∧
      AllReach i (withG gDet) 0 0 gDet gDet wp (fun _ => .line line0 0))
    ∧ acts gDet gDet wp 31 ∧ Counted gDet wp.dropMod false ∧ gDet.region = none ∧ gDet.glint = none
    ∧ gDet.pend = [] ∧ (withG gDet).l1 = []
    ∧ (Poised (withG gReg) (.atomDetFadd 6 10) 0 0 gReg wp ∧ AllReach (.atomDetFadd 6 10) (withG gReg) 0 0 gReg gReg wp (fun _ => .line line0 0) ∧
      Counted gReg wp.dropMod false ∧ acts gReg gReg wp 0)
    ∧ (Poised (withG wg) .dsyncAll 0 0 wg wp ∧ Poised (withG wg) (.dsync 10) 0 0 wg wp ∧ scalarRuns wg wp ∧ StartsIn true (withG wg) 0 0 wg wp (withG wg) wg ∧
      (withG wg).team? wg.team = some wt ∧ wt.ctx = wg.ctx ∧ (withG wg).sliceReqs = [] ∧ (withG wg).detRuns = [] ∧ (withG wg).detBufs = [] ∧
      (withG wg).reachScalar (wordEnv 0 0 wg wg wp) (pairNat wg.s 10) 4 .store true = .ok line0)
    ∧ (let s := { withG wg with sliceReqs := [reqDet] }
       Poised s .dsyncAll 0 0 wg wp ∧ StartsIn true s 0 0 wg wp s wg ∧ s.team? wg.team = some wt ∧ ∃ q ∈ s.sliceReqs, q.ctx = wt.ctx ∧ q.grid = wt.grid)
    ∧ (let s := { withG wg with detBufs := [buf0, buf4, { buf0 with grid := 2 }], tlb := [(2 ^ 36, ⟨1, 0, true, false⟩)] }
       Poised s .dsyncAll 0 0 wg wp ∧ StartsIn true s 0 0 wg wp s wg ∧ s.team? wg.team = some wt ∧
        (s.detBufs.filter fun b => decide (b.ctx = wt.ctx) && decide (b.grid = wt.grid)) = [buf0, buf4] ∧ [buf0, buf4].Nodup ∧
        (∀ b ∈ [buf0, buf4], MergesAt s wt b line0) ∧
        ∀ b ∈ [buf0, buf4], ∀ b' ∈ [buf0, buf4], b ≠ b' → wordAddr line0 b + 4 ≤ wordAddr line0 b' ∨ wordAddr line0 b' + 4 ≤ wordAddr line0 b) := by
  refine ⟨fun i hi => ?_, ⟨by decide, by decide⟩, counted (n := 0) (by decide) (by decide), rfl, rfl, rfl,
    rfl, ⟨poised rfl (by decide) rfl rfl, allAt (by decide +kernel), counted (n := 0) (by decide) (by decide), by decide, by decide⟩,
    ⟨poisedG (by decide), poisedG (by decide), .inl rfl, startsG rfl, by decide, rfl, rfl, rfl, rfl, by decide +kernel⟩,
    ⟨⟨rfl, rfl, rfl, by decide, rfl, rfl, rfl⟩, startsIn rfl rfl, by decide, _, .head _, rfl, rfl⟩,
    ⟨rfl, rfl, rfl, by decide, rfl, rfl, rfl⟩, startsIn rfl rfl, by decide, by decide, by decide, fun b hb => ?_, by decide⟩
  · simp only [List.mem_cons, List.not_mem_nil, or_false] at hi
    rcases hi with rfl | rfl <;> exact ⟨poised rfl (by decide) rfl rfl, allAt (by decide +kernel)⟩
  · simp only [List.mem_cons, List.not_mem_nil, or_false] at hb
    rcases hb with rfl | rfl <;> exact ⟨by decide +kernel, .inr (by decide +kernel), by decide +kernel, by decide +kernel⟩

/-- One line in the core's L1, dirty. -/
def dirtyL1 : List (Nat × L1Line) := [(5, ⟨5, List.replicate 138 1, BitVec.allOnes 138, 3⟩)]

theorem witness_FenceCompletes :
    (let s := { withG wg with l1 := dirtyL1 }
     (∀ i ∈ ([.fence 0 3 1 0, .fence 15 2 0 3, .fence 1 5 0 1, .fence 8 4 1 2, .fence 2 0 0 2] : List Instr), Poised s i 0 0 wg wp) ∧ scalarRuns wg wp ∧
      (∀ c, StartsIn c s 0 0 wg wp s wg) ∧ (∀ m, s.domainsDone 0 wg m = true) ∧ (∀ o c, SysQuiet s 0 wg o c) ∧ keysRise none s.l1 = true)
    ∧ (Poised (withG g62) (.fence 4 2 0 1) 0 0 g62 wp ∧ StartsIn false (withG g62) 0 0 g62 wp (withG g62) g62 ∧ (withG g62).domainsDone 0 g62 4 = false)
    ∧ (let s := { withG wg with commits := [⟨4, 1, 5, ⟨3, 1, 9⟩, false, 0, 0, 0, 0, 0⟩] }
       Poised s (.fence 8 4 0 2) 0 0 wg wp ∧ StartsIn true s 0 0 wg wp s wg ∧ memScope 4 = .sys ∧ s.fabricPending 0 wg = true) := by
  refine ⟨⟨fun i hi => ⟨rfl, rfl, rfl, ?_, rfl, rfl, rfl⟩, .inl rfl, fun _ => startsIn rfl rfl, by decide +kernel, fun _ _ => sysQuiet (by decide +kernel), by decide⟩,
    ⟨poised rfl (by decide) rfl rfl, startsIn (c := false) (by decide +kernel) rfl, by decide +kernel⟩,
    ⟨rfl, rfl, rfl, by decide, rfl, rfl, rfl⟩, startsIn rfl rfl, rfl, by decide⟩
  revert i; decide

/-- A word that is reached, the value waited for equal to it and above it. -/
def gWait (d : Word) : Group := { wg with s := [(4, d)] }

theorem witness_VersionWords :
    (∀ d, d = 0 ∨ d = 1 → Poised (withG (gWait d)) (.waitge 4 10 0) 0 0 (gWait d) wp ∧ scalarRuns (gWait d) wp ∧
      (withG (gWait d)).reachScalar (wordEnv 0 0 (gWait d) (gWait d) wp) (pairNat (gWait d).s 10) 8 .load false = .ok line0 ∧
      (withG (gWait d)).isOwned line0 = false ∧ (withG (gWait d)).l1 = [])
    ∧ keyIsSram line0.key = false
    ∧ pairNat (gWait 0).s 4 ≤ leNat (overlayBuf line0.key 0 ((withG (gWait 0)).bytes line0.key 0 8) (gWait 0).buf)
    ∧ leNat (overlayBuf line0.key 0 ((withG (gWait 1)).bytes line0.key 0 8) (gWait 1).buf) < pairNat (gWait 1).s 4
    ∧ (Poised (withG wg) (.vpub 10 4) 0 0 wg wp ∧ Counted wg wp.dropMod false ∧ StartsIn true (withG wg) 0 0 wg wp (withG wg) wg ∧ wg.region = none ∧
      (withG wg).reachScalar (wordEnv 0 0 wg wg wp) (pairNat wg.s 10) 8 .store true = .ok line0 ∧ (withG wg).isOwned line0 = false ∧
      SysQuiet (withG wg) 0 wg .rel (memScope 4) ∧ (withG wg).l1 = []) := by
  refine ⟨?_, by decide, by decide +kernel, by decide +kernel, poisedG (by decide), counted (n := 0) (by decide) (by decide), startsG rfl, rfl, by decide +kernel,
    by decide +kernel, sysQuiet (by decide +kernel), rfl⟩
  rintro d (rfl | rfl) <;> exact ⟨poised rfl (by decide) rfl rfl, .inl rfl, by decide +kernel, by decide +kernel, rfl⟩

/-- A context whose lanes have 256 private bytes each; an address at the last of them, one beyond, one outside the window. -/
def cPriv : Context := { wc with record := memPuts wc.record 40 (natLe 256 4) }
def gPriv (lo hi : Word) : Group := { wg with v := (List.range 32).map (fun l => (10 * 64 + l, lo)) ++ (List.range 32).map fun l => (11 * 64 + l, hi) }
def withP (g : Group) : State := { withG g with ctxs := [(1, cPriv)] }

theorem witness_PrivateAddressAndPrefetch :
    (∀ g, g = gPriv 255 0x00FF0000 ∨ g = gPriv 256 0x00FF0000 ∨ g = gPriv 0 0x00FF0001 →
      Poised (withP g) (.privaddr 6 10) 0 0 g wp ∧ activeLanes g wp ≠ 0 ∧ acts g g wp 31 ∧ ((withP g).ctxOf g).privsz = 256)
    ∧ laneOf (gPriv 255 0x00FF0000).v true 10 31 = 0xFF0000000000FF ∧ laneOf (gPriv 256 0x00FF0000).v true 10 31 = 0xFF000000000100
    ∧ laneOf (gPriv 0 0x00FF0001).v true 10 31 = 0xFF000100000000
    ∧ Poised (withG (gBad 2 1)) (.pref 10 1) 0 0 (gBad 2 1) wp := by
  refine ⟨?_, by decide +kernel, by decide +kernel, by decide +kernel, poised rfl (by decide) rfl rfl⟩
  rintro g (rfl | rfl | rfl) <;>
    exact ⟨⟨rfl, rfl, rfl, by decide +kernel, rfl, rfl, rfl⟩, by decide +kernel, ⟨by decide +kernel, by decide +kernel⟩, by decide +kernel⟩

/-! ### Witnesses: barriers, regions, traps -/

/-- The small state with barrier 15 of its team as given. -/
def tB (b : Barrier) : Team := { wt with barriers := List.replicate 15 (newBarrier 1) ++ [b] }
def withB (b : Barrier) (g : Group) : State := { withG g with teams := [tB b] }
/-- Barriers: fresh for one group, for two, for one with a byte awaited, all but the last byte count awaited. -/
def bOf (expect remain : BitVec 7) (pend : BitVec 32) : Barrier := ⟨true, true, false, false, 255, expect, remain, 0, pend⟩
/-- A strict barrier that one arrival or byte completes, with an overrun and a fault; one whose last phase had an overrun. -/
def bOver (remain : BitVec 7) : Barrier := ⟨true, false, true, true, 255, 1, remain, 0, 0⟩
def bLate : Barrier := ⟨true, false, false, false, 255, 1, 1, 2, 0⟩
/-- s10 holds a phase or a count. -/
def gS10 (x : Word) : Group := { wg with s := [(10, x)] }
/-- Another group of the team, on slot 1, parked on barrier 15. -/
def hB : Group := { wg with num := 1, splits := [{ wp with park := .barrier 15 }] }

theorem witness_BarrierWords :
    (∀ b ∈ ([bOf 1 1 0, bOf 127 127 0, bOf 2 1 0, bOf 1 1 7] : List Barrier),
      Poised (withB b wg) (.barinit 15 1 127) 0 0 wg wp ∧ StartsIn true (withB b wg) 0 0 wg wp (withB b wg) wg ∧ (withB b wg).team? wg.team = some (tB b) ∧
      (tB b).barrier 15 = b ∧ (withB b wg).parkedOn wg.team 15 = false)
    ∧ scalarRuns wg wp ∧ wg.splits.length ≤ 1
    ∧ (∀ b ∈ ([bOf 2 2 0, bOf 1 1 5, bOf 1 0 5, bOf 1 1 0, bOver 1] : List Barrier),
      Poised (withB b wg) (.bararr 15 127) 0 0 wg wp ∧ Poised (withB b wg) (.tbar 15) 0 0 wg wp ∧ Poised (withB b wg) (.bartest 15 63) 0 0 wg wp)
    ∧ ((withB (bOver 1) wg).parkedOn wg.team 15 = false ∧ (bOver 1).remain.toNat = 1 ∧ (bOver 1).pend = 0 ∧ (bOver 1).ovr = true ∧ (bOver 1).lax = false)
    ∧ (∀ x ∈ ([0, 0xFFFFFFFF] : List Word), Poised (withB (bOf 1 1 1) (gS10 x)) (.barexp 15 10) 0 0 (gS10 x) wp)
    ∧ (Poised (withB (bOver 0) (gS10 0)) (.barexp 15 10) 0 0 (gS10 0) wp ∧ (bOver 0).remain = 0 ∧ (bOver 0).pend = 0 ∧ (gS10 0).sreg 10 = 0 ∧
      (withB (bOver 0) (gS10 0)).parkedOn (gS10 0).team 15 = false)
    ∧ (Poised (withB bLate (gS10 254)) (.barwait 15 10) 0 0 (gS10 254) wp ∧ (bLate.phase.toNat + 255) % 256 = ((gS10 254).sreg 10).toNat % 256 ∧ bLate.lax = false ∧
      bLate.lstat.getLsbD 1 = true)
    ∧ ((bOf 1 1 1).pend.toNat + ((gS10 0).sreg 10).toNat < 2 ^ 32 ∧ 2 ^ 32 ≤ (bOf 1 1 1).pend.toNat + ((gS10 0xFFFFFFFF).sreg 10).toNat)
    ∧ (∀ x ∈ ([255, 256] : List Word), Poised (withB (bOf 1 1 0) (gS10 x)) (.barwait 15 10) 0 0 (gS10 x) wp)
    ∧ ((bOf 1 1 0).phase.toNat = ((gS10 255).sreg 10).toNat % 256 ∧ (bOf 1 1 0).phase.toNat ≠ ((gS10 256).sreg 10).toNat % 256)
    ∧ (∀ b, b = bOf 1 1 0 ∨ b = bOver 1 → let s := { withB b wg with groups := [(0, wg), (1, hB)] }
       Poised s (.bararr 15 0) 0 0 wg wp ∧ StartsIn true s 0 0 wg wp s wg ∧ s.team? wg.team = some (tB b) ∧ s.group? 1 = some hB ∧ hB.team = wg.team ∧
        hB.glint = none ∧ ((tB b).barrier 15).remain.toNat = 1 ∧ ((tB b).barrier 15).pend = 0) := by
  refine ⟨fun b hb => ?_, .inl rfl, by decide, fun b hb => ?_, by decide, fun x hx => ?_, ⟨⟨rfl, rfl, rfl, by decide, rfl, rfl, rfl⟩, by decide, by decide, by decide, by decide⟩,
    ⟨⟨rfl, rfl, rfl, by decide, rfl, rfl, rfl⟩, by decide, by decide, by decide⟩, by decide, fun x hx => ?_, by decide, ?_⟩
  · simp only [List.mem_cons, List.not_mem_nil, or_false] at hb
    rcases hb with rfl | rfl | rfl | rfl <;> exact ⟨⟨rfl, rfl, rfl, by decide, rfl, rfl, rfl⟩, startsIn rfl rfl, rfl, by decide, by decide⟩
  · simp only [List.mem_cons, List.not_mem_nil, or_false] at hb
    rcases hb with rfl | rfl | rfl | rfl | rfl <;>
      exact ⟨⟨rfl, rfl, rfl, by decide, rfl, rfl, rfl⟩, ⟨rfl, rfl, rfl, by decide, rfl, rfl, rfl⟩, ⟨rfl, rfl, rfl, by decide, rfl, rfl, rfl⟩⟩
  · simp only [List.mem_cons, List.not_mem_nil, or_false] at hx
    rcases hx with rfl | rfl <;> exact ⟨rfl, rfl, rfl, by decide, rfl, rfl, rfl⟩
  · simp only [List.mem_cons, List.not_mem_nil, or_false] at hx
    rcases hx with rfl | rfl <;> exact ⟨rfl, rfl, rfl, by decide, rfl, rfl, rfl⟩
  · rintro b (rfl | rfl) <;> exact ⟨⟨rfl, rfl, rfl, by decide, rfl, rfl, rfl⟩, startsIn rfl rfl, rfl, rfl, rfl, rfl, by decide, by decide⟩

/-- A store that a region has buffered, to a scratchpad line. -/
def store0 : BufEntry := ⟨scratch0, 0, .store 126 [1, 2] none, .rlx, .grp, 0, 0⟩
def gOne : Group := { gReg with buf := [store0] }
/-- Stores, a record and a reduction that a region has buffered. -/
def gMany : Group :=
  { gReg with buf := [store0, ⟨scratch0, 0, .store 17 (List.replicate 17 3) (some (1, 2)), .rlx, .grp, 0, 0⟩,
                      ⟨scratch0, 0, .red 16 4 [5] 0 false false, .rlx, .die, 0, 0⟩] }
def gTwo : Group := { gReg with splits := [wp, newSplit 1 0x10000 0xFF00000000 none] }

theorem witness_RegionWords :
    (∀ i ∈ ([.rbeg 0xFFFF, .safe 0] : List Instr), Poised (withG wg) i 0 0 wg wp) ∧ wg.splits.length ≤ 1 ∧ wg.region = none ∧ (∀ o ∈ wg.pend, o.flag = none)
    ∧ (Poised (withG gTwo) (.safe 0) 0 0 gTwo wp ∧ 1 < gTwo.splits.length)
    ∧ (∀ i ∈ ([.rbeg 0, .rcom, .safe 0xFFFF] : List Instr), Poised (withG gReg) i 0 0 gReg wp)
    ∧ gReg.region = some region0 ∧ gReg.splits.length ≤ 1 ∧ CanCommit (withG gReg) 0 gReg ∧ gReg.buf = []
    ∧ Poised (withG wg) .rcom 0 0 wg wp
    ∧ (Poised (withG gTwo) .rcom 0 0 gTwo wp ∧ ∀ o ∈ gTwo.pend, o.flag = none)
    ∧ (∀ i ∈ ([.rcom, .safe 0] : List Instr), Poised (withG gMany) i 0 0 gMany wp) ∧ CanCommit (withG gMany) 0 gMany ∧ gMany.buf.length = 3
    ∧ (withG gMany).l1 = [] ∧ ∀ e ∈ gMany.buf, (withG gMany).noL1 0 e.line = true := by
  refine ⟨poisedAll _ (by decide), by decide, rfl, by simp [wg, placeGroup, newGroup], ⟨poised rfl (by decide) rfl rfl, by decide⟩, fun i hi => poised rfl ?_ rfl rfl,
    rfl, by decide, ⟨by simp [gReg, wg, placeGroup, newGroup], by decide +kernel, by simp [gReg, wg, placeGroup, newGroup]⟩, rfl, poisedG (by decide),
    ⟨poised rfl (by decide) rfl rfl, by simp [gTwo, gReg, wg, placeGroup, newGroup]⟩, fun i hi => poised rfl ?_ rfl rfl,
    ⟨by simp [gMany, gReg, wg, placeGroup, newGroup], by decide +kernel, by decide +kernel⟩, rfl, rfl, by decide +kernel⟩
  · revert i; decide
  · revert i; decide

/-- A region of registers v0 to v7 and s120 to s127, some of them shadowed. -/
def regionMask : Region :=
  { region0 with mask := 0x80000001, shadow := { shadow0 with v := [(7 * 64 + 31, 9)], side := [(15, 3)], s := [(120, 4), (127, 5)] } }

theorem witness_AbortRestores :
    (withG { gReg with region := some regionMask }).group? 0 = some { gReg with region := some regionMask } ∧ shadowFits regionMask
    ∧ regionMask.mask.getLsbD (7 / 8) = true ∧ regionMask.mask.getLsbD (8 / 8) = false ∧ regionMask.mask.getLsbD (16 + 127 / 8) = true :=
  ⟨by decide +kernel, by unfold shadowFits; decide +kernel, by decide, by decide, by decide⟩

/-- A context whose handler starts at 0x10000, and its trap frames at 0x20000. -/
def cTrap : Context := { wc with record := memPuts wc.record 16 (natLe 0x10000 8 ++ natLe 0x20000 8) }
def withTrap (g : Group) : State := { withH g with ctxs := [(1, cTrap)] }
def frame0 : LineRef := ⟨0x400, 0x400⟩

theorem canEnter : CanEnter (withTrap wg) 0 wg cTrap frame0 :=
  ⟨rfl, rfl, rfl, rfl, by simp [wg, placeGroup, newGroup], rfl, rfl, rfl, by decide +kernel,
    ⟨by decide +kernel, headerIn (c := cTrap) rfl (by decide +kernel) (by decide +kernel)⟩, by decide +kernel, by decide +kernel⟩

theorem canAbort {g : Group} {r : Region} (h : g.region = some r ∧ g.glint = none ∧ g.handler = none ∧ g.ctx = 1 ∧ g.pslot = 0)
    (ha : (withTrap g).group? 0 = some g ∧ (withTrap g).atomicsOut 0 = false)
    (hf : (withTrap g).fetchOwned cTrap 0x10000 = none ∧ (withTrap g).fetchWord 0 cTrap 0x10000 = .ok 0x1F800000)
    (hl : (withTrap g).resolveScalar cTrap (cTrap.tfbase + 64 * 0) .store false = .ok frame0 ∧ (withTrap g).isOwned frame0 = false ∧ cTrap.handler = 0x10000) :
    CanAbort (withTrap g) 0 g r cTrap frame0 := by
  obtain ⟨h1, h2, h3, h4, h5⟩ := h
  have hc : (withTrap g).ctx? g.ctx = some cTrap := by rw [h4]; rfl
  refine ⟨ha.1, h2, h1, h3, ha.2, hc, rfl, by rw [hl.2.2]; decide, ⟨by rw [hl.2.2]; decide, ?_⟩, by rw [h5]; exact hl.1, hl.2.1⟩
  rw [hl.2.2]
  exact headerIn hc (by decide) hf

/-- A cause that continues, one that does not; in a region one of each column; each of TRAP, SVC, BKPT and HALT, at the bounds of its number. -/
theorem witness_TrapWords :
    CanEnter (withTrap wg) 0 wg cTrap frame0 ∧ wg.split? 0 = some wp
    ∧ (∀ c ∈ ([0x00, 0x12, 0x18, 0x1F, 0x20, 0x40, 0x69, 0x6B, 0xB2, 0xB9, 0xC0] : List Byte), alwaysReports c = false ∧ c ≠ 0x64)
    ∧ (∀ i ∈ ([.trap 0, .trap 7, .svc 0xFFFF, .bkpt 0, .halt 0xFFFF] : List Instr), Poised (withTrap wg) i 0 0 wg wp) ∧ scalarRuns wg wp
    ∧ cTrap.preempting = none
    ∧ (CanAbort (withTrap gReg) 0 gReg region0 cTrap frame0 ∧ gReg.split? 0 = some wp ∧ region0.replaying = false ∧ gReg.buf = [] ∧
      CanCommit (withTrap gReg) 0 gReg ∧ (withTrap gReg).readsLeft 0 = [])
    ∧ ([0x00, 0x0F, 0x15, 0x17, 0x20, 0x2F, 0x40, 0x4B, 0x50, 0x63] : List Byte).all abortsRegion = true
    ∧ ([0x4C, 0x4E, 0x6D, 0xAD, 0xAF] : List Byte).all replaysRegion = true
    ∧ ([0x12, 0x13, 0x18, 0x1F, 0xB2] : List Byte).all continues = true := by
  refine ⟨canEnter, rfl, by decide, fun i hi => ⟨rfl, rfl, rfl, ?_, rfl, rfl, rfl⟩, .inl rfl, rfl,
    ⟨canAbort (by decide +kernel) (by decide +kernel) (by decide +kernel) (by decide +kernel), rfl, rfl, rfl,
      ⟨by simp [gReg, wg, placeGroup, newGroup], by decide +kernel, by simp [gReg, wg, placeGroup, newGroup]⟩, rfl⟩, by decide, by decide, by decide⟩
  revert i; decide

/-- A group in its handler, the RESUME of its frame as given. -/
def aside0 : SetAside := { splits := [wp], meet := [], lastSplit := 0, split := 0, frame := 0x20000, region := none, log := [], replayPos := 0, flags := [] }
def gHand : Group := { wg with handler := some aside0 }
/-- One whose region the device aborted at its trap. -/
def asideRegion : SetAside := { aside0 with region := some { region0 with replaying := true } }
def gHandRegion : Group := { wg with handler := some asideRegion }
def withHand (g : Group) (resume : Nat) : State := (withTrap g).putBytes 0x400 32 (natLe resume 8)
/-- The state once its RESUME has been read. -/
def resumed (x : Nat) : State := ((withHand gHand x).load 0 frame0 32 8 .grp 0).2

theorem witness_TrapReturn :
    Poised (withG wg) .eret 0 0 wg wp ∧ scalarRuns wg wp ∧ wg.handler = none
    ∧ Poised (withHand gHand 0x10100) .eret 0 0 gHand wp ∧ gHand.handler = some aside0
    ∧ (withHand gHand 0x10100).resolveScalar ((withHand gHand 0x10100).ctxOf gHand) (aside0.frame.toNat + 32) .load false = .ok frame0
    ∧ (withHand gHand 0x10100).isOwned frame0 = false ∧ keyIsSram frame0.key = false ∧ aside0.frame.toNat % 64 = 0
    ∧ (∀ x, x = 0x10100 ∨ x = 2 ^ 56 ∨ x = 2 ^ 56 - 1 → leNat (coreSees (withHand gHand x) 0 frame0 ((aside0.frame.toNat + 32) % 128) 8) = x)
    ∧ cachesOk (withHand gHand 0x10100) ∧ homedLine (withHand gHand 0x10100) 0 frame0
    ∧ headerAt (resumed 0x10100) 0 gHand (BitVec.ofNat 56 0x10100)
    ∧ ((resumed 0x10004).ctx? 1 = some cTrap ∧ (resumed 0x10004).fetchOwned cTrap 0x10004 = none ∧ (resumed 0x10004).fetchWord 0 cTrap 0x10004 = .ok 0)
    ∧ ((resumed 0xFFFFFFFC).ctx? 1 = some cTrap ∧ (resumed 0xFFFFFFFC).fetchOwned cTrap 0xFFFFFFFC = none ∧
      ∃ f, (resumed 0xFFFFFFFC).fetchWord 0 cTrap 0xFFFFFFFC = .error f)
    ∧ (∃ r, asideRegion.region = some r ∧ r.replaying = true ∧ leNat (coreSees (withHand gHandRegion 0x10004) 0 frame0 ((asideRegion.frame.toNat + 32) % 128) 8) = r.rbeg.toNat)
    ∧ Poised (withHand gHandRegion 0x10004) .eret 0 0 gHandRegion wp := by
  refine ⟨poisedG (by decide), .inl rfl, rfl, ⟨rfl, rfl, rfl, by decide, rfl, rfl, rfl⟩, rfl, by decide +kernel, by decide +kernel, by decide, by decide, ?_,
    (fun x hx => by cases hx), (fun x hx => by cases hx), headerIn (c := cTrap) (by decide +kernel) (by decide) (by decide +kernel), by decide +kernel,
    ⟨by decide +kernel, by decide +kernel, errOf (by decide +kernel)⟩, ⟨_, rfl, rfl, by decide +kernel⟩, rfl, rfl, rfl, by decide, rfl, rfl, rfl⟩
  rintro x (rfl | rfl | rfl) <;> decide +kernel

theorem witness_FlagReads :
    scalarRuns wg wp ∧ Poised (withG g62) (.flrd 127) 0 0 g62 wp ∧ Poised (withG g62) (.flrdCnt 127 0) 0 0 g62 wp ∧ Poised (withG g62) (.flrdCnt 0 11) 0 0 g62 wp
    ∧ (withG wg).focus = some (0, 0) ∧ (withG wg).group? 0 = some wg ∧ wg.split? 0 = some wp ∧ wg.glint = none ∧ wp.hints.imm = none
    ∧ 12 ≤ (12 : BitVec 4).toNat ∧ 12 ≤ (15 : BitVec 4).toNat :=
  ⟨.inl rfl, poised rfl (by decide) rfl rfl, poised rfl (by decide) rfl rfl, poised rfl (by decide) rfl rfl, rfl, rfl, rfl, rfl, rfl, by decide, by decide⟩

/-! ### Witnesses: copies, bulk reads, glints -/

/-- The state that an outcome goes on in. -/
def nextOf (o : Host.Outcome State Fault Refusal) : State :=
  match o with
  | .next s => s
  | _ => State.reset

theorem eq_next {o : Host.Outcome State Fault Refusal} {s : State} (h : (match o with | .next t => decide (t = s) | _ => false) = true) : o = .next s := by
  cases o <;> simp_all

/-- A record that moves 32 words of 32 bits, one line, between an address and line 4 of the scratchpad (12 R244). -/
def moveRecord (gbase : Nat) : List Byte :=
  natLe (2 ^ 58 + gbase) 8 ++ natLe (31 * 2 ^ 32) 8 ++ natLe 0 32 ++ natLe (4 * 2 ^ 51 + 2 ^ 39 + 2 * 2 ^ 30 + 2 * 2 ^ 23) 8 ++ natLe 0 8
/-- Record at offset 0, completion record at 128, the handler, a mask of cores 0 and 23. -/
def gEng : Group := { wg with s := [(5, 128), (8, 0x10000), (10, 0x800001)] }
/-- The small state with that group, barrier 15 initialised, the record in line 0 of its scratchpad. -/
def withRecord (r : List Byte) (g : Group) : State := { (withH g).putBytes (sramKey 0 0) 0 r with teams := [tB (bOf 1 1 0)] }
def withEng (gbase : Nat) (g : Group) : State := withRecord (moveRecord gbase) g
/-- A requantisation of one line of W4 blocks that keeps their tags, under rounding to zero, its codebook in line 2 of the scratchpad. -/
def keepRecord : List Byte :=
  natLe (3 * 2 ^ 61 + 2 ^ 58 + 0x40000) 8 ++ natLe (255 * 2 ^ 32) 8 ++ natLe 0 32 ++ natLe (4 * 2 ^ 51 + 2 ^ 39 + 2 ^ 34 + 2 ^ 27 + 2 ^ 15 + 2 ^ 6) 8 ++ natLe (16 * 2 ^ 3) 8
def yMove (out bulk : Bool) : Layout := ⟨recordOf (withEng 0x40000 gEng) gEng 2 0 0, out, bulk⟩

theorem copyPoised {i : Instr} {gb : Nat} (h : decodeTrap i gEng Hints.none = none) : Poised (withEng gb gEng) i 0 0 gEng wp :=
  ⟨rfl, rfl, rfl, h, rfl, rfl, rfl⟩

theorem engineReady (gb : Nat) (bar : Option Nat) (hb : bar = none ∨ bar = some 15) :
    EngineReady (withEng gb gEng) gEng (tB (bOf 1 1 0)) 2 bar 0 0 0 1 := by
  refine ⟨by decide, by decide, by decide, ⟨rfl, rfl⟩, ⟨rfl, rfl⟩, fun n hn => ?_⟩
  rcases hb with rfl | rfl <;> cases hn
  decide

/-- A glint that has returned, with nothing buffered and with a store buffered. -/
def gGlint (b : List BufEntry) : Group := { wg with glint := some ⟨7, 0, 0, [], [], 0⟩, buf := b }

theorem witness_CopyWords :
    scalarRuns gEng wp ∧ Counted gEng wp false ∧ (withEng 0x40000 gEng).team? gEng.team = some (tB (bOf 1 1 0))
    ∧ StartsIn true (withEng 0x40000 gEng) 0 0 gEng wp (withEng 0x40000 gEng) gEng
    ∧ (∀ i ∈ ([.cpy 0 2 0 1, .cpy 1 2 15 0, .cpym 2 10 15, .bread 2 4 15] : List Instr), Poised (withEng 0x40000 gEng) i 0 0 gEng wp)
    ∧ EngineReady (withEng 0x40000 gEng) gEng (tB (bOf 1 1 0)) 2 none 0 0 0 1
    ∧ EngineReady (withEng 0x40000 gEng) gEng (tB (bOf 1 1 0)) 2 (some 15) 0 0 0 1
    ∧ (withEng 0x40000 gEng).recordCheck (tB (bOf 1 1 0)) (yMove false false) .copy = none
    ∧ (yMove false false).tileLines.contains ((gEng.sreg 5).toNat / 128) = false
    ∧ (withEng 0x40000 gEng).recordCheck (tB (bOf 1 1 0)) (yMove true false) .copy = none
    ∧ (withEng 0x40000 gEng).recordCheck (tB (bOf 1 1 0)) (yMove false false) .multicast = none
    ∧ ((withEng 0x40000 gEng).fetched 0 wc 0x10000).recordCheck (tB (bOf 1 1 0)) (yMove false true) .bulk = none
    ∧ (gEng.sreg 10 ≠ 0 ∧ (gEng.sreg 10).toNat < 2 ^ 24) ∧ (withEng 0x40000 gEng).copies = []
    ∧ (pairNat gEng.s 8 = 0x10000 ∧ inFixed 0x10000 = false ∧ (withEng 0x40000 gEng).ctxOf gEng = wc ∧ (withEng 0x40000 gEng).fetchOwned wc 0x10000 = none ∧
      (withEng 0x40000 gEng).fetchWord 0 ((withEng 0x40000 gEng).ctxOf gEng) 0x10000 = .ok 0x1F800000)
    ∧ (∀ b, b = [] ∨ b = [store0] → Poised (withG (gGlint b)) .gret 0 0 (gGlint b) wp ∧ (gGlint b).splits.length ≤ 1 ∧ (gGlint b).glint.isSome = true)
    ∧ ((withG (gGlint [store0])).noL1 0 store0.line = true ∧ (withG (gGlint [store0])).entryPoisoned store0 = false ∧
      (withG (gGlint [store0])).entryAbsent store0 = false ∧ (withG (gGlint [store0])).entryOwned store0 = false) := by
  refine ⟨.inl rfl, counted (n := 0) (by decide) (by decide), rfl, startsIn rfl rfl, fun i hi => copyPoised (by revert i; decide), engineReady _ _ (.inl rfl),
    engineReady _ _ (.inr rfl), by decide +kernel, by decide +kernel, by decide +kernel, by decide +kernel, by decide +kernel, by decide, rfl,
    ⟨by decide, by decide, by decide +kernel, by decide +kernel, by decide +kernel⟩, ?_, by decide +kernel, by decide +kernel, by decide +kernel, by decide +kernel⟩
  rintro b (rfl | rfl) <;> exact ⟨poised rfl (by decide) rfl rfl, by decide, rfl⟩

/-- The small state with a copy of each form in flight. -/
def sIn (gb : Nat) : State := nextOf (exec (.cpy 0 2 0 1) (withEng gb gEng))
def sOut : State := nextOf (exec (.cpy 1 2 15 0) (withEng 0x40000 gEng))
def sBulk : State := nextOf (exec (.bread 2 4 15) (withEng 0x40000 gEng))
def opOf (s : State) : CopyOp := s.copies.headD (CopyOp.mk 0 .toScratch 0 0 0 0 0 [] [] 0 none 0 [] [] [] [] 0 [] [] 0 0 [] false false false)
/-- A window of 2 GiB, whose upper half no page maps: a copy from there has waited ENGWAIT, 1,000 ms, on its page. -/
def cBig : Context := { wc with record := memPuts wc.record 72 (natLe (31 * 2 ^ 58) 8) }
def sWait : State :=
  let s := nextOf (exec (.cpy 0 2 0 1) { withEng (2 ^ 30) gEng with ctxs := [(1, cBig)] })
  { s with copies := [{ opOf s with waits := [(CopyOp.waitKey 0 false (BitVec.ofNat 64 ((opOf s).layout.globalLines.getD 0 0 * 128)), 0)] }], nanos := 1000000000 }
/-- The burst has returned; the copy's one line has landed. -/
def sBurst : State := nextOf (exec (.burstReturn 2 0) sBulk)
/-- A line whose blocks are CB4 is read. -/
def sKeep : State := nextOf (exec (.cpy 0 2 0 1) (((withRecord keepRecord gEng).putBytes 0x800 136 [0xAA, 0xAA]).putBytes (sramKey 0 2) 0 (List.replicate 16 0x38)))
/-- A multicast whose one failure is a receiver's, core 23 of the cluster. -/
def sMulti : State :=
  let s := nextOf (exec (.cpym 2 10 15) (withEng 0x40000 gEng))
  { s with copies := [{ opOf s with landed := [0], failed := [1], fails := [], lines := 1, receivers := [⟨0, some 0, false, true⟩, ⟨23, none, true, false⟩] }] }
def sDone : State := { sIn 0x40000 with copies := [{ opOf (sIn 0x40000) with landed := [0], lines := 1 }] }

/-- Each event of copies: landings of both directions, a failure, a retry, a time-out, a burst, a glint, a completion. -/
theorem witness_CopyEvents :
    (∀ s ∈ ([sIn 0x40000, sOut, sIn (2 ^ 30), sWait, sBulk] : List State), s.copy? 2 = some (opOf s) ∧ isCopy s 2 ∧ s.openLine 2 0 = some (opOf s))
    ∧ ((opOf (sIn 0x40000)).kind = .toScratch ∧ ((sIn 0x40000).readFor (opOf (sIn 0x40000)) 0).2 = none ∧
      (((sIn 0x40000).readFor (opOf (sIn 0x40000)) 0).1.tileTarget (opOf (sIn 0x40000)) 0) = some (0, 4) ∧ (sIn 0x40000).ownerOf (sramOwn 0 4) = some 2)
    ∧ ((opOf sOut).kind = .toGlobal ∧ (opOf sOut).layout.cen = false ∧ (sOut.readFor (opOf sOut) 0).2 = none ∧
      (opOf sOut).layout.globalLines.getD 0 0 * 128 = 0x40000 ∧ sOut.ctx? (opOf sOut).ctx = some wc ∧ sOut.ownsVa wc 0x40000 2 = true ∧
      (sOut.readFor (opOf sOut) 0).1.engineLine wc 0x40000 .engineWrite (!(opOf sOut).layout.covers ((opOf sOut).layout.elemsOf 0)) = .ready ⟨0x800, 0x800⟩)
    ∧ ((sIn (2 ^ 30)).tryAny (opOf (sIn (2 ^ 30))) 0).2 = some (.fails 0x4A (2 ^ 30))
    ∧ (opOf (sIn 0x40000)).isBulk = false
    ∧ (alGet (opOf sWait).waits (CopyOp.waitKey 0 false (BitVec.ofNat 64 ((opOf sWait).layout.globalLines.getD 0 0 * 128))) = some 0 ∧ (opOf sWait).isBulk = false ∧ (sWait.tryAny (opOf sWait) 0).2 = some (.waits false ((opOf sWait).layout.globalLines.getD 0 0 * 128)) ∧
      0 + ((sWait.ctx? (opOf sWait).ctx).getD Context.blank).engwait ≤ sWait.nanos)
    ∧ ((opOf sBulk).isBulk = true ∧ (opOf sBulk).layout.bursts[0]? = some (0x800, [0, 0, 0, 0]) ∧ (sBulk.burstsOf (opOf sBulk).core).length < 64 ∧
      sBulk.engineLine ((sBulk.ctx? (opOf sBulk).ctx).getD Context.blank) (0x800 * 128) .engineRead true = .ready ⟨0x800, 0x800⟩ ∧
      sBulk.readWaits (⟨0x800, 0x800⟩ : LineRef).own 2 = false)
    ∧ (sBurst.copy? 2 = some (opOf sBurst) ∧ (∃ b, (sBurst.burstsOf 0)[0]? = some b ∧ sBurst.burstReady b = true ∧ b.op = 2) ∧ sBurst.group? (0 * 64 + 32 + 0) = none ∧
      (opOf sBurst).kind = .bulk 0x10000 0 ∧ (sBurst.group? (opOf sBurst).key).isSome = true)
    ∧ (∀ s ∈ ([sIn 0x40000, sOut] : List State), (opOf s).layout.cb4Refused ((((s.readFor (opOf s) 0).1.copy? 2).map CopyOp.sources).getD [])
      ((opOf s).layout.elemsOf ((opOf s).unit 0)) = false)
    ∧ (sKeep.copy? 2 = some (opOf sKeep) ∧ (sKeep.readFor (opOf sKeep) 0).2 = none ∧ (opOf sKeep).isBulk = false ∧
      (opOf sKeep).layout.cb4Refused ((((sKeep.readFor (opOf sKeep) 0).1.copy? 2).map CopyOp.sources).getD [])
        ((opOf sKeep).layout.elemsOf ((opOf sKeep).unit 0)) = true)
    ∧ (sDone.copy? 2 = some (opOf sDone) ∧ sDone.copyDone (opOf sDone) = true ∧ (opOf sDone).receivers = [])
    ∧ (sMulti.copy? 2 = some (opOf sMulti) ∧ sMulti.copyDone (opOf sMulti) = true ∧ ((opOf sMulti).receivers.filter Receiver.fault).map Receiver.core = [23] ∧
      (opOf sMulti).fails = [] ∧ (sMulti.group? (opOf sMulti).key).isSome = true) := by
  refine ⟨fun s hs => ?_, by decide +kernel, by decide +kernel, by decide +kernel, by decide +kernel, by decide +kernel, by decide +kernel,
    ⟨by decide +kernel, ⟨(sBurst.burstsOf 0).headD ⟨0, 0, 0, [], [], [], none, none⟩, by decide +kernel⟩, by decide +kernel, by decide +kernel, by decide +kernel⟩,
    fun s hs => ?_, by decide +kernel, by decide +kernel, by decide +kernel⟩
  rotate_left
  · simp only [List.mem_cons, List.not_mem_nil, or_false] at hs
    rcases hs with h | h <;> rw [h] <;> decide +kernel
  simp only [List.mem_cons, List.not_mem_nil, or_false] at hs
  rcases hs with h | h | h | h | h <;> rw [h] <;> exact ⟨by decide +kernel, ⟨by decide +kernel, by decide +kernel⟩, by decide +kernel⟩

/-! ### Witnesses: the matrix array, convened sets -/

/-- A tile word with pitch 1 in s10; an operand word of pitch 1 in the pair s8, of registers v0 to v31 in s12; loop words of one step in s14 and s10's pair. -/
def gMat : Group := { wg with s := [(8, 0), (9, 2), (10, 0x1000), (13, 0x80000000), (15, 0), (20, 0x8000003F)] }
theorem matPoised {i : Instr} (h : decodeTrap i gMat Hints.none = none) : Poised (withB (bOf 1 1 0) gMat) i 0 0 gMat wp := ⟨rfl, rfl, rfl, h, rfl, rfl, rfl⟩
def sMat : State := withB (bOf 1 1 0) gMat
def tMat : Team := tB (bOf 1 1 0)
/-- The group with some batches of its own closed and complete. -/
def gBat (closed complete : Nat) : Group := { gMat with mat := ⟨1, 0, closed, complete⟩ }

/-- One operation of a kind in the queue of core 0. -/
def opMat (kind : MatKind) : MatOp :=
  { id := 7, core := 0, q := 1, batch := 0, key := 0, team := 0, ctx := 1, pc := 0x10004, kind, acc := 5, desc := none, topk := false, regsA := [], regsB := [],
    regReads := [], bookA := none, bookB := none, sources := [], step := 0, stepsDone := false, rows := [], converted := false, delivered := [], counted := false, waits := [], flags := 0 }
/-- A loop that has yet to read v32 to v63 and v64 to v95 of the group. -/
def sReads : State := { withG wg with matOps := [{ opMat (.loop 0 0 (BitVec.ofNat 64 (3 * 2 ^ 48)) false) with step := 1, regReads := [⟨0, 0, 0⟩, ⟨1, 0, 32⟩, ⟨2, 0, 64⟩, ⟨2, 5, 0⟩] }] }

theorem witness_MatrixWords :
    (∀ i ∈ ([.mzero 63, .mlda 3 10, .msta 3 10, .mloop 0 4 6, .mloop 63 6 4, .mdist 3 6 6, .mtopk 3 0, .mepi 3 0, .mroute 20, .mfence 127, .mwait 0] : List Instr),
      Poised sMat i 0 0 gMat wp)
    ∧ scalarRuns gMat wp ∧ sMat.team? gMat.team = some tMat ∧ sMat.notLeader gMat = false ∧ StartsIn true sMat 0 0 gMat wp sMat gMat
    ∧ sMat.batchFailed (sMat.matOf gMat).id (sMat.matOf gMat).closed = false
    ∧ queueChecks (.mlda 3 10) sMat (wordEnv 0 0 gMat gMat wp) tMat ∧ queueChecks (.msta 3 10) sMat (wordEnv 0 0 gMat gMat wp) tMat
    ∧ queueChecks (.mloop 0 4 6) sMat (wordEnv 0 0 gMat gMat wp) tMat
    ∧ queueChecks (.mdist 3 6 6) sMat (wordEnv 0 0 gMat gMat wp) tMat ∧ queueChecks (.mtopk 3 0) sMat (wordEnv 0 0 gMat gMat wp) tMat
    ∧ queueChecks (.mepi 3 0) sMat (wordEnv 0 0 gMat gMat wp) tMat ∧ queueChecks (.mroute 20) sMat (wordEnv 0 0 gMat gMat wp) tMat
    ∧ (let s := withB (bOf 1 1 0) (gBat 15 0)
       Poised s (.mfence 127) 0 0 (gBat 15 0) wp ∧ StartsIn true s 0 0 (gBat 15 0) wp s (gBat 15 0) ∧ s.notLeader (gBat 15 0) = false ∧ s.matOf (gBat 15 0) = ⟨1, 0, 15, 0⟩)
    ∧ (∀ m, m = gBat 1 1 ∨ m = gBat 1 0 ∨ m = gBat 0 0 → Poised (withB (bOf 1 1 0) m) (.mwait 0) 0 0 m wp ∧ (withB (bOf 1 1 0) m).notLeader m = false ∧
      (withB (bOf 1 1 0) m).matOf m = m.mat ∧ 0 % 2 ^ 16 = (m.sreg 0).toNat % 2 ^ 16)
    ∧ (sReads.readsLeft 0 = [(7, 32), (7, 64)] ∧ (∀ d, d = 31 ∨ d = 96 ∨ d = 32 ∨ d = 95 →
        Poised { sReads with matOps := [] } (.movi d 7) 0 0 wg wp ∧ vectorDest (.movi d 7) = some (d.toNat, 1) ∧
        exec (.movi d 7) { sReads with matOps := [] } =
          .next (after { sReads with matOps := [] } 0 0 (vectorResult wg ((List.range 32).map fun l => (d.toNat * 64 + l, 7)) 0)))
      ∧ activeLanes wg wp ≠ 0 ∧ wg.vreg 32 31 ≠ smGet 0 ((List.range 32).map fun l => (32 * 64 + l, (7 : Word))) (32 * 64 + 31)) := by
  refine ⟨fun i hi => matPoised (by revert i; decide), .inl rfl, rfl, by decide, startsIn rfl rfl, by decide, ?_, ?_, ?_, ?_, ⟨⟨[0, 0, 0, 0], true⟩, ?_⟩, ⟨⟨[0, 0, 0, 0], false⟩, ?_⟩, ?_,
    ⟨⟨rfl, rfl, rfl, by decide, rfl, rfl, rfl⟩, startsIn rfl rfl, by decide, by decide⟩, ?_,
    by decide +kernel, ?_, by decide, by decide +kernel⟩
  · show tileWordTrap _ _ _ = none; decide +kernel
  · show tileWordTrap _ _ _ = none; decide +kernel
  · show State.loopTrap _ _ _ _ _ _ = none; decide +kernel
  · exact ⟨by decide +kernel, ⟨[0, 0, 0, 0], false⟩, by decide +kernel⟩
  · decide +kernel
  · decide +kernel
  · show (gMat.sreg 20).toNat / 2 ^ 6 % 2 ^ 25 = 0; decide +kernel
  · rintro m (rfl | rfl | rfl) <;> exact ⟨⟨rfl, rfl, rfl, by decide, rfl, rfl, rfl⟩, by decide, by decide, by decide⟩
  · rintro d (rfl | rfl | rfl | rfl) <;> exact ⟨⟨rfl, rfl, rfl, by decide, rfl, rfl, rfl⟩, rfl, eq_next (by decide +kernel)⟩

/-- Eight groups of the team, the mask of all in s4; a rendezvous that the others have reached. -/
def gEight : Group := { wg with s := [(4, 0xFF)] }
def withEight (rs : List Rendezvous) (sets : List ConvSet) : State :=
  { withG gEight with groups := (0, gEight) :: (List.range 7).map fun j => (j + 1, { wg with num := j + 1 }), teams := [{ wt with rendezvous := rs, sets := sets }] }

theorem witness_ConvenedSets :
    scalarRuns gEight wp ∧ gEight.splits.length ≤ 1
    ∧ (∀ rs, rs = [] ∨ rs = [⟨0xFF, [1, 2, 3, 4, 5, 6, 7]⟩] →
      Poised (withEight rs []) (.conv 2) 0 0 gEight wp ∧ (withEight rs []).team? gEight.team = some { wt with rendezvous := rs, sets := [] } ∧
      (∀ r ∈ rs, r.mask ≠ gEight.spair 4 → r.mask.getLsbD gEight.num = false) ∧
      ∀ n ∈ (List.range 64).filter (gEight.spair 4).getLsbD, ((withEight rs []).memberKey 0 0 n).isSome = true)
    ∧ ((gEight.spair 4).getLsbD gEight.num = true ∧ (List.range 64).filter (gEight.spair 4).getLsbD = [0, 1, 2, 3, 4, 5, 6, 7])
    ∧ (∀ ms, ms = [0, 1] ∨ ms = [1, 0] → Poised (withEight [] [⟨ms, ⟨9, 0, 0, 0⟩, ms⟩]) .disb 0 0 gEight wp ∧
      (withEight [] [⟨ms, ⟨9, 0, 0, 0⟩, ms⟩]).setOf gEight = some ⟨ms, ⟨9, 0, 0, 0⟩, ms⟩ ∧ (withEight [] [⟨ms, ⟨9, 0, 0, 0⟩, ms⟩]).matOps = [])
    ∧ ([0, 1].head? = some gEight.num ∧ [1, 0].head? ≠ some gEight.num) := by
  refine ⟨.inl rfl, by decide, ?_, by decide, ?_, by decide⟩
  · rintro rs (rfl | rfl) <;> exact ⟨⟨rfl, rfl, rfl, by decide, rfl, rfl, rfl⟩, rfl, by decide, by decide +kernel⟩
  · rintro ms (rfl | rfl) <;> exact ⟨⟨rfl, rfl, rfl, by decide, rfl, rfl, rfl⟩, by decide, rfl⟩

/-- Register tiles of equal blocks: scale, class 0. -/
def tiles (scale : Byte) : List (List (Byte × BitVec 2 × List Nat)) := [List.replicate 32 (scale, 0, List.replicate 32 0x38)]
def opLoop (scale : Byte) (count : Nat) : MatOp :=
  { opMat (.loop (2 ^ 63) (2 ^ 63) (BitVec.ofNat 64 (count * 2 ^ 48)) false) with regsA := tiles scale, regsB := tiles scale }
/-- An epilogue of a descriptor, its rows not converted yet, and converted. -/
def opEpi (d : List DWord) : MatOp := { opMat .epilogue with desc := some d, stepsDone := true }
def opRows (d : List DWord) : MatOp := { opEpi d with converted := true, rows := List.replicate 32 (List.replicate 128 7, none) }
/-- A routing register of class 5, whose entry names port 0. -/
def cRoute : Context := { wc with record := memPuts wc.record 336 (natLe (2 ^ 63 + 2 ^ 32) 8) }
def gRoute : Group := { wg with mat := ⟨1, 2 ^ 63 + 5, 1, 0⟩ }
def withMat (o : MatOp) : State := { withB (bOf 1 1 0) gRoute with matOps := [o], ctxs := [(1, cRoute)], owned := [(sramOwn 0 0, 7)] }
/-- A loop whose B is a column of records of scales 254 and 1 in lines 0 and 1 of the scratchpad. -/
def opColumn : MatOp := { opMat (.loop (2 ^ 63) (2 ^ 60 + 2 ^ 33) 0 false) with regsA := tiles 127 }
def recordLine (scale : Byte) : List Byte := putBlk 0 (List.replicate 138 0) 0 ⟨scale, 0, List.replicate 32 5⟩
def sColumn : State := ((withMat opColumn).putBytes (sramKey 0 0) 0 (recordLine 254)).putBytes (sramKey 0 1) 0 (recordLine 1)
abbrev Side := List ABlk × Option (List Byte)
def sideOf (x : Except MatStop Side) : Side := match x with | .ok xs => xs | .error _ => ([], none)
def loopSide : Except MatStop Side := (withMat (opLoop 127 0)).matSide (opLoop 127 0) (2 ^ 63) none (tiles 127) 0 0
def columnA : Except MatStop Side := sColumn.matSide opColumn (2 ^ 63) none (tiles 127) 0 0
def columnB : Except MatStop Side := sColumn.matSide opColumn (2 ^ 60 + 2 ^ 33) none [] 0 0
/-- A tile word of pitch 1. -/
def tileWord : Word := 0x1000

theorem arrayReady (o : MatOp) (h : o.arrayDone = false) (h1 : o.id = 7) (h2 : (withMat o).engineRuns o.ctx = true) (h3 : (withMat o).arrayTurn o = true) :
    ArrayReady (withMat o) 7 o := ⟨by simp [State.mat?, withMat, h1], h2, h, h3⟩

/-- Each event of the array: zero, load, store, one step of a loop that is and that is not the last, of a distance form, of a pair that does not fit, a route, an epilogue with and without CLR, rows to the scratchpad and to a peer, a batch. -/
theorem witness_MatrixEvents :
    (∀ o, o = opMat .zero ∨ o = opMat (.load tileWord) ∨ o = opMat (.store tileWord) ∨ o = opLoop 127 0 ∨ o = opLoop 127 1 ∨
      o = { opLoop 127 0 with kind := .loop (2 ^ 63) (2 ^ 63) 0 true } → ArrayReady (withMat o) 7 o)
    ∧ (∀ i < 32, tMat.line (tileRow tileWord i) = some (0, i) ∧ ((withMat (opMat (.load tileWord))).lineSt 0 i).present = true ∧
      ((withMat (opMat (.load tileWord))).lineSt 0 i).poisoned = false)
    ∧ (withMat (opMat .zero)).team? 0 = some tMat
    ∧ (rowWord (2 ^ 63) = 2 ^ 63 ∧ loopSide = .ok (sideOf loopSide) ∧ (∀ x ∈ (sideOf loopSide).1, ∀ y ∈ (sideOf loopSide).1, pairFits x y = true) ∧
      lwCount 0 = 1 ∧ lwCount (BitVec.ofNat 64 (1 * 2 ^ 48)) = 2)
    ∧ (sColumn.mat? 7 = some opColumn ∧ sColumn.engineRuns 1 = true ∧ opColumn.arrayDone = false ∧ sColumn.arrayTurn opColumn = true ∧
      columnA = .ok (sideOf columnA) ∧ columnB = .ok (sideOf columnB) ∧ (∃ x ∈ (sideOf columnA).1, ∃ y ∈ (sideOf columnB).1, pairFits x y = false) ∧
      sColumn.batchFailed 1 0 = false)
    ∧ (let s := withMat (opMat (.route (2 ^ 63 + 6)))
       s.mat? 7 = some (opMat (.route (2 ^ 63 + 6))) ∧ s.engineRuns 1 = true ∧ s.epilogueTurn (opMat (.route (2 ^ 63 + 6))) = true ∧ (s.matCtx 1).isSome = true)
    ∧ (∀ d, d = [0, 0, 0, 0] ∨ d = [2 ^ 49, 0, 0, 0] ∨ d = [2 ^ 62, 0, 0, 0] ∨ d = [2 ^ 63 + 2 ^ 59, 0, 0, 0] → let o := opEpi d; let s := withMat o
       s.mat? 7 = some o ∧ o.epi = some ⟨d, false⟩ ∧ s.team? o.team = some tMat ∧ s.engineRuns o.ctx = true ∧ s.arrayTurn o = true ∧ s.epilogueTurn o = true ∧
       ∃ x, s.terms tMat ⟨d, false⟩ = .ok x)
    ∧ ((⟨[0, 0, 0, 0], false⟩ : EpiDesc).clr = false ∧ (⟨[2 ^ 49, 0, 0, 0], false⟩ : EpiDesc).clr = true ∧ (⟨[2 ^ 62, 0, 0, 0], false⟩ : EpiDesc).blocks = false ∧
      (⟨[2 ^ 63 + 2 ^ 59, 0, 0, 0], false⟩ : EpiDesc).blocks = true ∧ (⟨[2 ^ 63 + 2 ^ 59, 0, 0, 0], false⟩ : EpiDesc).ocls = 2)
    ∧ (let o := opRows [0, 0, 0, 0]; let s := withMat o
       s.openRow 7 0 = some (o, ⟨[0, 0, 0, 0], false⟩) ∧ s.openRow 7 31 = some (o, ⟨[0, 0, 0, 0], false⟩) ∧ (⟨[0, 0, 0, 0], false⟩ : EpiDesc).inScratch = true ∧
       tMat.line (tileLine 0 0 0 31 0) = some (0, 0) ∧ s.ownerOf (sramOwn 0 0) = some 7)
    ∧ (let d : EpiDesc := ⟨[2 * 2 ^ 60, 0, 0, 0], false⟩; let o := opRows d.dw; let s := withMat o
       s.openRow 7 31 = some (o, d) ∧ d.dest = 2 ∧ s.push? 7 31 = none ∧ s.matCtx o.q = some gRoute.mat ∧ gRoute.mat.routing.getLsbD 63 = true ∧
       gRoute.mat.routing.toNat % 64 = 5 ∧ bit (((s.ctx? o.ctx).getD Context.blank).route 5) 63 = true ∧ s.mayIssue o.core 5 (wireCost d.wire) (.push o.id 31) = true ∧
       s.portFor (((s.ctx? o.ctx).getD Context.blank).route 5) = some 0)
    ∧ (let d : EpiDesc := ⟨[2 * 2 ^ 60, 0, 0, 0], false⟩; let o := opRows d.dw
       let g : Group := { gRoute with mat := ⟨1, 2 ^ 63 + 2, 1, 0⟩ }; let s := { withMat o with groups := [(0, g)] }
       s.openRow 7 0 = some (o, d) ∧ d.dest = 2 ∧ s.push? 7 0 = none ∧ s.matCtx o.q = some g.mat ∧ g.mat.routing.getLsbD 63 = true ∧
       g.mat.routing.toNat % 64 < 3 ∧ s.mayIssue o.core (g.mat.routing.toNat % 64) (wireCost d.wire) (.push o.id 0) = true)
    ∧ (let s := { withB (bOf 1 1 0) gRoute with batchFails := [⟨1, 0, 0, 0x75, 0x2A, 0x10004⟩] }
       s.matCtx 1 = some gRoute.mat ∧ gRoute.mat.complete < gRoute.mat.closed ∧ s.matOps = [] ∧ s.batchFlags = [] ∧ s.group? 0 = some gRoute) := by
  refine ⟨?_, by decide +kernel, by decide, by decide +kernel, by decide +kernel, by decide +kernel, ?_, by decide +kernel, by decide +kernel, by decide +kernel, by decide +kernel, by decide +kernel⟩
  · rintro o (rfl | rfl | rfl | rfl | rfl | rfl) <;> exact arrayReady _ (by decide) rfl (by decide +kernel) (by decide +kernel)
  · rintro d (rfl | rfl | rfl | rfl) <;> exact ⟨rfl, rfl, rfl, by decide +kernel, by decide +kernel, by decide +kernel, okExcept (by decide +kernel)⟩

/-! ### Witnesses: the fabric -/

/-- s10 names a class. -/
theorem witness_AllowanceReads :
    (∀ x, x = 63 ∨ x = 64 → Poised (withG (gS10 x)) (.alwr 126 10) 0 0 (gS10 x) wp) ∧ scalarRuns (gS10 63) wp
    ∧ ((gS10 63).sreg 10).toNat < 64 ∧ 64 ≤ ((gS10 64).sreg 10).toNat := by
  refine ⟨?_, .inl rfl, by decide, by decide⟩
  rintro x (rfl | rfl) <;> exact poised rfl (by decide) rfl rfl

/-- A context that routes classes 5 and 6 over port 0, with 8 retries; lanes of class 5 alone, and of both. -/
def cFab : Context := { wc with record := memPuts (memPuts wc.record 5 [8]) 336 (natLe (2 ^ 63 + 2 ^ 32) 8 ++ natLe (2 ^ 63 + 2 ^ 32) 8) }
def gFab : Group := { g1 with v := [(10 * 64, 5)] }
def pTwo : Split := { wp with exec := 3 }
def gTwoCls : Group := { gOf pTwo with v := [(10 * 64, 6), (10 * 64 + 1, 5)] }
def withFab (g : Group) : State := { withH g with ctxs := [(1, cFab)] }
def aliveFab (s : State) (cls : Nat) : Bool := s.mayIssue 0 cls 3 (.group 0)

theorem witness_RemoteWords :
    (∀ i ∈ ([.rld 6 2 0 5, .rld 6 2 1 0, .rst 6 2 2 4, .rst 6 2 0 5, .ratom 6 2 4 0, .ratom 8 2 15 3] : List Instr),
      Poised (withFab gFab) i 0 0 gFab wp1 ∧ (∃ f, fabricForm i = some f ∧ f.q = 2 ∧ (f.bytes = 1 ∨ f.bytes = 4 ∨ f.bytes = 8)))
    ∧ activeLanes gFab wp1 ≠ 0 ∧ (∀ w, Counted gFab wp1 w) ∧ (∀ c, StartsIn c (withFab gFab) 0 0 gFab wp1 (withFab gFab) gFab) ∧ gFab.region = none ∧ gFab.buf = []
    ∧ (∀ l, acts gFab gFab wp1 l → l = 0) ∧ acts gFab gFab wp1 0 ∧ remoteLane ((withFab gFab).ctxOf gFab) gFab 2 8 0 ∧ remoteClass gFab 2 0 = 5
    ∧ (∀ o c, SysQuiet (withFab gFab) 0 gFab o c) ∧ (withFab gFab).mayIssue 0 5 3 (.group 0) = true ∧ (withFab gFab).portFor (((withFab gFab).ctxOf gFab).route 5) = some 0
    ∧ (Poised (withFab gTwoCls) (.rld 6 2 0 4) 0 0 gTwoCls pTwo ∧ remoteClass gTwoCls 2 0 = 6 ∧ remoteClass gTwoCls 2 1 = 5 ∧
      remoteLane ((withFab gTwoCls).ctxOf gTwoCls) gTwoCls 2 4 0 ∧ remoteLane ((withFab gTwoCls).ctxOf gTwoCls) gTwoCls 2 4 1)
    ∧ (∀ x, x = 5 ∨ x = 63 ∨ x = 64 → Poised (withH (gS10 x)) (.balw 10 0 0x1FF) 0 0 (gS10 x) wp)
    ∧ (headerAt (withH (gS10 5)) 0 (gS10 5) (offsetFrom wp (immediate wp 9 0x1FF)) ∧ levelMet ⟨256, 64, 64⟩ 0 = true ∧ levelMet ⟨256, 64, 63⟩ 1 = true ∧
      levelMet ⟨256, 64, 17⟩ 1 = true ∧ levelMet ⟨256, 64, 16⟩ 2 = true ∧ levelMet ⟨256, 64, 64⟩ 3 = false ∧ levelMet ((withH (gS10 5)).allowance 0 5) 0 = true ∧
      levelMet ((withH (gS10 5)).allowance 0 5) 1 = false)
    ∧ (Poised (withG wg) (.chunkinc 63 127) 0 0 wg wp ∧ scalarRuns wg wp ∧ Counted wg wp false ∧ StartsIn true (withG wg) 0 0 wg wp (withG wg) wg ∧ wg.region = none ∧
      (withG wg).reachScalar (wordEnv 0 0 wg wg wp) (pairNat wg.s 126) 8 .store true = .ok line0 ∧ (withG wg).isOwned line0 = false ∧ keyIsSram line0.key = false)
    ∧ Poised (withG wg) (.mighint 63) 0 0 wg wp := by
  refine ⟨fun i hi => ?_, by decide, fun _ => counted (n := 0) (by decide) (by decide), fun _ => startsIn rfl rfl, rfl, rfl, ?_, ⟨by decide, by decide⟩, by unfold remoteLane; decide +kernel,
    by decide, fun _ _ => sysQuiet (by decide +kernel), by decide +kernel, by decide +kernel,
    ⟨⟨rfl, rfl, rfl, by decide, rfl, rfl, rfl⟩, by decide, by decide, by unfold remoteLane; decide +kernel, by unfold remoteLane; decide +kernel⟩, ?_,
    ⟨header (by decide +kernel) (by decide) (by decide +kernel), by decide, by decide, by decide, by decide, by decide, by decide +kernel, by decide +kernel⟩,
    ⟨poisedG (by decide), .inl rfl, counted (n := 0) (by decide) (by decide), startsG rfl, rfl, by decide +kernel, by decide +kernel, by decide⟩, poisedG (by decide)⟩
  · simp only [List.mem_cons, List.not_mem_nil, or_false] at hi
    rcases hi with rfl | rfl | rfl | rfl | rfl | rfl <;> exact ⟨⟨rfl, rfl, rfl, by decide, rfl, rfl, rfl⟩, _, rfl, by decide, by decide⟩
  · exact fun l hl => (onlyFirst (g := gFab) (p := wp1) (by decide) rfl (by decide) l).mp hl
  · rintro x (rfl | rfl | rfl) <;> exact ⟨rfl, rfl, rfl, by decide, rfl, rfl, rfl⟩

/-- An RLD has been sent, outside regions and in one; the pass. -/
def gFabReg : Group := { gFab with region := some region0 }
def sRld (g : Group) : State := nextOf (exec (.rld 6 2 0 4) (withFab g))
def pass0 : Pass :=
  ⟨0, 0, 0, 0, 0, 0, 0, 0, 0, ⟨0, 0, 0, .rld, 0, 0, 0, 0, none, []⟩, none, 0, 0, 0, 0, none, none, none⟩
def passOf (s : State) : Pass := s.passes.headD pass0
def groupOf (s : State) : Group := (s.group? 0).getD wg
/-- A request of device 3 for one lane at address 120, of 8 bytes. -/
def reqOf (kind : RemoteKind) (op : Nat) (staged : Option StageKey) : RemoteReq :=
  ⟨3, 77, 1, kind, 8, op, 0, 0, staged, [⟨31, 120, [0xFFFFFFFF, 2]⟩]⟩
def src0 : StageKey := ⟨3, 1, 9⟩
/-- The same of two lanes, in one line; of one lane beyond the address space. -/
def reqTwo (kind : RemoteKind) (op : Nat) (staged : Option StageKey) : RemoteReq :=
  { reqOf kind op staged with lanes := [⟨30, 112, [6, 7]⟩, ⟨31, 120, [0xFFFFFFFF, 2]⟩] }
def reqBad (kind : RemoteKind) : RemoteReq := { reqOf kind 0 none with lanes := [⟨31, 2 ^ 56, [0]⟩] }
def push0 : PushRow := ⟨3, 1, 0x200, List.replicate 128 9, none⟩
def sCommit (t : Nat) : State := { withFab gFab with commits := [⟨4, 1, 5, src0, false, 0, 0, 0, 0, 0⟩], nanos := t }
def sPass (port : Option Nat) (t : Nat) : State :=
  let s := sRld gFabReg
  { s with passes := [{ passOf s with port }], nanos := t }
def opPush : MatOp := { opRows [2 * 2 ^ 60, 0, 0, 0] with waits := [(31, 0)] }

theorem replays {s : State} {x : Pass} {g : Group} {r : Region} {c : Context}
    (h : s.passes = [x] ∧ x.failed = none ∧ s.group? x.key = some g ∧ (∃ o ∈ g.pend, o.kind = .remote x.run) ∧ g.glint = none ∧ g.stopped = false ∧
      g.region = some r ∧ s.ctx? g.ctx = some c ∧ g.remoteFails < c.rretry ∧ s.owned = [] ∧ x.req.kind ≠ .ratom ∧ x.answer = none ∧ s.sliceReqs = [] ∧
      s.fetchOwned c c.handler = none) : RemoteReplays s x g r c := by
  obtain ⟨h1, h2, h3, h4, h5, h6, h7, h8, h9, h10, h11, h12, h13, h14⟩ := h
  exact ⟨h1, ⟨h2, h12⟩, ⟨h3, h4⟩, ⟨h5, h6⟩, h7, h8, h9, fun l _ => by simp [State.isOwned, State.ownerOf, State.sliceKept, h10, h13], h14, h11⟩

/-- The lines that a peer's request reaches. -/
def readyOf : PeerTry → Option (List (RemoteLane × LineRef))
  | .ready l => some l
  | _ => none
theorem ready_of {t : PeerTry} {l : List (RemoteLane × LineRef)} (h : readyOf t = some l) : t = .ready l := by
  cases t <;> simp_all [readyOf]
def failsOf : PeerTry → Option Byte
  | .fails c => some c
  | _ => none
theorem fails_of {t : PeerTry} {c : Byte} (h : failsOf t = some c) : t = .fails c := by
  cases t <;> simp_all [failsOf]
/-- Two staged passes of one commit, whose line is reached by a cached translation. -/
def staged1 : RemoteReq := reqTwo .rst 0 (some src0)
def staged2 : RemoteReq := { reqOf .rst 0 (some src0) with pass := 78, lanes := [⟨30, 120, [6, 7]⟩] }
def sStaged (l : List RemoteReq) : State := { withFab gFab with staged := l, tlb := [(2 ^ 36, ⟨1, 0, true, false⟩)] }

/-- Each event of the fabric. -/
theorem witness_RemoteEvents :
    (let s := sRld gFab; let x := passOf s
     s.passes.find? (fun y => y.id = x.id) = some x ∧ x.port.isSome = true ∧ x.failed = none ∧ s.group? x.key = some (groupOf s) ∧
      (∃ o ∈ (groupOf s).pend, o.kind = .remote x.run) ∧ x.req.kind = .rld ∧ x.z = 4 ∧ (x.req.lanes.map RemoteLane.lane).Nodup ∧ (∀ y ∈ x.req.lanes, y.lane < 64) ∧ s.readsLeft x.key = [])
    ∧ RemoteReplays (sPass (some 0) 0) (passOf (sPass (some 0) 0)) (groupOf (sRld gFabReg)) region0 cFab
    ∧ (RemoteReplays (sPass none 1000000000) (passOf (sPass none 1000000000)) (groupOf (sRld gFabReg)) region0 cFab ∧ (passOf (sPass none 1000000000)).port = none ∧
      (passOf (sPass none 1000000000)).waitSince + (((sPass none 1000000000).ctx? (passOf (sPass none 1000000000)).ctx).getD Context.blank).engwait ≤
        (sPass none 1000000000).nanos)
    ∧ (∀ q ∈ ([reqOf .rld 0 none, reqOf .rst 0 none, reqOf .rst 0 (some src0), reqOf .ratom 1 none] : List RemoteReq),
      (withFab gFab).keptResponses = [] ∧ (withFab gFab).ctx? q.ctx = some cFab ∧
        (withFab gFab).peerLines cFab q.kind q.lanes = .ready [(⟨31, 120, [0xFFFFFFFF, 2]⟩, line0)])
    ∧ (∀ q ∈ ([reqTwo .rld 0 none, reqTwo .rst 0 none, reqTwo .rst 0 (some src0), reqTwo .ratom 15 none] : List RemoteReq),
      (withFab gFab).ctx? q.ctx = some cFab ∧
        (withFab gFab).peerLines cFab q.kind q.lanes = .ready [(⟨30, 112, [6, 7]⟩, line0), (⟨31, 120, [0xFFFFFFFF, 2]⟩, line0)])
    ∧ (∀ k ∈ ([.rld, .rst, .ratom] : List RemoteKind), ∃ c, (withFab gFab).peerLines cFab k (reqBad k).lanes = .fails c)
    ∧ ((withFab gFab).staged = [] ∧ (stagedLines [reqOf .rst 0 (some src0)]).length ≤ 4096 ∧ atomSize 1 = 8 ∧ atomSize 15 = 8)
    ∧ ((sStaged [staged1]).ctx? staged1.ctx = some cFab ∧ staged1.staged = some src0 ∧ staged1.kind = .rst ∧
        (sStaged [staged1]).peerLines cFab .rst staged1.lanes = .ready [(⟨30, 112, [6, 7]⟩, line0), (⟨31, 120, [0xFFFFFFFF, 2]⟩, line0)])
    ∧ (let s := sStaged [staged2, staged1]
       staged1.pass < staged2.pass ∧ s.ctx? 1 = some cFab ∧ staged2.staged = some src0 ∧ staged2.kind = .rst ∧ staged1.ctx = staged2.ctx ∧
        s.peerLines cFab .rst staged1.lanes = .ready [(⟨30, 112, [6, 7]⟩, line0), (⟨31, 120, [0xFFFFFFFF, 2]⟩, line0)] ∧
        s.peerLines cFab .rst staged2.lanes = .ready [(⟨30, 120, [6, 7]⟩, line0)] ∧ (s.cached (line0.ia * 128)).isSome = true)
    ∧ ((sCommit 1000000000).commits.find? (fun y => y.id = 4) = some ⟨4, 1, 5, src0, false, 0, 0, 0, 0, 0⟩ ∧ (sCommit 1000000000).ctx? 1 = some cFab ∧
      0 + cFab.engwait ≤ (sCommit 1000000000).nanos ∧ cFab.reported = none ∧ cFab.preempting = none)
    ∧ ((withFab gFab).ctx? push0.ctx = some cFab ∧ push0.block = none ∧ (withFab gFab).engineLine cFab push0.addr.toNat .engineWrite false = .ready ⟨4, 4⟩ ∧
      (withFab gFab).isOwned ⟨4, 4⟩ = false)
    ∧ (let s := { withMat opPush with nanos := 1000000000 }
       s.coll? 7 = none ∧ s.openRow 7 31 = some (opPush, ⟨[2 * 2 ^ 60, 0, 0, 0], false⟩) ∧ (⟨[2 * 2 ^ 60, 0, 0, 0], false⟩ : EpiDesc).dest = 2 ∧
        alGet opPush.waits 31 = some 0 ∧ 0 + ((s.ctx? opPush.ctx).getD Context.blank).engwait ≤ s.nanos ∧ s.batchFailed opPush.q opPush.batch = false) := by
  refine ⟨by decide +kernel, replays (by decide +kernel), ⟨replays (by decide +kernel), by decide +kernel, by decide +kernel⟩, fun q hq => ?_, fun q hq => ?_,
    fun k hk => ?_, by decide +kernel, ⟨by decide +kernel, rfl, rfl, ready_of (by decide +kernel)⟩,
    ⟨by decide, by decide +kernel, rfl, rfl, rfl, ready_of (by decide +kernel), ready_of (by decide +kernel), by decide +kernel⟩,
    by decide +kernel, by decide +kernel, by decide +kernel⟩
  · simp only [List.mem_cons, List.not_mem_nil, or_false] at hq
    rcases hq with rfl | rfl | rfl | rfl <;> exact ⟨by decide +kernel, by decide +kernel, ready_of (by decide +kernel)⟩
  · simp only [List.mem_cons, List.not_mem_nil, or_false] at hq
    rcases hq with rfl | rfl | rfl | rfl <;> exact ⟨by decide +kernel, ready_of (by decide +kernel)⟩
  · simp only [List.mem_cons, List.not_mem_nil, or_false] at hk
    rcases hk with rfl | rfl | rfl <;> exact ⟨_, fails_of rfl⟩

/-! ### Witnesses: collectives -/

/-- A parameter block of an all-reduce of one line of FP32 with the next die, taken up in chunks of one line whose counters reach `target`. -/
def collBlock (target : Nat) : List Byte :=
  [0, 0, 0, 0x20] ++ natLe 9 4 ++ natLe 1 8 ++ natLe 0x8000 8 ++ natLe 0x8000 8 ++ natLe 32 8 ++ natLe 0x9000 8 ++ natLe 1 4 ++ natLe target 4 ++ natLe 0 72
/-- A context whose class 5 is device 1; the group names the block at 0x7000 by its pair s4. -/
def cColl : Context := { wc with record := memPuts wc.record 336 (natLe (2 ^ 63 + 2 ^ 53 + 2 ^ 32 + 1) 8) }
def gColl : Group := { wg with s := [(4, 0x7000)] }
def sColl (target : Nat) : State := { (withG gColl).putBytes 0xE0 0 (collBlock target) with ctxs := [(1, cColl)] }
/-- The collective has started; ENGWAIT has passed. -/
def sColled (target t : Nat) : State := { nextOf (exec (.coll 2 127) (sColl target)) with nanos := t }
def coll0 : Coll :=
  ⟨0, 0, 0, 0, 0, 0, 0, 0, [], [], 0, [], [], [], [], [], 0, [], [], [], [], none⟩
def collOf (s : State) : Coll := s.colls.headD coll0
/-- This member of a collective with another device of class 5, of rank 0 or 1; a message of it is out. -/
def collAt (rank : Nat) : Coll :=
  { collOf (sColled 1 0) with rank, members := if rank = 0 then [⟨0, 0, 64⟩, ⟨1, 2, 5⟩] else [⟨0, 2, 5⟩, ⟨1, 0, 64⟩], sent := [⟨⟨1 - rank, 0, .sum⟩, 0, 5, 3, some 0⟩] }
def sCollAt (rank : Nat) : State := { sColled 1 0 with colls := [collAt rank] }
/-- A group with eight collectives outstanding. -/
def gCollFull : Group := { gColl with pend := (List.range 8).map fun n => ⟨n, 0x10000, none, .coll (n + 40), [], [], 0⟩ }
/-- A group that holds handle 7 of collective 3. -/
def gCw : Group := { gS10 7 with colls := [(7, 3)] }
def sCw (done : List CollDone) : State := { withG gCw with collsDone := done }

theorem witness_Collectives :
    (let s := sColl 1
     Poised s (.coll 2 127) 0 0 gColl wp ∧ scalarRuns gColl wp ∧ Counted gColl wp false ∧ StartsIn true s 0 0 gColl wp s gColl ∧
      s.reachScalar (wordEnv 0 0 gColl gColl wp) (pairNat gColl.s 4) 128 .load false = .ok ⟨0xE0, 0xE0⟩ ∧ s.isOwned ⟨0xE0, 0xE0⟩ = false ∧
      s.collCheck (wordEnv 0 0 gColl gColl wp) (s.ctxOf gColl) (s.homeBytes 0 ⟨0xE0, 0xE0⟩ 0 128) = .ok [⟨0, 0, 64⟩, ⟨0, 1, 0⟩] ∧
      gColl.collsOut.length < 8)
    ∧ (let s := { sColl 1 with groups := [(0, gCollFull)] }
       Poised s (.coll 2 127) 0 0 gCollFull wp ∧ Counted gCollFull wp false ∧ StartsIn true s 0 0 gCollFull wp s gCollFull ∧
        s.reachScalar (wordEnv 0 0 gCollFull gCollFull wp) (pairNat gCollFull.s 4) 128 .load false = .ok ⟨0xE0, 0xE0⟩ ∧ s.isOwned ⟨0xE0, 0xE0⟩ = false ∧
        s.collCheck (wordEnv 0 0 gCollFull gCollFull wp) (s.ctxOf gCollFull) (s.homeBytes 0 ⟨0xE0, 0xE0⟩ 0 128) = .ok [⟨0, 0, 64⟩, ⟨0, 1, 0⟩] ∧
        gCollFull.collsOut = [40, 41, 42, 43, 44, 45, 46, 47])
    ∧ (Poised (withG (gS10 7)) (.cwait 127 10) 0 0 (gS10 7) wp ∧ ((gS10 7).colls.find? fun x => x.1 = ((gS10 7).sreg 10).toNat % 2 ^ 16) = none)
    ∧ (∀ d, d = [] ∨ d = [⟨3, none⟩] ∨ d = [⟨3, some 0xA6⟩] → Poised (sCw d) (.cwait 127 10) 0 0 gCw wp)
    ∧ ((gCw.colls.find? fun x => x.1 = (gCw.sreg 10).toNat % 2 ^ 16) = some (7, 3) ∧ (sCw []).collsDone = [] ∧
      (sCw [⟨3, none⟩]).collsDone.find? (fun c => c.id = 3) = some ⟨3, none⟩)
    ∧ (∀ r, r = 0 ∨ r = 1 → (sCollAt r).coll? (collAt r).id = some (collAt r) ∧ (collAt r).failed = none ∧
      (collAt r).members[1 - r]? = some ⟨1 - r, 2, 5⟩ ∧ 1 - r ≠ (collAt r).rank ∧ 0 < cpLines (collAt r).block ∧ cpAdds (collAt r).block = true ∧
      (collAt r).sent.find? (fun z => z.what = ⟨1 - r, 0, .sum⟩) = some ⟨⟨1 - r, 0, .sum⟩, 0, 5, 3, some 0⟩)
    ∧ (0 ∈ sumSources (collAt 1).order (collAt 1).n ((collAt 1).origin 0) (collAt 1).rank ∧ (collAt 1).sumFrom 0 0 = none ∧
      (collAt 0).rank ∈ Coll.forwards { collAt 0 with rank := 1 } 0 ∧ alGet (collAt 0).results 0 = none ∧ (collAt 0).shared ≠ [])
    ∧ (let s := sColled 0 0; let o := collOf s
       s.openColl o.id = some o ∧ o.openChunk 0 = true ∧ s.chunkValue o 0 = some 0 ∧ cpTarget o.block ≤ 0 ∧ (s.ctx? o.ctx).bind Context.preempting = none)
    ∧ (let s := sColled 1 1000000000; let o := collOf s
       s.openColl o.id = some o ∧ o.openChunk 0 = true ∧ s.chunkValue o 0 = some 0 ∧ 0 < cpTarget o.block ∧ o.since + ((s.ctx? o.ctx).getD Context.blank).engwait ≤ s.nanos)
    ∧ (∀ f, f = none ∨ f = some 0xA6 → let o := { collOf (sColled 1 0) with written := [0], queue := [], sent := [], met := [1], failed := f }; let s := { sColled 1 0 with colls := [o] }
       s.coll? o.id = some o ∧ o.finished = true ∧ s.engineRuns o.ctx = true ∧ (s.group? o.key).isSome = true) := by
  refine ⟨⟨⟨rfl, rfl, rfl, by decide, rfl, rfl, rfl⟩, .inl rfl, counted (n := 0) (by decide) (by decide), startsIn rfl rfl, by decide +kernel, by decide +kernel, by decide +kernel,
    by decide +kernel⟩, ⟨⟨rfl, rfl, rfl, by decide, rfl, rfl, rfl⟩, counted (n := 0) (by decide) (by decide), startsIn rfl rfl, by decide +kernel, by decide +kernel,
    by decide +kernel, by decide +kernel⟩, ⟨poised rfl (by decide) rfl rfl, by decide⟩, ?_, by decide, ?_, by decide +kernel, by decide +kernel, by decide +kernel, ?_⟩
  · rintro d (rfl | rfl | rfl) <;> exact ⟨rfl, rfl, rfl, by decide, rfl, rfl, rfl⟩
  · rintro r (rfl | rfl) <;> decide +kernel
  · rintro f (rfl | rfl) <;> exact ⟨by decide +kernel, by decide +kernel, by decide +kernel, by decide +kernel⟩

/-! ### Witnesses: launches, teams -/

/-- A launch record (07 R151): one team of one group of 32 lanes, 128 registers, 64 lines of scratchpad, CARVE 3, its root counter at 0x9000; IND or not. -/
def launchBytes (ind : Bool) : List Byte :=
  natLe 0x10000 8 ++ natLe 1 4 ++ natLe 1 4 ++ natLe 1 4 ++ [1, 15, 0, if ind then 13 else 12] ++ natLe 64 2 ++ natLe 0 30 ++ natLe 0x9000 8 ++ natLe 0 64
/-- The group names the record at 0x6000 by its pair s4; it holds a team of weight 2. -/
def gLaunch : Group := { wg with s := [(4, 0x6000)] }
def tLaunch : Team := { wt with weight := 2 }
def sLaunch (ind : Bool) : State := { (withG gLaunch).putBytes 0xC0 0 (launchBytes ind) with teams := [tLaunch] }
def readBytes : ReadTry → List Byte
  | .ok b _ => b
  | _ => []
def readState : ReadTry → State
  | .ok _ s => s
  | _ => State.reset
def readIsOk : ReadTry → Bool
  | .ok _ _ => true
  | _ => false
def acceptArgs : AcceptTry → Option (List Byte)
  | .ok a _ => some a
  | _ => none
theorem readOk {t : ReadTry} (h : readIsOk t = true) : t = .ok (readBytes t) (readState t) := by
  cases t <;> simp_all [readIsOk, readBytes, readState]
theorem acceptOk {t : AcceptTry} {a : List Byte} (h : acceptArgs t = some a) : ∃ s, t = .ok a s := by
  cases t <;> simp_all [acceptArgs]
def recordRead (ind : Bool) : ReadTry := ((sLaunch ind).flushCore 0).readRange wc (some 0) 0x6000 128

theorem accepts (ind spawn : Bool) (h : readIsOk (recordRead ind) = true ∧ readBytes (recordRead ind) = launchBytes ind ∧
    (sLaunch ind).resolveScalar wc 0x6000 .load false = .ok ⟨0xC0, 0xC0⟩ ∧ pairNat gLaunch.s 4 = 0x6000 ∧
    acceptArgs ((readState (recordRead ind)).acceptRecord wc (some 0) (dwords (launchBytes ind) 16) spawn) = some []) :
    Accepts (sLaunch ind) 0 gLaunch wc (pairNat gLaunch.s 4) spawn ⟨0xC0, 0xC0⟩ (dwords (launchBytes ind) 16) [] := by
  obtain ⟨h1, h2, h3, h4, h5⟩ := h
  rw [h4]
  obtain ⟨s3, h6⟩ := acceptOk h5
  exact ⟨rfl, h3, readBytes (recordRead ind), readState (recordRead ind), s3, readOk h1, by rw [h2], h6⟩

theorem witness_LaunchWords :
    (∀ i ∈ ([.launch 2 127, .spawn 2 0] : List Instr), Poised (sLaunch false) i 0 0 gLaunch wp)
    ∧ Poised (sLaunch true) (.launchi 2 127) 0 0 gLaunch wp ∧ scalarRuns gLaunch wp
    ∧ (∀ ind, StartsIn true (sLaunch ind) 0 0 gLaunch wp (sLaunch ind) gLaunch ∧ (sLaunch ind).team? gLaunch.team = some tLaunch ∧ (sLaunch ind).ctxOf gLaunch = wc)
    ∧ Accepts (sLaunch false) 0 gLaunch wc (pairNat gLaunch.s 4) false ⟨0xC0, 0xC0⟩ (dwords (launchBytes false) 16) []
    ∧ Accepts (sLaunch false) 0 gLaunch wc (pairNat gLaunch.s 4) true ⟨0xC0, 0xC0⟩ (dwords (launchBytes false) 16) []
    ∧ Accepts (sLaunch true) 0 gLaunch wc (pairNat gLaunch.s 4) false ⟨0xC0, 0xC0⟩ (dwords (launchBytes true) 16) []
    ∧ (isIndirect (dwords (launchBytes false) 16) = false ∧ isIndirect (dwords (launchBytes true) 16) = true ∧ 2 ≤ tLaunch.weight)
    ∧ (Poised (withG wg) (.evpub 5 2) 0 0 wg wp ∧ wg.region = none ∧ (withG wg).reachScalar (wordEnv 0 0 wg wg wp) (pairNat wg.s 10) 8 .store false = .ok line0 ∧
      (withG wg).isOwned line0 = false ∧ keyIsSram line0.key = false ∧ (withG wg).l1 = [])
    ∧ (∀ d, d = 0 ∨ d = 1 → Poised (withG (gWait d)) (.evwait 5 2) 0 0 (gWait d) wp ∧ scalarRuns (gWait d) wp ∧
      (withG (gWait d)).reachScalar (wordEnv 0 0 (gWait d) (gWait d) wp) (pairNat (gWait d).s 10) 8 .load false = .ok line0 ∧
      (withG (gWait d)).isOwned line0 = false ∧ (withG (gWait d)).registered line0.ia = []) := by
  refine ⟨fun i hi => ⟨rfl, rfl, rfl, by revert i; decide, rfl, rfl, rfl⟩, ⟨rfl, rfl, rfl, by decide, rfl, rfl, rfl⟩, .inl rfl, fun ind => ⟨startsIn rfl rfl, rfl, by cases ind <;> decide +kernel⟩,
    accepts _ _ (by decide +kernel), accepts _ _ (by decide +kernel), accepts _ _ (by decide +kernel), by decide +kernel,
    ⟨poisedG (by decide), rfl, by decide +kernel, by decide +kernel, by decide, rfl⟩, ?_⟩
  rintro d (rfl | rfl) <;> exact ⟨poised rfl (by decide) rfl rfl, .inl rfl, by decide +kernel, by decide +kernel, by decide +kernel⟩

/-- A launch that waits; a grid of it; 128 bind records in use, record 127 of them BOUND; a record of one team for core 1. -/
def launch0 : Launch := ⟨6, 1, 1, dwords (launchBytes false) 16, 0xC0, [], .host 0, .list, none⟩
def grid0 : Grid := ⟨1, 1, dwords (launchBytes false) 16, 0xC0, [], 1, 2 ^ 63, 0x9000, 0, 6, 0⟩
def sLaunched : State := { withG wg with launches := [launch0] }
def sFull : State :=
  { withG wg with grids := [grid0], slots := (List.range 128).map fun n => (n * 8, BitVec.ofNat 64 (2 ^ 63 + if n = 127 then 2 ^ 62 else 0)) }
def sBind : State :=
  { withG wg with grids := [grid0], slots := [(127 * 8, 2 ^ 63 + 3 * 2 ^ 56 + 2 ^ 54 + 15 * 2 ^ 50 + 64 * 2 ^ 32 + 1), (127 * 8 + 2, 1), (127 * 8 + 4, 2)] }
def tEnd : Team := { wt with ended := 1, weight := 2 ^ 63 }
def sEnd : State := { withG wg with grids := [grid0], groups := [], teams := [tEnd] }
/-- The last unit of a grid of 576 teams, on die 3. -/
def grid575 : Grid := { grid0 with teams := 576, nextUnit := 575 }
def sLast : State :=
  { withG wg with grids := [grid575], slots := (List.range 128).map fun n => ((3 * 128 + n) * 8, BitVec.ofNat 64 (2 ^ 63 + if n = 0 then 2 ^ 62 else 0)) }

theorem witness_TeamEvents :
    (let r : LaunchRec := launch0.record
     sLaunched.launches.find? (fun y => y.id = launch0.id) = some launch0 ∧ sLaunched.ctx? launch0.ctx = some wc ∧ wc.reported = none ∧ wc.preempting = none ∧
      wc.preempted = false ∧ launch0.isSpawn = false ∧ isIndirect launch0.record = false ∧
      sLaunched.waitList wc ((List.range (r.wln % 16)).map fun i => r.wlptr + 16 * i) = .satisfied ∧ r.dimx * r.dimy * r.dimz ≠ 0 ∧
      sLaunched.engineWord wc r.done 8 .engineWrite = .ready ⟨0x120, 0x120⟩)
    ∧ (∀ st, st = LaunchStage.count ∨ st = LaunchStage.place 1 → let s := { sLaunched with launches := [{ launch0 with stage := st }] }
       s.launches.find? (fun y => y.id = launch0.id) = some { launch0 with stage := st } ∧
        s.engineWord wc (LaunchRec.done launch0.record) 8 .engineWrite = .ready ⟨0x120, 0x120⟩)
    ∧ (sFull.grids.find? (fun x => x.launch = 6) = some grid0 ∧ sFull.grid? 1 1 = some grid0 ∧ grid0.nextUnit < grid0.units ∧ (grid0.unitTeams grid0.nextUnit).2 ≠ 0 ∧
      coreDie (grid0.unitCore grid0.nextUnit) = 0 ∧ (∀ n < 128, bit (sFull.slot 0 n 0) 63 = true) ∧ bit (sFull.slot 0 127 0) 62 = true ∧
      ∀ n < 127, bit (sFull.slot 0 n 0) 62 = false)
    ∧ (sLast.grid? 1 1 = some grid575 ∧ grid575.units = grid575.nextUnit + 1 ∧ (grid575.unitTeams grid575.nextUnit).2 ≠ 0 ∧
      coreDie (grid575.unitCore grid575.nextUnit) = 3 ∧ (∀ n < 128, bit (sLast.slot 3 n 0) 63 = true) ∧ bit (sLast.slot 3 0 0) 62 = true)
    ∧ (let b := sBind.bindRec 0 127
       sBind.nextVisit 0 = some 127 ∧ sBind.badRec 0 127 = false ∧ sBind.ctx? b.ctx = some wc ∧ sBind.grid? b.ctx b.grid = some grid0 ∧
        wc.freeing = false ∧ sBind.findCore b (b.cores 0) = some (1, ⟨[0], 0⟩, none) ∧
        freePslots wc.nps b.groups (sBind.usedPslots b.ctx) = some [1])
    ∧ ((withG wg).residents 1 = [] ∧ (withG wg).residents 575 = [] ∧ (withG wg).carveOf 1 ≠ BitVec.ofNat 3 4 ∧ (withG wg).carveOf 575 ≠ BitVec.ofNat 3 0)
    ∧ (sEnd.team? 0 = some tEnd ∧ sEnd.teamQuiet tEnd = true ∧ sEnd.ctx? tEnd.ctx = some wc ∧ sEnd.grid? tEnd.ctx tEnd.grid = some grid0 ∧
      (sEnd.releaseTeam tEnd).detAddrs tEnd.ctx tEnd.grid = [] ∧ LaunchRec.evbase grid0.record = 0 ∧
      (sEnd.releaseTeam tEnd).engineWord wc grid0.root.toNat 8 .engineWrite = .ready ⟨0x120, 0x120⟩) := by
  refine ⟨by decide +kernel, fun st h => by rcases h with rfl | rfl <;> decide +kernel, by decide +kernel, by decide +kernel, by decide +kernel, by decide +kernel, by decide +kernel⟩

/-! ### Witnesses: events of groups -/

/-- An operation of its own that has still to deliver v3 of lanes 0 and 1. -/
def opThread : PendOp := ⟨8, 0x10004, some 0, .thread, [(192, 5), (193, 6)], [], 4⟩
def gThread : Group := { wg with pend := [opThread], readyAt := 0, eligible := some 0 }
def opDet : PendOp := ⟨8, 0x10004, some 0, .det 1 none false, [], [], 0⟩
def gDetP : Group := { wg with pend := [opDet] }
def sDet (bs : List DetBuf) : State := { withG gDetP with sliceReqs := [reqDet], detBufs := bs }
/-- A split that waits on a word, whose wait no slice holds. -/
def wait0 : WordWait := ⟨line0, 0, 0, .dev, false⟩
def gPoll : Group := { wg with splits := [{ wp with park := .word wait0 }] }
def gReplay : Group := { wg with replay := some (.remote 5) }
/-- A region at its limit of words, with its split and as a glint; one aborted 65,536 times; an imprecise trap that waits. -/
def regionAt (n : Nat) (replaying : Bool) : Region := { region0 with issued := n, replaying := replaying }
def gLimit : Group := { wg with region := some (regionAt 2048 false) }
def gGlintLimit : Group := { wg with region := some (regionAt 128 false), glint := some ⟨7, 0, 0, [], [], 0⟩ }
def gAborts : Group := { wg with region := some (regionAt 0 true), aborts := 65536 }
def gImp : Group := { wg with imprecise := [⟨0x70, 5, 6, 0, true⟩] }

theorem witness_GroupEvents :
    (agentKey (.group 0 0) = 0 ∧ (withG gThread).group? 0 = some gThread ∧ gThread.pend.find? (fun x => x.id = opThread.id && x.kind = .thread) = some opThread ∧
      keysRise none opThread.vals = true ∧ (withG gThread).readsLeft 0 = [])
    ∧ (let s := { withG wg with cycles := 128 }
       s.eligible 0 wg = true ∧ wg.eligible = some 0 ∧ 0 + 128 ≤ s.cycles)
    ∧ (((withG gPoll).wordWaits.filter fun x => x.1 = 0 && !x.2.2.registered) = [(0, 0, wait0)] ∧ wait0.scope ≠ .prom ∧ gPoll.stopped = false ∧ (withG gPoll).isOwned wait0.line = false ∧
      (withG gPoll).l1 = [] ∧
      wait0.least.toNat ≤ leNat (overlayBuf wait0.line.key wait0.off ((withG gPoll).bytes wait0.line.key wait0.off 8) gPoll.buf))
    ∧ (gReplay.replay = some (.remote 5) ∧ (withFab gReplay).replayClear ((withFab gReplay).ctxOf gReplay) (.remote 5) = true)
    ∧ (∀ bs, bs = [] ∨ bs = [buf0] → (sDet bs).sliceReqs.find? (fun x => x.id = reqDet.id) = some reqDet ∧ (sDet bs).detBehind reqDet = false ∧ reqDet.key = 0 ∧
      reqDet.pend = opDet.id ∧ gDetP.pend = [opDet] ∧ opDet.kind = .det 1 none false)
    ∧ (((sDet []).detBufs.filter fun b => b.slice = reqDet.slice).length < 64 ∧ (sDet [buf0]).detBufs.find? (fun b => b.holds reqDet) = some buf0 ∧ buf0.entries.length < 16 ∧
      smGet 0 gDetP.detSeq reqDet.lane < 2 ^ 32 - 1 ∧ buf0.entries.Pairwise keyOrder)
    ∧ (let g : Group := { gDetP with detSeq := [(31, 2 ^ 32 - 1)] }; let s : State := { sDet [] with groups := [(0, g)] }
       s.sliceReqs.find? (fun x => x.id = reqDet.id) = some reqDet ∧ s.detBehind reqDet = false ∧ g.pend = [opDet] ∧ smGet 0 g.detSeq reqDet.lane = 2 ^ 32 - 1)
    ∧ (CanAbort (withTrap gLimit) 0 gLimit (regionAt 2048 false) cTrap frame0 ∧ stands (withTrap gLimit) 0 gLimit wp ∧ gLimit.overLimit = true)
    ∧ (gGlintLimit.glint.isSome = true ∧ stands (withTrap gGlintLimit) 0 gGlintLimit wp ∧ gGlintLimit.overLimit = true)
    ∧ (CanAbort (withTrap gAborts) 0 gAborts (regionAt 0 true) cTrap frame0 ∧ cTrap.preempting = none ∧ stands (withTrap gAborts) 0 gAborts wp ∧
      gAborts.replaysAt wp.slot wp.pc = true ∧ 65536 ≤ gAborts.aborts)
    ∧ (CanEnter (withTrap gImp) 0 gImp cTrap frame0 ∧ gImp.imprecise = [⟨0x70, 5, 6, 0, true⟩] ∧ gImp.stopped = false ∧ gImp.replay = none ∧ gImp.preciseDue = false ∧
      gImp.atSafePoint = true ∧ gImp.nextSlot = some 0 ∧ gImp.split? 0 = some wp ∧ alwaysReports 0x70 = false) := by
  refine ⟨by decide +kernel, by decide +kernel, by decide +kernel, by decide +kernel, ?_,
    ⟨by decide +kernel, by decide +kernel, by decide, by decide, by simp [buf0]⟩, by decide +kernel,
    ⟨canAbort (by decide +kernel) (by decide +kernel) (by decide +kernel) (by decide +kernel), by unfold stands; decide +kernel, by decide⟩,
    ⟨by decide, by unfold stands; decide +kernel, by decide⟩,
    ⟨canAbort (by decide +kernel) (by decide +kernel) (by decide +kernel) (by decide +kernel), rfl, by unfold stands; decide +kernel, by decide, by decide⟩,
    ⟨⟨rfl, rfl, rfl, rfl, by simp [gImp, wg, placeGroup, newGroup], rfl, rfl, rfl, by decide +kernel,
      ⟨by decide +kernel, headerIn (c := cTrap) rfl (by decide +kernel) (by decide +kernel)⟩, by decide +kernel, by decide +kernel⟩, rfl, rfl, rfl, rfl, by decide, by decide, rfl, by decide⟩⟩
  rintro bs (rfl | rfl) <;> decide +kernel

/-! ### Witnesses: pre-emption, mirrored blocks -/

/-- A context that is being pre-empted, its save area of 1 MiB at 0x800000; its group at a point where it stops. -/
def cPre (q : Option (BitVec 16)) : Context := { wc with record := memPuts wc.record 808 (natLe 0x800000 8 ++ natLe 0x100000 8), preempting := q }
def sPre (gs : List (Nat × Group)) : State := { withG wg with ctxs := [(1, cPre (some 5))], groups := gs }
/-- The context has come to rest, with no group left; the lowest 1 GiB is a cached translation. -/
def sRest : State := { sPre [] with teams := [], tlb := [(2 ^ 36, ⟨1, 0, true, false⟩)] }

/-- A line below 1 GiB that a cached translation maps is reached, whatever memory holds. -/
theorem saved {c : Context} {ia : Nat} {r t : State} (h : c.podShared ia = none ∧ ia < 2 ^ 30 ∧
      r.tlb = [(2 ^ 36, ⟨1, 0, true, false⟩)] ∧ r.offlineSlices = [] ∧ r.offlineStacks = [])
    (ht : t = { r with mem := t.mem, l1 := t.l1, tick := t.tick, metWaits := t.metWaits }) : ∃ l, t.resolveIa c ia .engineWrite = .ok l := by
  obtain ⟨h1, h2, h3, h4, h5⟩ := h
  have a1 : t.tlb = [(2 ^ 36, ⟨1, 0, true, false⟩)] := by rw [ht]; exact h3
  have a2 : t.offlineSlices = [] := by rw [ht]; exact h4
  have a3 : t.offlineStacks = [] := by rw [ht]; exact h5
  have a4 : t.cached ia = some ⟨1, 0, true, false⟩ := by
    have k : tlbKey 1 ia = 2 ^ 36 := by simp [tlbKey, pageSize, Nat.div_eq_of_lt (show ia < 1073741824 from h2)]
    simp [State.cached, List.findSome?, a1, k, smGet]
  unfold State.resolveIa State.translate
  simp [h1, a2, a3, a4]

/-- A mirrored leaf of an address above 1 GiB: of 64 KiB, in tables at 0x110000 and 0x118000, of 2 MiB, of 1 GiB; two frames in the pool, or none. -/
def mirrorLeaf : Nat := 2 ^ 63 + 2 ^ 62 + 2 ^ 60 + 0x200000
def mirrorTables (lev : Nat) : State :=
  let put (s : State) (t i e : Nat) : State := s.putBytes (pteKey 0 t i).1 (pteKey 0 t i).2 (natLe e 8)
  if lev = 1 then put (withG wg) placeTable 1 (leafMirrored (2 ^ 30))
  else
    let s := put (withG wg) placeTable 1 (ptPointer 0x110000)
    if lev = 2 then put s 0x110000 0 mirrorLeaf else put (put s 0x110000 0 (ptPointer 0x118000)) 0x118000 0 mirrorLeaf
def sMirror (released : Bool) : State := { mirrorTables 3 with mirrorReqs := [⟨6, 1, 2 ^ 30, released⟩] }
def sLarge (lev : Nat) (pool : List (Nat × Nat)) : State := { mirrorTables lev with mirrorReqs := [⟨6, 1, 2 ^ 30, true⟩], pool }

theorem witness_PreemptAndMirror :
    (agentKey (.group 0 0) = 0 ∧ (sPre [(0, wg)]).group? 0 = some wg ∧ wg.glint = none ∧ wg.stopped = false ∧ ((sPre [(0, wg)]).ctxOf wg).preempting.isSome = true ∧
      (sPre [(0, wg)]).stopPoint 0 wg = some .here)
    ∧ (sRest.ctx? 1 = some (cPre (some 5)) ∧ (cPre (some 5)).preempting = some 5 ∧ sRest.atRest 1 = true ∧ (sRest.savedOf 1).max ≤ (cPre (some 5)).savesize ∧
      (∀ t : State, t = { sRest with mem := t.mem, l1 := t.l1, tick := t.tick, metWaits := t.metWaits } → ∀ n ≤ (sRest.savedOf 1).max / 128,
        ∃ l, t.resolveIa (cPre (some 5)) ((cPre (some 5)).savebase + 128 * n) .engineWrite = .ok l))
    ∧ (∀ b, (sMirror b).mirrorReqs.find? (fun y => y.id = 6) = some ⟨6, 1, 2 ^ 30, b⟩ ∧
      (sMirror b).leafOf 0 (2 ^ 30) [0, 1, 2, 3] ((sMirror b).rootTable 0) = some (3, 0x118000, mirrorLeaf) ∧
      bit mirrorLeaf 60 = true ∧ bit mirrorLeaf 61 = false ∧ 0x118000 % 8 = 0)
    ∧ (let s := sLarge 2 [(0, 0x300000), (0, 0x310000)]
       s.leafOf 0 (2 ^ 30) [0, 1, 2, 3] (s.rootTable 0) = some (2, 0x110000, mirrorLeaf) ∧ (s.takeTable 0 3).map Prod.fst = some 0x300000 ∧
        freshTable 0x300000 256 0x110000 8)
    ∧ (let s := sLarge 1 [(0, 0x300000), (0, 0x310000)]
       s.leafOf 0 (2 ^ 30) [0, 1, 2, 3] (s.rootTable 0) = some (1, placeTable, leafMirrored (2 ^ 30)) ∧ bit (leafMirrored (2 ^ 30)) 60 = true ∧
        bit (leafMirrored (2 ^ 30)) 61 = false ∧ (s.takeTable 0 2).map Prod.fst = some 0x300000 ∧
        ((s.takeTable 0 2).bind fun x => x.2.takeTable 0 3).map Prod.fst = some 0x310000 ∧ freshTable 0x300000 4096 (placeTable + 8) 8 ∧
        freshTable 0x310000 256 (placeTable + 8) 8 ∧ freshTable 0x310000 256 0x300000 4096)
    ∧ (let s := sLarge 2 []
       s.leafOf 0 (2 ^ 30) [0, 1, 2, 3] (s.rootTable 0) = some (2, 0x110000, mirrorLeaf) ∧ (s.takeTable 0 3).isNone = true ∧ s.ctx? 1 = some wc ∧
        wc.reported = none ∧ wc.preempting = none) := by
  have hm : (sRest.savedOf 1).max / 128 = 512 := by decide +kernel
  have hb : (cPre (some 5)).savebase = 0x800000 := by decide +kernel
  have all : (List.range 513).all (fun n => decide ((cPre (some 5)).podShared (0x800000 + 128 * n) = none)) = true := by decide +kernel
  refine ⟨by decide +kernel, ⟨rfl, rfl, by decide +kernel, by decide +kernel, fun t ht n hn => ?_⟩, fun b => by cases b <;> decide +kernel,
    by unfold freshTable; decide +kernel, by unfold freshTable; decide +kernel, by decide +kernel⟩
  rw [hm] at hn
  rw [hb]
  exact saved ⟨of_decide_eq_true (List.all_eq_true.mp all n (List.mem_range.mpr (by omega))), by omega, rfl, rfl, rfl⟩ ht

/-! ### Witnesses: the step -/

/-- IADD r5, r10, r20 of type s32; a state placed before it. -/
def addWord : Word := 0b00_0_000000_0000101_0001010_0010100_10#32
def sAdd : State := State.reset.placeWord 32 addWord.toNat

/-- The outcome is a next state. -/
def isNext : Host.Outcome State Fault Refusal → Bool
  | .next _ => true
  | _ => false

theorem next_of {o : Host.Outcome State Fault Refusal} (h : isNext o = true) : ∃ t, o = .next t := by
  cases o <;> first | exact ⟨_, rfl⟩ | cases h

/-- The same with its split at the kernel's entry point; RLD r6 of class 5 with a send allowance of 2 units. -/
def pEntry : Split := { wp with starts := true }
def sEntry : State := { sAdd with groups := [(0, gOf pEntry)] }
def rldWord : Word := 0b00_0_11100000000_0000110_00010_00_100_0
def sShort : State :=
  let s := State.reset.placeWord 32 rldWord.toNat
  { s with groups := [(0, gFab)], ctxs := [(1, cFab)], allow := [(5, ⟨256, 64, 0⟩)] }

theorem short {o : Host.Outcome State Fault Refusal} {g : Group} {p : Split} {m : Mask}
    (h : (match o with | .next t => ((t.wordDone 0 g p m false).group? 0).any fun h => h.allowanceSlot.isSome | _ => false) = true) :
    ∃ t h, o = .next t ∧ (t.wordDone 0 g p m false).group? 0 = some h ∧ h.allowanceSlot.isSome = true := by
  cases o with
  | next t =>
    simp only at h
    cases hg : (t.wordDone 0 g p m false).group? 0 with
    | none => simp [hg] at h
    | some x => exact ⟨t, x, rfl, hg, by simpa [hg] using h⟩
  | fault _ => cases h
  | refused _ => cases h

theorem witness_StepRunsDecodedInstruction :
    sAdd.agenda = [.issue 0 0] ∧ Issues (popped sAdd) 0 0 0 wg wp ∧ (popped sAdd).fetchWord 0 ((popped sAdd).ctxOf wg) wp.pc.toNat = .ok addWord
    ∧ decodeWord addWord = .ok ⟨0, 0, .iadd 5 10 20 2⟩
    ∧ (∃ t, exec (.iadd 5 10 20 2) ((popped sAdd).ready 0 0 0 wg wp ((popped sAdd).ctxOf wg)) = .next t) ∧ wg.allowanceSlot = none
    ∧ (sEntry.agenda = [.issue 0 0] ∧ Issues (popped sEntry) 0 0 0 (gOf pEntry) pEntry ∧ pEntry.starts = true ∧
      (popped sEntry).fetchWord 0 ((popped sEntry).ctxOf (gOf pEntry)) pEntry.pc.toNat = .ok addWord)
    ∧ (sShort.agenda = [.issue 0 0] ∧ Issues (popped sShort) 0 0 0 gFab wp1 ∧ (popped sShort).fetchWord 0 ((popped sShort).ctxOf gFab) wp1.pc.toNat = .ok rldWord ∧
      decodeWord rldWord = .ok ⟨0, 0, .rld 6 2 0 4⟩ ∧ gFab.allowanceSlot = none ∧
      ∃ t h, exec (.rld 6 2 0 4) ((popped sShort).ready 0 0 0 gFab wp1 ((popped sShort).ctxOf gFab)) = .next t ∧
        (t.wordDone 0 gFab wp1 (activeLanes gFab wp1) false).group? 0 = some h ∧ h.allowanceSlot.isSome = true) :=
  ⟨rfl, ⟨rfl, by decide, by decide +kernel, by decide +kernel, rfl, rfl, rfl, by decide +kernel, by decide, by decide, by decide⟩,
    by rfl, by decide, next_of (by decide +kernel), by decide,
    ⟨rfl, ⟨rfl, by decide, by decide +kernel, by decide +kernel, rfl, rfl, rfl, by decide +kernel, by decide, by decide, by decide⟩, rfl, by rfl⟩,
    ⟨rfl, ⟨rfl, by decide, by decide +kernel, by decide +kernel, rfl, rfl, rfl, by decide +kernel, by decide, by decide, by decide⟩, by rfl, by decide, by decide,
      short (by decide +kernel)⟩⟩

theorem witness_StepKeepsMemory : sAdd.memOk ∧ ∃ t, step sAdd = .next t :=
  ⟨by unfold State.memOk; decide +kernel, next_of (by decide +kernel)⟩

theorem witness_StepKeepsCaches :
    cachesOk { sAdd with l1 := [(0, ⟨0, List.replicate 138 0, 0, 0⟩)] } ∧ ∃ t, step { sAdd with l1 := [(0, ⟨0, List.replicate 138 0, 0, 0⟩)] } = .next t :=
  ⟨by intro x hx; simp at hx; subst hx; rfl, next_of (by decide +kernel)⟩

/-! ### Witnesses: the device and its host -/

/-- A patch blob of the right shape, VERSION 7, no body, its signatures zero. -/
def blob : List Byte := natLe 0x4F525054 4 ++ natLe 7 4 ++ List.replicate 3429 0

/-- Where its signatures verify, it is a blob that the device takes. -/
theorem blob_ok (he : Config.ed25519Verifies (blob.take 64) (slice blob 64 64) = true)
    (hm : Config.mldsaVerifies (blob.take 64) (slice blob 128 3309) = true) : blobOk blob = true := by
  have h0 : leAt blob 8 4 = 0 := by decide +kernel
  have h1 : blob.length = 64 + 0 + 64 + 3309 := by decide +kernel
  have h2 : leAt blob 0 4 = 0x4F525054 := by decide +kernel
  have h3 : (slice blob 12 52).all (fun x => decide (x = 0)) = true := by decide +kernel
  unfold blobOk
  simp only [h0, h1, h2, h3, he, hm, Nat.add_zero, decide_true, Bool.and_true]

def sTripped (n : Nat) (thermal : Bool) (t : Nat) : State := { withG wg with tripped := some ⟨n, thermal, [1]⟩, stopped := true, nanos := t, aclkMHz := 1200 }

theorem witness_DeviceEvents :
    (Config.ed25519Verifies (blob.take 64) (slice blob 64 64) = true → Config.mldsaVerifies (blob.take 64) (slice blob 128 3309) = true →
      let s : State := { withG wg with patchStore := some ⟨7, blob⟩ }
      s.patchStore = some ⟨7, blob⟩ ∧ blobOk blob = true ∧ s.oneWay.toNat < (7 : Word).toNat)
    ∧ ((withG wg).patchStore = none ∧ (∃ x ∈ (withG wg).teams, x.ctx = 1) ∧ (withG wg).ctx? 1 = some wc ∧ wc.reported = none ∧ wc.preempting = none)
    ∧ (2 ^ 23 - 1 < 2 ^ 32 ∧ ∃ ia ∈ (withG wg).iasOf (2 ^ 23 - 1), wc.reaches ia = true)
    ∧ (let s : State := { withG wg with aclkMHz := 1200, nanos := 10000001 }
       s.tripped = none ∧ s.aclkMHz = 1200 ∧ s.aclkSince + 10000000 < s.nanos)
    ∧ (let s : State := { withG wg with aclkMHz := 1200, nanos := 10000000 }
       s.nanos ≤ s.aclkSince + 10000000)
    ∧ (∀ h, let s := sTripped 19000000 h 19999999
       s.tripped = some ⟨19000000, h, [1]⟩ ∧ 19000000 / 1000000 = s.nanos / 1000000 ∧ s.aclkMHz = 1200 ∧ s.aclkSince + 10000000 < s.nanos)
    ∧ (let s := sTripped 19000000 false 20000000
       s.tripped = some ⟨19000000, false, [1]⟩ ∧ 19000000 / 1000000 ≠ s.nanos / 1000000 ∧ owesPower s 1 = true ∧ s.ctx? 1 = some wc)
    ∧ keysRise none sFull.slots = true ∧ (sTripped 0 true 0).stopped = true ∧ 1300 ≤ { withG wg with aclkMHz := 1300 }.aclkMHz ∧ { withG wg with aclkMHz := 2300 }.aclkMHz + 100 ≤ 2400
    ∧ (let s : State := { withG wg with attestRefused := some 5, nanos := 1000000005 }
       s.attestRefused = some 5 ∧ 5 + 1000000000 ≤ s.nanos)
    ∧ ∃ v : DWord, 32 = v.toNat / 2 ^ 32 % 2 ^ 16 ∧ 32 = v.toNat / 2 ^ 16 % 2 ^ 16 :=
  ⟨fun he hm => ⟨rfl, blob_ok he hm, by decide⟩, ⟨rfl, ⟨_, .head _, rfl⟩, rfl, rfl, rfl⟩, by decide +kernel, ⟨rfl, rfl, by decide⟩, by decide,
    fun _ => ⟨rfl, by simp [sTripped], rfl, by decide +revert⟩, ⟨rfl, by decide, by decide, rfl⟩, by decide +kernel, rfl, by decide, by decide, ⟨rfl, by decide⟩, 0x2000200000, by decide⟩

/-- A command to the device, or on context 1. -/
def msg (opc : Byte) (flags : Byte) (ctx : Word) (payload : List Byte) : HostMsg := ⟨opc, flags, 9, ctx, BitVec.ofNat 32 payload.length, 0, 0, payload⟩
def sHost : State := withG wg

theorem received {s : State} {opc flags : Byte} {ctx : Word} {b : List Byte} {d : Bool} (hb : s.booted = true) (hc : if d then ctx = 0 else ctx ≠ 0)
    (hl : b.length ≤ 65536) (hw : ∀ c, s.ctx? ctx.toNat = some c → c.freeing = false ∧ c.preempting = none) : Received s (msg opc flags ctx b) opc d :=
  ⟨hb, rfl, hc, ⟨rfl, rfl⟩, ⟨by simp [msg]; omega, hl⟩, hw⟩

/-- The small state takes up every command. -/
theorem toDevice {s : State} (opc flags : Byte) {b : List Byte} (h : s.booted = true) (hc : s.ctx? 0 = none) (hl : b.length ≤ 65536) :
    Received s (msg opc flags 0 b) opc true := received h rfl hl fun c h => by rw [show (0 : Word).toNat = 0 from rfl, hc] at h; cases h
theorem toContext {s : State} {c : Context} (opc flags : Byte) {b : List Byte} (h : s.booted = true) (hc : s.ctx? 1 = some c) (hf : c.freeing = false ∧ c.preempting = none)
    (hl : b.length ≤ 65536) : Received s (msg opc flags 1 b) opc false :=
  received h (by decide) hl fun d h => by rw [show (1 : Word).toNat = 1 from rfl, hc] at h; cases h; exact hf

/-- A pre-empted context that saved its team on core 0, with a split of its own where `other`; the header of its area at 0x800000 holds the firmware's VERSION. -/
def savedTeam (other : Bool) : Saved :=
  { groups := [], teams := [{ wt with carve := if other then 2 else 3 }], lines := [], lineBits := [], accWords := [], tiles := [], matOps := [], owned := [] }
def cSaved (other : Bool) : Context := { cPre none with preempted := true, saved := some (savedTeam other) }
def sSaved (other : Bool) : State :=
  { withG wg with ctxs := [(1, cSaved other)], teams := if other then [wt] else [], tlb := [(2 ^ 36, ⟨1, 0, true, false⟩)],
                  mem := memPuts (withG wg).mem (hbmKey 0 0x800000 * 256) (natLe Config.firmwareVersion.toNat 4) }

theorem versionBytes (m : Memory) (a : Nat) (v : Word) : BitVec.ofNat 32 (leNat (memGets (memPuts m a (natLe v.toNat 4)) a 4)) = v := by
  have h (i : Nat) (hi : i < 4) := memGet_memPuts_same m a (natLe v.toNat 4) (i := i) (by simpa [natLe] using hi)
  generalize hM : memPuts m a (natLe v.toNat 4) = M at h ⊢
  have e : memGets M a 4 = [memGet M (a + 0), memGet M (a + 1), memGet M (a + 2), memGet M (a + 3)] := rfl
  rw [e, h 0 (by omega), h 1 (by omega), h 2 (by omega), h 3 (by omega)]
  apply BitVec.eq_of_toNat_eq
  simp [natLe, leNat]
  omega

/-- A named target: saved cluster 0 returns to cluster 0. -/
def named0 : List Byte := 0 :: List.replicate 23 0xFF
/-- A placed 64 KiB page's entry in the level-0 table, a pool frame, the record of context 1. -/
def mapOne : List Byte := natLe (2 ^ 47) 8 ++ natLe 0 8 ++ natLe (2 ^ 63 + 0x700000) 8
def poolOne : List Byte := natLe (2 ^ 50) 8 ++ natLe 0 8 ++ natLe 0x900000 8
def ctxBytes : List Byte := natLe 1 4 ++ List.replicate 1020 0

theorem witness_Version (other : Bool) : (sSaved other).savedVersion (cSaved other) = some Config.firmwareVersion := by
  have h1 : (cSaved other).podShared (cSaved other).savebase = none := by cases other <;> decide +kernel
  have h2 : (cSaved other).savebase = 0x800000 := by cases other <;> decide +kernel
  have h3 : (sSaved other).offlineSlices = [] := rfl
  have h4 : (sSaved other).offlineStacks = [] := rfl
  have h5 : (sSaved other).tlb = [(2 ^ 36, ⟨1, 0, true, false⟩)] := rfl
  have h6 : (sSaved other).poison = [] := rfl
  rw [h2] at h1
  have hr : (sSaved other).resolveIa (cSaved other) 0x800000 .engineRead = .ok ⟨hbmKey 0 0x800000, 0x10000⟩ := by
    unfold State.resolveIa State.translate State.cached
    rw [h1, h3, h4, h5]
    rfl
  unfold State.savedVersion
  rw [h2, hr]
  simp only [State.isPoisoned, h6]
  exact congrArg some (versionBytes _ _ _)

theorem witness_HostCommands :
    (let m := msg 0x01 0 0 (natLe 0x20000 8 ++ [1, 2, 3])
     Received sHost m 0x01 true ∧ 8 ≤ m.payload.length ∧
      sHost.plainLines (iaLines (field m 0 8) (m.payload.length - 8)) = .ok [(0x20000, ⟨hbmKey 0 0x20000, 0x400⟩)] ∧
      sHost.isOwned ⟨hbmKey 0 0x20000, 0x400⟩ = false ∧ sHost.isPoisoned (hbmKey 0 0x20000) = false)
    ∧ (let m := msg 0x02 0 0 mapOne
       Received sHost m 0x02 true ∧ mapShape m = true ∧ m.flags.getLsbD 0 = false ∧ mapEntries m = [(2 ^ 47, 0, 2 ^ 63 + 0x700000)] ∧
        mapCheck 0 (2 ^ 63 + 0x700000) = none ∧ ∃ u, sHost.mapAll (mapEntries m) = .ok u)
    ∧ (let m := msg 0x02 0 0 (natLe (2 ^ 47) 8 ++ natLe 1 8 ++ natLe (14 * 2 ^ 60 + 2 ^ 30) 8)
       Received sHost m 0x02 true ∧ mapShape m = true ∧ (∀ e ∈ mapEntries m, mapCheck e.2.1 e.2.2 = none) ∧ sHost.mapAll (mapEntries m) = .error 0xB8)
    ∧ (let m := msg 0x02 1 0 poolOne
       Received sHost m 0x02 true ∧ mapShape m = true ∧ m.flags.getLsbD 0 = true ∧ ∀ e ∈ mapEntries m, poolCheck e = true)
    ∧ (∀ lev, lev = 0 ∨ lev = 1 ∨ lev = 2 →
      let m := msg 0x03 0 0 (natLe 0 8 ++ natLe lev 8)
      Received sHost m 0x03 true ∧ m.payload.length = 16 ∧ field m 9 7 = 0 ∧ field m 8 1 = lev ∧
        (if lev = 2 then sHost.unmapFrom 0 0 2 0 (sHost.rootTable 0) = .error 0x53 else ∃ u, sHost.unmapFrom 0 0 lev 0 (sHost.rootTable 0) = .ok u))
    ∧ (let m := msg 0x04 0 2 (natLe 2 4 ++ List.replicate 1020 0)
       Received sHost m 0x04 false ∧ m.payload.length = 1024 ∧ ctxReserved m.payload = false ∧ ctxRange m.payload = false ∧ field m 0 4 = m.ctx.toNat ∧
        (∀ x ∈ sHost.teams, x.ctx ≠ m.ctx.toNat) ∧ sHost.ctx? m.ctx.toNat = none)
    ∧ (let m := msg 0x05 0 1 (natLe 0x6000 8)
       let s := sLaunch false
       Names s m wc ∧ Received s m 0x05 false ∧ m.payload.length = 8 ∧ field m 0 8 = 0x6000 ∧ s.resolveIa wc 0x6000 .engineRead = .ok ⟨0xC0, 0xC0⟩ ∧
        s.isPoisoned 0xC0 = false ∧ s.isOwned ⟨0xC0, 0xC0⟩ = false ∧ ∃ s2, s.acceptRecord wc none (dwords (s.bytes 0xC0 0 128) 16) false = .ok [] s2)
    ∧ (∀ opc, opc = 0x06 ∨ opc = 0x08 → Names sHost (msg opc 0 1 []) wc ∧ Received sHost (msg opc 0 1 []) opc false ∧ wc.preempting = none ∧ wc.preempted = false)
    ∧ (∀ other, let m := msg 0x07 0 1 named0
       Names (sSaved other) m (cSaved other) ∧ Received (sSaved other) m 0x07 false ∧ m.payload.length = 24 ∧ resumeBytesOk m.payload = true ∧
        (cSaved other).preempting = none ∧ (cSaved other).preempted = true ∧ (cSaved other).saved = some (savedTeam other) ∧
        resumeOk (savedTeam other) m.payload = true ∧ (cSaved other).resuming = none ∧ (sSaved other).savedVersion (cSaved other) = some Config.firmwareVersion ∧
        (sSaved other).chooseTargets (savedTeam other) (m.payload.map BitVec.toNat) (savedTeam other).places [] = if other then none else some [(0, 0)])
    ∧ (sSaved false).recordRoom (savedTeam false) [(0, 0)] = true
    ∧ (let s : State := { sSaved false with slots := (List.range 128).map fun n => (n * 8, 2 ^ 63) }
       s.chooseTargets (savedTeam false) [] (savedTeam false).places [] = some [(0, 0)] ∧ s.recordRoom (savedTeam false) [(0, 0)] = false)
    ∧ (let s : State := { sHost with tripped := some ⟨0, false, [1]⟩ }
       Names s (msg 0x08 0 1 []) wc ∧ Received s (msg 0x08 0 1 []) 0x08 false ∧ owesPower s 1 = true)
    ∧ (∀ f, f = 0 ∨ f = 1 → let m := msg 0x09 f 0 (natLe 0 4 ++ natLe 16 4)
       Received sHost m 0x09 true ∧ m.payload.length = 8 ∧ field m 4 4 = 16)
    ∧ (let m := msg 0x0A 0 0 (List.replicate 32 5)
       m.ctx = 0 ∧ m.payload.length = 32 ∧ ∀ r, Received { sHost with attestRefused := r } m 0x0A true)
    ∧ (∀ sub, sub = 0 ∨ sub = 1 ∨ sub = 2 ∨ sub = 3 → ∀ ctx, ctx = 0 ∨ ctx = 1 → let m := msg 0x0B 0 ctx (sub :: natLe 0 4)
       m.payload.length = 5 ∧ Received sHost m 0x0B (decide (ctx = 0)) ∧ field m 0 1 = sub.toNat ∧ field m 1 4 = 0 ∧ sHost.ctx? 1 = some wc ∧
        keysRise none sHost.groups = true)
    ∧ Received sHost (msg 0x0C 0 0 blob) 0x0C true
    ∧ (let s : State := { sHost with teams := [] }
       let m := msg 0x0D 0 0 (natLe 1023 4)
       Received s m 0x0D true ∧ m.payload.length = 4 ∧ field m 0 4 = 1023 ∧ s.teams = [] ∧ ∀ c ∈ s.ctxs, ∀ x, c.2.saved = some x → x.teams = [])
    ∧ (let m := msg 0x0E 0 0 (natLe 5 8 ++ natLe 32 2 ++ natLe 32 2 ++ natLe 0 4)
       Received sHost m 0x0E true ∧ m.payload.length = 16 ∧ field m 12 4 = 0 ∧ field m 8 2 = 32 ∧ field m 10 2 = 32)
    ∧ sHost.booted = true ∧ (msg 0 0 0 []).opc = 0 ∧ 0x0E < (msg 0x0F 0 0 []).opc.toNat := by
  have dev (opc flags : Byte) {b : List Byte} (hl : b.length ≤ 65536) : Received sHost (msg opc flags 0 b) opc true := toDevice opc flags rfl rfl hl
  have con (opc flags : Byte) {b : List Byte} (hl : b.length ≤ 65536) : Received sHost (msg opc flags 1 b) opc false := toContext opc flags rfl rfl ⟨rfl, rfl⟩ hl
  refine ⟨⟨dev _ _ (by decide), by decide, by rfl, by decide +kernel, by decide +kernel⟩, ⟨dev _ _ (by decide), by decide, rfl, by decide, by decide, okExcept (by decide +kernel)⟩,
    ⟨dev _ _ (by decide), by decide, by decide, rfl⟩, ⟨dev _ _ (by decide), by decide, rfl, by decide⟩, ?_,
    ⟨received rfl (by decide) (by decide +kernel) (fun c h => by cases h), by decide +kernel, by decide +kernel, by decide +kernel, by decide +kernel, by decide, rfl⟩,
    ⟨⟨rfl, rfl⟩, toContext _ _ rfl rfl ⟨rfl, rfl⟩ (by decide), rfl, by decide, by decide +kernel, rfl, rfl, acceptOk (by decide +kernel)⟩, ?_, ?_, by decide +kernel, by decide +kernel,
    ⟨⟨rfl, rfl⟩, toContext _ _ rfl rfl ⟨rfl, rfl⟩ (by decide), by decide⟩, ?_, ⟨rfl, rfl, fun r => toDevice _ _ rfl rfl (by decide)⟩, ?_, dev _ _ (by decide +kernel),
    ⟨toDevice _ _ rfl rfl (by decide), rfl, by decide, rfl, by decide⟩, ⟨dev _ _ (by decide), rfl, by decide, by decide, by decide⟩, rfl, rfl, by decide⟩
  · rintro lev (rfl | rfl | rfl)
    · exact ⟨dev _ _ (by decide), rfl, by decide, by decide, okExcept (by decide +kernel)⟩
    · exact ⟨dev _ _ (by decide), rfl, by decide, by decide, okExcept (by decide +kernel)⟩
    · exact ⟨dev _ _ (by decide), rfl, by decide, by decide, rfl⟩
  · rintro opc (rfl | rfl) <;> exact ⟨⟨rfl, rfl⟩, con _ _ (by decide), rfl, rfl⟩
  · intro other
    refine ⟨⟨rfl, rfl⟩, toContext _ _ rfl rfl ⟨rfl, rfl⟩ (by decide), rfl, by decide, rfl, rfl, rfl, by cases other <;> decide, rfl, witness_Version other, ?_⟩
    cases other <;> rfl
  · rintro f (rfl | rfl) <;> exact ⟨dev _ _ (by decide), rfl, by decide⟩
  · rintro sub (rfl | rfl | rfl | rfl) ctx (rfl | rfl)
    all_goals first
      | exact ⟨rfl, dev _ _ (by decide), by decide, by decide, rfl, by decide⟩
      | exact ⟨rfl, con _ _ (by decide), by decide, by decide, rfl, by decide⟩

/-! ### Worked examples of the spec -/

/-- The group after a word whose group is g. -/
def ran (i : Instr) (g : Group) : Group := ((nextOf (exec i (withG g))).group? 0).getD wg
/-- A vector register of lane 0 after a word. -/
def vOut (i : Instr) (v : SMap Word) (r : Nat) : Word := (ran i { wg with v }).vreg r 0

/-- 06 R104: IMULH of 0x8000_0000 and 2, signed and unsigned; IMUL gives 0 in both. -/
theorem test_imulh : vOut (.imulh 3 1 2 0) [(64, 0x80000000), (128, 2)] 3 = 0xFFFFFFFF ∧ vOut (.imulh 3 1 2 1) [(64, 0x80000000), (128, 2)] 3 = 1
    ∧ vOut (.imul 3 1 2 0) [(64, 0x80000000), (128, 2)] 3 = 0 := by decide +kernel

/-- 06, the example of BFX and BFI. -/
theorem test_bit_fields : vOut (.bfx 3 1 2 0) [(64, 0xDEADBEEF), (128, 0xC08)] 3 = 0xDBE ∧ vOut (.bfx 3 1 2 1) [(64, 0xDEADBEEF), (128, 0xC08)] 3 = 0xFFFFFDBE
    ∧ vOut (.bfi 3 1 2) [(64, 0x123), (128, 0xC08), (192, 0xFFFFFFFF)] 3 = 0xFFF123FF := by decide +kernel

/-- 06 R103: addition wraps; a source may be the destination. -/
theorem test_add_wraps : vOut (.iadd 1 1 1 1) [(64, 0x80000001)] 1 = 2 := by decide +kernel

/-- 08, the example of REDG.add.f32: all lanes, lane 2 left out, no lane. -/
theorem test_redg : (let v : SMap Word := [(128, 0x3F800000), (129, 0x33800000), (130, 0x33800000)]
    let run (m : Mask) := ran (.redg 5 2 5) { gOf { wp with exec := m } with v }
    ((run 0xFFFFFFFF).sreg 5 = 0x3F800001 ∧ (run 0xFFFFFFFF).xflags = 0) ∧ ((run 0xFFFFFFFB).sreg 5 = 0x3F800000 ∧ (run 0xFFFFFFFB).xflags = 0x10)
    ∧ (run 0).sreg 5 = 0 ∧ (run 0).xflags = 0) := by decide +kernel

/-- 04, the ten steps of the loss-scale example: ovf, %lscale, COUNT, FLOOR, the step word. -/
theorem test_loss_scale :
    (([0, 0, 0, 0, 0, 0, 1, 1, 1, 0].foldl (fun (x : Group × List (BitVec 8 × BitVec 16 × Bool × Word)) ovf =>
        let g := ran (.lsupd 9) { x.1 with xflags := x.1.xflags ||| (if ovf = 1 then 0x40 else 0) }
        (g, x.2 ++ [(g.lscale, g.count, g.xflags.getLsbD 7, g.sreg 9)])) (gLs 0x8F 0x8E 0x90 0 3 0, [])).2)
      = [(0x8F, 1, false, 0), (0x8F, 2, false, 0), (0x90, 0, false, 4), (0x90, 1, false, 0), (0x90, 2, false, 0), (0x90, 3, false, 0),
         (0x8F, 0, false, 9), (0x8E, 0, false, 9), (0x8E, 0, true, 3), (0x8E, 1, true, 0)] := by decide +kernel

/-- The value of a pattern of FP32 rounded into a format: bits and flags. -/
def roundOf (f : Fmt) (mode : BitVec 3) (word : Word) (w : Nat) (sat flush : Bool) (x : Nat) : Nat × BitVec 8 :=
  match Fl.ofBits .f32 x with
  | .fin s m e => let r := roundFl f ⟨mode, word, w, sat, flush⟩ s m e; (r.1.toBits f, r.2)
  | _ => (0, 0)

/-- 02, the example of 0x3F80_1000 to BF16: RNE, RZ, RU, RD, and SR of three words and widths. -/
theorem test_round_bf16 :
    ([(0, 0, 32), (1, 0, 32), (2, 0, 32), (3, 0, 32), (4, 0xF3A00000, 8), (4, 0xE0000000, 8), (4, 0xF3A00000, 2)] : List (BitVec 3 × Word × Nat)).map
      (fun c => roundOf .bf16 c.1 c.2.1 c.2.2 false false 0x3F801000)
    = [(0x3F80, 0x10), (0x3F80, 0x10), (0x3F81, 0x10), (0x3F80, 0x10), (0x3F81, 0x10), (0x3F80, 0x10), (0x3F80, 0x10)] := by decide +kernel

/-- 02, the examples of 70,000.0 and 1.5 × 2^−24 to FP16: overflow, saturation, the tie, flushing. -/
theorem test_round_f16 :
    ([0, 1, 2, 3, 4] : List (BitVec 3)).map (fun m => roundOf .f16 m 0x12345678 32 false false 0x4788B800)
      = [(0x7C00, 0x14), (0x7BFF, 0x14), (0x7C00, 0x14), (0x7BFF, 0x14), (0x7C00, 0x14)]
    ∧ roundOf .f16 2 0 32 true false 0x4788B800 = (0x7BFF, 0x30)
    ∧ ([0, 1, 2, 3] : List (BitVec 3)).map (fun m => roundOf .f16 m 0 32 false false 0x33C00000)
      = [(0x0002, 0x18), (0x0001, 0x18), (0x0002, 0x18), (0x0001, 0x18)]
    ∧ roundOf .f16 0 0 32 false true 0x33C00000 = (0x0000, 0x18) := by decide +kernel

/-- 02, the example of FP32 to .i8: −2.5, 300.0, a NaN. -/
theorem test_to_i8 :
    ([0, 1, 2, 3] : List (BitVec 3)).map (fun m => floatToInt true 8 { RndCtl.rne with mode := m } (Fl.ofBits .f32 0xC0200000))
      = [(-2, 0x10), (-2, 0x10), (-2, 0x10), (-3, 0x10)]
    ∧ floatToInt true 8 RndCtl.rne (Fl.ofBits .f32 0x43960000) = (127, 0x01) ∧ floatToInt true 8 RndCtl.rne (Fl.ofBits .f32 0x7FC00000) = (0, 0x01) := by decide +kernel

/-- 03, the quantisation example under FLOOR and CEIL: the record and the flags. -/
theorem test_quantise :
    let q (rule : Bool) : QRes := quantiseBlock ⟨0, 0, rule, 0, true, 0, 0, 32, []⟩
      ((List.range 32).map fun i => Fl.ofBits .f32 ([0x40E00000, 0xBF400000, 0x3E99999A, 0].getD (i % 4) 0)) (fun _ => 0)
    ((q false).blk.record 0 = [0x7F, 0xA7, 0x01, 0xA7, 0x01, 0xA7, 0x01, 0xA7, 0x01, 0xA7, 0x01, 0xA7, 0x01, 0xA7, 0x01, 0xA7, 0x01] ∧ (q false).flags = 0x38)
    ∧ ((q true).blk.record 0 = [0x80, 0x96, 0x00, 0x96, 0x00, 0x96, 0x00, 0x96, 0x00, 0x96, 0x00, 0x96, 0x00, 0x96, 0x00, 0x96, 0x00] ∧ (q true).flags = 0x18) := by
  decide +kernel

/-- 03 R50, the example of mantissas and local exponents of E2M1. -/
theorem test_array_elements : [0x7, 0xA, 0x1, 0x0].map (matElem (elemFmt 0 0) []) = [some (3, 2), some (-2, 0), some (1, 0), some (0, 0)] := by decide

/-- 13 R274, the example of three K-steps on one element. -/
theorem test_k_order :
    let a := ABlk.of 0 [] ⟨0x7F, 0, List.replicate 32 2⟩
    let b (x : Byte) := ABlk.of 2 [] ⟨x, 0, 0x38 :: List.replicate 31 0⟩
    let step (x : Byte) (v : Word) := cellAdd 1 a (b x) v
    step 0x97 0 = 0x4B800000 ∧ step 0x7F 0x4B800000 = 0x4B800000 ∧ cellAdd 1 a .zero 0x4B800000 = 0x4B800000 := by decide +kernel

/-- 09, the address of the window and slice example. -/
theorem test_home_slice : homeSlice 0x4000000123480 = 35 := by decide

/-- 09, the rotated tile example. -/
theorem test_tile_lines : (List.range 8).map (fun i => tileLine 64 16 1 i 3) = [67, 82, 97, 112, 135, 150, 165, 180] := by decide

/-- 11, ATOM.add of lanes 0 to 2 with 1, 2, 3 on a word that holds 10: it holds 16 once the word has executed. -/
theorem test_atom_lanes :
    let g : Group := { gOf { wp with exec := 7 } with v := [(6 * 64, 1), (6 * 64 + 1, 2), (6 * 64 + 2, 3), (10 * 64, 0x20000), (10 * 64 + 1, 0x20000), (10 * 64 + 2, 0x20000)] }
    leNat ((nextOf (exec (.atom 6 10 0 3 0) ((withG g).putBytes (hbmKey 0 0x20000) 0 [10]))).bytes (hbmKey 0 0x20000) 0 4) = 16 := by decide +kernel

end Sys2Proof.Tests
end

section
/-! LSUPD (04 R62): one equation of `Group.lossStep` per row of the table, the bits of %flags after STEPOVF is cleared, and the word as it is issued. -/

namespace Sys2Proof.Machine

open Sys2Proof.Claims

/-! ### STEPOVF among the bits of %flags -/

/-- The test of STEPOVF reads bit 6 of %flags (R59). -/
theorem and_fSTEPOVF_ne_zero_iff (x : BitVec 8) : x &&& fSTEPOVF ≠ 0 ↔ x.getLsbD 6 = true := by
  have hpow : fSTEPOVF = BitVec.twoPow 8 6 := rfl
  rw [hpow, BitVec.and_twoPow]
  cases x.getLsbD 6 <;> decide

/-- Clearing STEPOVF clears bit 6. -/
theorem getLsbD_clear_fSTEPOVF_six (x : BitVec 8) : (x &&& ~~~fSTEPOVF).getLsbD 6 = false := by
  simp [fSTEPOVF]

/-- Clearing STEPOVF keeps every other bit. -/
theorem getLsbD_clear_fSTEPOVF_of_ne (x : BitVec 8) {j : Nat} (hj : j < 8) (h6 : j ≠ 6) :
    (x &&& ~~~fSTEPOVF).getLsbD j = x.getLsbD j := by
  have hpow : fSTEPOVF = BitVec.twoPow 8 6 := rfl
  simp [hpow, hj, h6]

/-- Raising FLOOR sets bit 7. -/
theorem getLsbD_or_fFLOOR_seven (x : BitVec 8) : (x ||| fFLOOR).getLsbD 7 = true := by
  simp [fFLOOR]

/-- Raising FLOOR keeps every other bit. -/
theorem getLsbD_or_fFLOOR_of_ne (x : BitVec 8) {j : Nat} (hj : j < 8) (h7 : j ≠ 7) : (x ||| fFLOOR).getLsbD j = x.getLsbD j := by
  have hpow : fFLOOR = BitVec.twoPow 8 7 := rfl
  simp [hpow, hj, h7]

/-! ### The rows of the loss-scale table -/

section Rows

variable {g : Group}

/-- Row 1: an overflow above the minimum halves the scale. -/
theorem Group.lossStep_overflow_above (hovf : g.xflags.getLsbD 6 = true) (hmin : g.lsmin.toNat < g.lscale.toNat) :
    g.lossStep = ({ g with lscale := g.lscale - 1, count := 0, xflags := g.xflags &&& ~~~fSTEPOVF }, 0x9) := by
  simp only [Group.lossStep, and_fSTEPOVF_ne_zero_iff, if_pos hovf, if_pos hmin]

/-- Row 2: an overflow at the minimum keeps the scale and raises FLOOR. -/
theorem Group.lossStep_overflow_floor (hovf : g.xflags.getLsbD 6 = true) (hmin : ¬g.lsmin.toNat < g.lscale.toNat) :
    g.lossStep = ({ g with count := 0, xflags := (g.xflags ||| fFLOOR) &&& ~~~fSTEPOVF }, 0x3) := by
  simp only [Group.lossStep, and_fSTEPOVF_ne_zero_iff, if_pos hovf, if_neg hmin]

/-- Row 3: a clean step with RUN = 0 only counts, up to 0xFFFF. -/
theorem Group.lossStep_clean_run_zero (hovf : g.xflags.getLsbD 6 = false) (hrun : g.run = 0) :
    g.lossStep = ({ g with count := if g.count = 0xFFFF then g.count else g.count + 1, xflags := g.xflags &&& ~~~fSTEPOVF }, 0) := by
  simp only [Group.lossStep, and_fSTEPOVF_ne_zero_iff, hovf, Bool.false_eq_true, if_false, if_pos hrun]

/-- Row 4: a clean step short of RUN counts. -/
theorem Group.lossStep_clean_counts (hovf : g.xflags.getLsbD 6 = false) (hrun : g.run ≠ 0) (hcount : g.count.toNat + 1 < g.run.toNat) :
    g.lossStep = ({ g with count := g.count + 1, xflags := g.xflags &&& ~~~fSTEPOVF }, 0) := by
  simp only [Group.lossStep, and_fSTEPOVF_ne_zero_iff, hovf, Bool.false_eq_true, if_false, if_neg hrun, if_pos hcount]

/-- Row 5: the clean step that reaches RUN below the maximum doubles the scale. -/
theorem Group.lossStep_clean_grows (hovf : g.xflags.getLsbD 6 = false) (hrun : g.run ≠ 0) (hcount : ¬g.count.toNat + 1 < g.run.toNat)
    (hmax : g.lscale.toNat < g.lsmax.toNat) :
    g.lossStep = ({ g with lscale := g.lscale + 1, count := 0, xflags := g.xflags &&& ~~~fSTEPOVF }, 0x4) := by
  simp only [Group.lossStep, and_fSTEPOVF_ne_zero_iff, hovf, Bool.false_eq_true, if_false, if_neg hrun, if_neg hcount, if_pos hmax]

/-- Row 6: the clean step that reaches RUN at the maximum leaves COUNT at RUN. -/
theorem Group.lossStep_clean_ceiling (hovf : g.xflags.getLsbD 6 = false) (hrun : g.run ≠ 0) (hcount : ¬g.count.toNat + 1 < g.run.toNat)
    (hmax : ¬g.lscale.toNat < g.lsmax.toNat) :
    g.lossStep = ({ g with count := g.run, xflags := g.xflags &&& ~~~fSTEPOVF }, 0) := by
  simp only [Group.lossStep, and_fSTEPOVF_ne_zero_iff, hovf, Bool.false_eq_true, if_false, if_neg hrun, if_neg hcount, if_neg hmax]

end Rows

/-- In every row LSUPD changes %lscale, COUNT and %flags alone: of %flags, STEPOVF is cleared and FLOOR may be raised. -/
theorem Group.lossStep_frame (g : Group) :
    ∃ (scale : BitVec 8) (count : BitVec 16) (fl : BitVec 8) (w : Word),
      g.lossStep = ({ g with lscale := scale, count := count, xflags := fl &&& ~~~fSTEPOVF }, w) ∧ (fl = g.xflags ∨ fl = g.xflags ||| fFLOOR) := by
  cases hovf : g.xflags.getLsbD 6
  case true =>
    by_cases hmin : g.lsmin.toNat < g.lscale.toNat
    · exact ⟨_, _, _, _, lossStep_overflow_above hovf hmin, .inl rfl⟩
    · exact ⟨_, _, _, _, lossStep_overflow_floor hovf hmin, .inr rfl⟩
  case false =>
    by_cases hrun : g.run = 0
    · exact ⟨_, _, _, _, lossStep_clean_run_zero hovf hrun, .inl rfl⟩
    by_cases hcount : g.count.toNat + 1 < g.run.toNat
    · exact ⟨_, _, _, _, lossStep_clean_counts hovf hrun hcount, .inl rfl⟩
    by_cases hmax : g.lscale.toNat < g.lsmax.toNat
    · exact ⟨_, _, _, _, lossStep_clean_grows hovf hrun hcount hmax, .inl rfl⟩
    · exact ⟨_, _, _, _, lossStep_clean_ceiling hovf hrun hcount hmax, .inl rfl⟩

/-- The group that LSUPD leaves, in its three changed fields. -/
theorem Group.lossStep_fst (g : Group) :
    g.lossStep.1 = { g with lscale := g.lossStep.1.lscale, count := g.lossStep.1.count, xflags := g.lossStep.1.xflags } := by
  obtain ⟨_, _, _, _, h, -⟩ := g.lossStep_frame
  rw [h]

/-- STEPOVF is clear after every row. -/
theorem Group.lossStep_stepovf (g : Group) : g.lossStep.1.xflags.getLsbD 6 = false := by
  obtain ⟨_, _, fl, _, h, -⟩ := g.lossStep_frame
  rw [h]
  exact getLsbD_clear_fSTEPOVF_six fl

/-- The flags below STEPOVF stand in every row. -/
theorem Group.lossStep_lowFlags (g : Group) {j : Nat} (hj : j < 6) : g.lossStep.1.xflags.getLsbD j = g.xflags.getLsbD j := by
  obtain ⟨_, _, fl, _, h, hfl⟩ := g.lossStep_frame
  rw [h, getLsbD_clear_fSTEPOVF_of_ne fl (by omega) (by omega)]
  obtain rfl | rfl := hfl
  · rfl
  · exact getLsbD_or_fFLOOR_of_ne _ (by omega) (by omega)

/-! ### The counter of clean steps -/

/-- COUNT stops at 0xFFFF (R62). -/
theorem count_saturates (c : BitVec 16) : (if c = 0xFFFF then c else c + 1).toNat = min (c.toNat + 1) 0xFFFF := by
  by_cases h : c = 0xFFFF
  · simp [h]
  · rw [if_neg h]
    bv_omega

/-! ### The word -/

/-- Nothing but engine operations outstanding is what LSUPD waits for (17 R338). -/
theorem State.holdDone_quiet {s : State} {k : Nat} {g : Group} (h : ∀ o ∈ g.pend, ∃ n, o.kind = .engine n) : s.holdDone k g .quiet = true := by
  refine List.all_eq_true.2 fun o ho => ?_
  obtain ⟨n, hn⟩ := h o ho
  simp [hn]

/-- LSUPD that waits for nothing completes with the group's loss step and the step word in its register. -/
theorem exec_lsupd {s : State} {k slot : Nat} {g : Group} {p : Split} {d : BitVec 7} (h : Poised s (.lsupd d) k slot g p)
    (hr : scalarRuns g p) (hq : ∀ o ∈ g.pend, ∃ n, o.kind = .engine n) :
    exec (.lsupd d) s = .next (after s k slot (g.lossStep.1.setS d.toNat g.lossStep.2)) := by
  have hrun : exec (.lsupd d) s = execLsupd d s := rfl
  have hquiet : s.holdDone k g .quiet = true := State.holdDone_quiet hq
  rw [hrun, execLsupd, issueWord_plain (fm := .scalar) h rfl rfl rfl (takesEffect_once hr)]
  simp only [wordEnv, envOf, hquiet, if_true]
  rfl

/-- Settles O24: the equation of each row, carried through the word. -/
theorem lossScaleUpdate : Obligations.LossScaleUpdate := by
  unfold Obligations.LossScaleUpdate
  intro s k slot g p d h hr hq
  have hfloor (fl : BitVec 8) : (fl &&& ~~~fSTEPOVF).getLsbD 7 = fl.getLsbD 7 :=
    getLsbD_clear_fSTEPOVF_of_ne fl (by decide) (by decide)
  refine ⟨g.lossStep.2, g.lossStep.1.lscale, g.lossStep.1.count, g.lossStep.1.xflags, ?_,
    fun _ => g.lossStep_lowFlags, g.lossStep_stepovf, ?halves, ?floor, ?runZero, ?counts, ?grows, ?ceiling⟩
  · rw [← Group.lossStep_fst]
    exact exec_lsupd h hr hq
  case halves =>
    intro hovf hmin
    rw [Group.lossStep_overflow_above hovf hmin]
    exact ⟨by bv_omega, rfl, hfloor _, rfl⟩
  case floor =>
    intro hovf hmin
    rw [Group.lossStep_overflow_floor hovf (by simp [hmin])]
    exact ⟨rfl, rfl, (hfloor _).trans (getLsbD_or_fFLOOR_seven _), rfl⟩
  case runZero =>
    intro hovf hrun
    rw [Group.lossStep_clean_run_zero hovf hrun]
    exact ⟨rfl, count_saturates _, hfloor _, rfl⟩
  case counts =>
    intro hovf hrun hcount
    rw [Group.lossStep_clean_counts hovf (by bv_omega) hcount]
    exact ⟨rfl, by bv_omega, hfloor _, rfl⟩
  case grows =>
    intro hovf hrun hcount hmax
    rw [Group.lossStep_clean_grows hovf (by bv_omega) (by omega) hmax]
    exact ⟨by bv_omega, rfl, hfloor _, rfl⟩
  case ceiling =>
    intro hovf hrun hcount hmax
    rw [Group.lossStep_clean_ceiling hovf (by bv_omega) (by omega) (by simp [hmax])]
    exact ⟨rfl, rfl, hfloor _, rfl⟩

end Sys2Proof.Machine
end

section
/-! Integer arithmetic (06 R101 to R103): the numbers of R102 in the terms of the claims, results written lane by lane as elements or pairs, and the forms as one fold over the lanes. -/

namespace Sys2Proof.Machine

open Sys2Proof.Claims

/-! ### Values, ranges, narrowing -/

/-- Two's complement is the signed reading of a number below 2^n. -/
theorem sext_eq_asInt {n x : Nat} (hn : 0 < n) (hx : x < 2 ^ n) : sext x n = asInt true n x := by
  have hmod : x % 2 ^ n = x := Nat.mod_eq_of_lt hx
  have hcast : (x : Int) % 2 ^ n = x := by exact_mod_cast hmod
  have hhalf : x < 2 ^ (n - 1) ↔ ¬2 ^ n ≤ 2 * x := by
    rw [← Nat.two_pow_pred_mul_two hn]
    omega
  simp only [sext, asInt, hmod, hcast, hhalf, Bool.true_and, decide_eq_true_eq, ite_not, Nat.cast_pow, Nat.cast_ofNat]

theorem intMin_eq_leastInt (b : Bool) (n : Nat) : intMin b n = leastInt b n := by simp [intMin, leastInt]

theorem intMax_eq_greatestInt (b : Bool) (n : Nat) : intMax b n = greatestInt b n := by simp [intMax, greatestInt]

theorem leastInt_le_greatestInt (b : Bool) (n : Nat) : leastInt b n ≤ greatestInt b n := by
  have hhalf : (0 : Int) < 2 ^ (n - 1) := by positivity
  have hfull : (0 : Int) < 2 ^ n := by positivity
  cases b
  · simp only [leastInt, greatestInt, Bool.false_eq_true, if_false]
    omega
  · simp only [leastInt, greatestInt, if_true]
    omega

/-- Clamping delivers the nearest integer of the type. -/
theorem clampInt_fst (b : Bool) (n : Nat) (z : Int) : (clampInt b n z).1 = max (leastInt b n) (min (greatestInt b n) z) := by
  have hrange := leastInt_le_greatestInt b n
  rw [clampInt, intMin_eq_leastInt, intMax_eq_greatestInt]
  split_ifs <;> simp only <;> omega

/-- Clamping reports the integers outside the type. -/
theorem clampInt_snd (b : Bool) (n : Nat) (z : Int) : (clampInt b n z).2 = decide (z < leastInt b n ∨ greatestInt b n < z) := by
  rw [clampInt, intMin_eq_leastInt, intMax_eq_greatestInt]
  split_ifs <;> simp [*]

theorem wrap_lt (n : Nat) (z : Int) : wrap n z < 2 ^ n := by
  have hpos : (0 : Int) < ((2 ^ n : Nat) : Int) := by positivity
  have hlt := Int.emod_lt_of_pos z hpos
  rw [wrap]
  omega

theorem wrap_cast (n : Nat) (z : Int) : (wrap n z : Int) = z % 2 ^ n := by
  rw [wrap, Int.toNat_of_nonneg (Int.emod_nonneg _ (by positivity))]
  push_cast
  rfl

/-- An integer of the type is read back from its low n bits. -/
theorem asInt_wrap {b : Bool} {n : Nat} {z : Int} (hn : 0 < n) (hlo : leastInt b n ≤ z) (hhi : z ≤ greatestInt b n) :
    asInt b n (wrap n z) = z := by
  have hw := wrap_cast n z
  have hhalf : (2 : Int) ^ n = 2 * 2 ^ (n - 1) := by rw [← pow_succ', Nat.sub_add_cancel hn]
  have hbig : 2 ^ n ≤ 2 * wrap n z ↔ (2 : Int) ^ (n - 1) ≤ z % 2 ^ n := by
    rw [← hw]
    zify
    omega
  cases b
  · simp only [leastInt, greatestInt, Bool.false_eq_true, if_false] at hlo hhi
    rw [asInt, hw, Int.emod_eq_of_lt hlo (by omega)]
    rfl
  · simp only [leastInt, greatestInt, if_true] at hlo hhi
    simp only [asInt, Bool.true_and, decide_eq_true_eq, hbig, hw]
    rcases Int.lt_or_le z 0 with hneg | hnonneg
    · have hmod : z % 2 ^ n = z + 2 ^ n := by rw [← Int.add_emod_right, Int.emod_eq_of_lt (by omega) (by omega)]
      rw [hmod, if_pos (by omega), Int.add_sub_cancel]
    · have hmod : z % 2 ^ n = z := Int.emod_eq_of_lt hnonneg (by omega)
      rw [hmod, if_neg (by omega)]

/-! ### Integer types -/

theorem intBits_pos (t : BitVec 2) : 0 < intBits t := by
  unfold intBits
  split_ifs <;> decide

theorem intBits_eq (t : BitVec 2) : (if decide (2 ≤ t.toNat) = true then 64 else 32) = intBits t := by
  revert t
  decide

/-- `value(e, T)` of R102, of a number that fits the type. -/
theorem intValue_eq_asInt {t : BitVec 2} {x : Nat} (hx : x < 2 ^ intBits t) : intValue t x = asInt (intSigned t) (intBits t) x := by
  unfold intValue
  cases intSigned t
  · simp [asInt, Nat.mod_eq_of_lt hx]
  · rw [if_pos rfl, sext_eq_asInt (intBits_pos t) hx]

theorem intResult_lt (t : BitVec 2) (sat : Bool) (z : Int) : (intResult t sat z).1 < 2 ^ intBits t := by
  cases sat <;> exact wrap_lt _ _

/-- With saturation the result, read in its type, is t clamped into the type's range (R102). -/
theorem intResult_clamps (t : BitVec 2) (z : Int) :
    asInt (intSigned t) (intBits t) (intResult t true z).1 =
      max (leastInt (intSigned t) (intBits t)) (min (greatestInt (intSigned t) (intBits t)) z) := by
  have hrange := leastInt_le_greatestInt (intSigned t) (intBits t)
  rw [← clampInt_fst]
  refine asInt_wrap (intBits_pos t) ?_ ?_ <;> rw [clampInt_fst] <;> omega

/-- The result under SAT and without it, where t wraps (R102). -/
theorem intResult_spec (t : BitVec 2) (sat : Bool) (z : Int) :
    if sat then
      asInt (intSigned t) (intBits t) (intResult t sat z).1 = max (leastInt (intSigned t) (intBits t)) (min (greatestInt (intSigned t) (intBits t)) z)
    else ((intResult t sat z).1 : Int) = z % 2 ^ intBits t := by
  cases sat
  · exact wrap_cast _ _
  · exact intResult_clamps t z

/-- SAT is raised by a result that saturation changes (R102). -/
theorem intResult_flag (t : BitVec 2) (sat : Bool) (z : Int) :
    (intResult t sat z).2 =
      flagIf (sat && decide (z < leastInt (intSigned t) (intBits t) ∨ greatestInt (intSigned t) (intBits t) < z)) fSAT := by
  cases sat
  · rfl
  · rw [Bool.true_and, ← clampInt_snd]
    rfl

/-! ### Elements and pairs -/

theorem laneOf_lt (v : SMap Word) (wide : Bool) (r l : Nat) : laneOf v wide r l < 2 ^ (if wide = true then 64 else 32) := by
  have hlow := (smGet 0 v (r * 64 + l)).isLt
  have hhigh := (smGet 0 v ((r + 1) * 64 + l)).isLt
  cases wide
  · simpa [laneOf] using hlow
  · simp only [laneOf, if_true]
    omega

/-- What the model reads of a lane is the claims' element or pair. -/
theorem Group.elem_eq_laneOf (g : Group) (wide : Bool) (r l : Nat) : g.elem wide r l = laneOf g.v wide r l := by
  cases wide
  · simp [Group.elem, laneOf, Group.vreg]
  · simp only [Group.elem, Group.vpair, Group.vreg, pairOf, laneOf, if_true, BitVec.toNat_append]
    rw [← Nat.shiftLeft_add_eq_or_of_lt (BitVec.isLt _), Nat.shiftLeft_eq]
    omega

/-- A write of an element or a pair is read back. -/
theorem laneOf_setElem_same (g : Group) {wide : Bool} {r l x : Nat} (hx : x < 2 ^ (if wide = true then 64 else 32)) :
    laneOf (g.setElem wide r l x).v wide r l = x := by
  cases wide
  · simp only [Bool.false_eq_true, if_false] at hx
    simpa [laneOf, Group.setElem, smGet_smPut_same] using hx
  · simp only [if_true] at hx
    have hne : r * 64 + l ≠ (r + 1) * 64 + l := by omega
    simp only [laneOf, Group.setElem, Group.setVPair, Group.setV_v, if_true, smGet_smPut_same, smGet_smPut_other _ _ _ hne,
      lo32, hi32, BitVec.toNat_ofNat]
    omega

/-- A write in one lane leaves the others. -/
theorem laneOf_setElem_other (g : Group) (wide : Bool) {r l l' : Nat} (x : Nat) (hl : l < 64) (hl' : l' < 64) (hne : l' ≠ l) :
    laneOf (g.setElem wide r l x).v wide r l' = laneOf g.v wide r l' := by
  have hkey (q q' : Nat) : q' * 64 + l' ≠ q * 64 + l := by omega
  cases wide
  · simp [laneOf, Group.setElem, smGet_smPut_other _ _ _ (hkey _ _)]
  · simp [laneOf, Group.setElem, Group.setVPair, smGet_smPut_other _ _ _ (hkey _ _)]

/-- A write of an element or a pair changes the vector elements alone. -/
theorem Group.setElem_eq (g : Group) (wide : Bool) (r l x : Nat) : g.setElem wide r l x = { g with v := (g.setElem wide r l x).v } := by
  cases wide <;> rfl

/-! ### One result for each lane -/

theorem flagIf_or (a b : Bool) (f : BitVec 8) : flagIf a f ||| flagIf b f = flagIf (a || b) f := by
  cases a <;> cases b <;> simp [flagIf]

/-- Writing a result in each of some lanes, with a flag where c holds: those lanes hold their results, the others stand, and the flag is
raised when c holds in one of them. -/
theorem foldl_setElem_raise (wide : Bool) (d : Nat) (f : Nat → Nat) (c : Nat → Bool) (fl : BitVec 8)
    (hf : ∀ l, f l < 2 ^ (if wide = true then 64 else 32)) (ls : List Nat) (hls : ∀ l ∈ ls, l < 64) (g : Group) :
    ∃ v, ls.foldl (fun h l => (h.setElem wide d l (f l)).raise (flagIf (c l) fl)) g = vectorResult g v (flagIf (ls.any c) fl) ∧
      ∀ l, l < 64 → laneOf v wide d l = if l ∈ ls then f l else laneOf g.v wide d l := by
  induction ls generalizing g with
  | nil => exact ⟨g.v, by simp [vectorResult, flagIf], by simp⟩
  | cons a r ih =>
    have ha : a < 64 := hls a (List.mem_cons_self ..)
    obtain ⟨v, hfold, hlane⟩ := ih (fun l hl => hls l (List.mem_cons_of_mem _ hl)) ((g.setElem wide d a (f a)).raise (flagIf (c a) fl))
    refine ⟨v, ?_, fun l hl => ?_⟩
    · rw [List.foldl_cons, hfold, List.any_cons, ← flagIf_or, Group.setElem_eq]
      simp [vectorResult, Group.raise, BitVec.or_assoc]
    · rw [hlane l hl, Group.raise_v]
      by_cases hr : l ∈ r
      · simp [hr]
      by_cases hla : l = a
      · subst hla
        simp [hr, laneOf_setElem_same g (hf l)]
      · simp [hr, hla, laneOf_setElem_other g wide _ ha hl hla]

/-! ### The forms of R101 and R103 -/

/-- The form of a word's fields and type, with the exact t of its row. -/
def intFormOf (d a b : BitVec 7) (t : BitVec 2) (clamps : Bool) (row : Int → Int → Int → Int) : IntForm :=
  ⟨d.toNat, a.toNat, b.toNat, intSigned t, decide (2 ≤ t.toNat), clamps, row⟩

/-- R102 changes t in a lane: saturation is on, and t lies outside the range of the form's type. -/
def saturates (f : IntForm) (sat : Bool) (g : Group) (l : Nat) : Bool :=
  let n := if f.wide then 64 else 32
  sat && decide (f.value g l < leastInt f.signed n ∨ greatestInt f.signed n < f.value g l)

section Lanes

variable (d a b : BitVec 7) (t : BitVec 2) (clamps : Bool) (row : Int → Int → Int → Int)

/-- The claims' reading of fn as a type is the model's. -/
theorem intFormOf_type (c : Bool) : (⟨d.toNat, a.toNat, b.toNat, t = 0 || t = 2, t = 2 || t = 3, c, row⟩ : IntForm) = intFormOf d a b t c row := by
  have hsigned : (decide (t = 0) || decide (t = 2)) = intSigned t := by revert t; decide
  have hwide : (decide (t = 2) || decide (t = 3)) = decide (2 ≤ t.toNat) := by revert t; decide
  rw [hsigned, hwide, intFormOf]

/-- The unary forms are signed, of 32 or 64 bits. -/
theorem intFormOf_unary (u : BitVec 1) : (⟨d.toNat, a.toNat, a.toNat, true, u = 1, true, row⟩ : IntForm) =
    intFormOf d a a (if u = 0 then 0 else 2) true row := by
  obtain rfl | rfl : u = 0 ∨ u = 1 := by revert u; decide
  · rfl
  · rfl

/-- The sources of R102, read by the model, are those of the form's exact value. -/
theorem intFormOf_value (g : Group) (l : Nat) :
    (intFormOf d a b t clamps row).value g l =
      row (intValue t (g.elem (2 ≤ t.toNat) a.toNat l)) (intValue t (g.elem (2 ≤ t.toNat) b.toNat l))
        (intValue t (g.elem (2 ≤ t.toNat) d.toNat l)) := by
  have hsource (r : Nat) : intValue t (g.elem (2 ≤ t.toNat) r l) = asInt (intSigned t) (intBits t) (laneOf g.v (2 ≤ t.toNat) r l) := by
    rw [Group.elem_eq_laneOf, intValue_eq_asInt]
    rw [← intBits_eq]
    exact laneOf_lt ..
  rw [hsource, hsource, hsource, ← intBits_eq]
  rfl

/-- A result raises SAT where saturation changes t. -/
theorem intResult_flag_intFormOf (sat : Bool) (g : Group) (l : Nat) :
    (intResult t sat ((intFormOf d a b t clamps row).value g l)).2 = flagIf (saturates (intFormOf d a b t clamps row) sat g l) fSAT := by
  rw [intResult_flag, ← intBits_eq]
  rfl

/-- R102 over the active lanes: each holds the result of its exact value, and SAT is raised when saturation changed one. -/
theorem intLanes_results (e : Env) :
    ∃ v, intLanes d a b t clamps row e =
        vectorResult e.g v (flagIf (e.lanes.any (saturates (intFormOf d a b t clamps row) (clamps && e.sat) e.g)) fSAT) ∧
      ∀ l ∈ e.lanes, laneOf v (2 ≤ t.toNat) d.toNat l = (intResult t (clamps && e.sat) ((intFormOf d a b t clamps row).value e.g l)).1 := by
  obtain ⟨v, hfold, hlane⟩ := foldl_setElem_raise (2 ≤ t.toNat) d.toNat
    (fun l => (intResult t (clamps && e.sat) ((intFormOf d a b t clamps row).value e.g l)).1)
    (saturates (intFormOf d a b t clamps row) (clamps && e.sat) e.g) fSAT
    (fun l => (intResult_lt ..).trans_eq (congrArg _ (intBits_eq t).symm)) e.lanes (fun _ => lanes_lt) e.g
  refine ⟨v, ?_, fun l hl => by rw [hlane l (lanes_lt hl), if_pos hl]⟩
  rw [← hfold]
  simp only [intLanes, ← intFormOf_value d a b t clamps row, intResult_flag_intFormOf]

end Lanes

/-- IMULH's division by 2^N. -/
theorem fdiv_intBits (t : BitVec 2) (z : Int) : z.fdiv ((2 ^ intBits t : Nat) : Int) = z / (if t = 2 ∨ t = 3 then 2 ^ 64 else 2 ^ 32) := by
  have hpow : ((2 ^ intBits t : Nat) : Int) = if t = 2 ∨ t = 3 then 2 ^ 64 else 2 ^ 32 := by revert t; decide
  rw [Int.fdiv_eq_ediv_of_nonneg _ (by positivity), hpow]

/-- Each form of R101 and R103 is the fold of R102 with the exact t of its row. -/
theorem exec_intForm {i : Instr} {f : IntForm} (h : intForm i = some f) :
    ∃ d a b t clamps row, f = intFormOf d a b t clamps row ∧ Instr.ignoresMod i = false ∧
      ∀ s, exec i s = groupWord i .lanes (intLanes d a b t clamps row) s := by
  unfold intForm at h
  split at h <;> cases h
  case h_1 d a b t | h_2 d a b t | h_3 d a b t | h_4 d a b t => exact ⟨d, a, b, t, true, _, intFormOf_type .., rfl, fun _ => rfl⟩
  case h_5 d a b t =>
    refine ⟨d, a, b, t, false, _, intFormOf_type .., rfl, fun s => ?_⟩
    simp only [← fdiv_intBits]
    rfl
  case h_6 d a b t =>
    refine ⟨d, a, b, t, false, _, intFormOf_type .., rfl, fun s => ?_⟩
    have hmin (x y : Int) : min x y = if y < x then y else x := by rw [min_comm, min_def_lt]
    simp only [hmin]
    rfl
  case h_7 d a b t =>
    refine ⟨d, a, b, t, false, _, intFormOf_type .., rfl, fun s => ?_⟩
    have hmax (x y : Int) : max x y = if x < y then y else x := max_def_lt x y
    simp only [hmax]
    rfl
  case h_8 d a t =>
    refine ⟨d, a, a, _, true, _, intFormOf_unary .., rfl, fun s => ?_⟩
    have habs (x : Int) : |x| = if x < 0 then -x else x := by
      split_ifs with hx
      · exact abs_of_neg hx
      · exact abs_of_nonneg (not_lt.1 hx)
    simp only [habs]
    rfl
  case h_9 d a t => exact ⟨d, a, a, _, true, _, intFormOf_unary .., rfl, fun _ => rfl⟩

/-- The flag of a word of R102: saturation is on, and some active lane's t lies outside the range of the type. -/
theorem flagIf_any_saturates (f : IntForm) (sat : Bool) (fl : BitVec 8) (k slot : Nat) (g : Group) (p : Split) :
    flagIf ((wordEnv k slot g g p).lanes.any (saturates f sat g)) fl =
      if sat = true ∧ ∃ l, l < g.width ∧ l < 64 ∧ hasLane (activeLanes g p) l = true ∧
          (f.value g l < leastInt f.signed (if f.wide then 64 else 32) ∨ greatestInt f.signed (if f.wide then 64 else 32) < f.value g l)
        then fl else 0 := by
  refine if_congr ?_ rfl rfl
  simp only [List.any_eq_true, saturates, Bool.and_eq_true, decide_eq_true_eq, mem_wordLanes]
  constructor
  · rintro ⟨l, ⟨hw, hl⟩, hsat, hout⟩
    exact ⟨hsat, l, hw, hasLane_lt hl, hl, hout⟩
  · rintro ⟨hsat, l, hw, -, hl, hout⟩
    exact ⟨l, ⟨hw, hl⟩, hsat, hout⟩

/-- Settles O14: R102's fold over the active lanes, whose result in each lane wraps or clamps. -/
theorem integerResults : Obligations.IntegerResults := by
  unfold Obligations.IntegerResults
  intro s i k slot g p f h hf ha
  obtain ⟨d, a, b, t, clamps, row, rfl, hm, hexec⟩ := exec_intForm hf
  obtain ⟨v, hfold, hlane⟩ := intLanes_results d a b t clamps row (wordEnv k slot g g p)
  have hword := groupWord_plain (fm := .lanes) h hm rfl rfl (takesEffect_lane ha) (f := intLanes d a b t clamps row)
  rw [← hexec, hfold] at hword
  refine ⟨v, _, hword, fun l hw _ hl => ?_, flagIf_any_saturates ..⟩
  have hres := intResult_spec t (clamps && satHint p) ((intFormOf d a b t clamps row).value g l)
  have hv : laneOf v (2 ≤ t.toNat) d.toNat l = (intResult t (clamps && satHint p) ((intFormOf d a b t clamps row).value g l)).1 :=
    hlane l (mem_wordLanes.2 ⟨hw, hl⟩)
  rw [← hv, ← intBits_eq] at hres
  exact hres

end Sys2Proof.Machine
end

section
/-! Reads of the completion flags (17 R341): the bits of a word summed from powers of two, the words as they are issued, and the codes that no FLRD has. -/

namespace Sys2Proof.Machine

open Sys2Proof.Claims

/-! ### A word of one bit for each flag -/

/-- The sum of the powers 2^k, k below n, at which c fails: the fold of FLRD over the flags. -/
def sumUnless (c : Nat → Bool) (n : Nat) : Nat := (List.range n).foldl (fun a k => if c k then a else a + 2 ^ k) 0

theorem sumUnless_succ (c : Nat → Bool) (n : Nat) : sumUnless c (n + 1) = if c n then sumUnless c n else sumUnless c n + 2 ^ n := by
  simp only [sumUnless, List.range_succ, List.foldl_append, List.foldl_cons, List.foldl_nil]

theorem sumUnless_lt (c : Nat → Bool) (n : Nat) : sumUnless c n < 2 ^ n := by
  induction n with
  | zero => simp [sumUnless]
  | succ n ih =>
    rw [sumUnless_succ, pow_succ]
    split <;> omega

/-- Bit j of the sum tells that c fails at j: the power added for n lies above every bit of the sum below n. -/
theorem testBit_sumUnless (c : Nat → Bool) (n j : Nat) : (sumUnless c n).testBit j = (decide (j < n) && !c j) := by
  induction n with
  | zero => simp [sumUnless]
  | succ n ih =>
    have hlow := sumUnless_lt c n
    rw [sumUnless_succ]
    split
    case isTrue hc =>
      rw [ih]
      obtain rfl | hj := eq_or_ne j n
      · simp [hc]
      · simp [show j < n + 1 ↔ j < n by omega]
    case isFalse hc =>
      rw [Nat.add_comm]
      obtain hj | rfl | hj := lt_trichotomy j n
      · rw [Nat.testBit_two_pow_add_gt hj, ih]
        simp [hj, Nat.lt_succ_of_lt hj]
      · rw [Nat.testBit_two_pow_add_eq, ih]
        simp [hc]
      · have hsum : 2 ^ n + sumUnless c n < 2 ^ j := by
          have hpow : 2 ^ (n + 1) ≤ 2 ^ j := Nat.pow_le_pow_right two_pos hj
          omega
        rw [Nat.testBit_lt_two_pow hsum]
        simp [show ¬j < n + 1 by omega]

/-- The word of R341: bit k tells that flag k counts something, for the twelve flags. -/
def Group.flagWord (g : Group) : Word := BitVec.ofNat 32 (sumUnless g.flagClear 12)

theorem Group.getLsbD_flagWord (g : Group) {j : Nat} (hj : j < 32) :
    g.flagWord.getLsbD j = (decide (j < 12) && decide (g.flagCount j ≠ 0)) := by
  rw [flagWord, BitVec.getLsbD_ofNat, testBit_sumUnless]
  simp [hj, Group.flagClear]

/-! ### The words -/

/-- FLRD completes with the word of the flags in its register. -/
theorem exec_flrd {s : State} {k slot : Nat} {g : Group} {p : Split} {d : BitVec 7} (h : Poised s (.flrd d) k slot g p) (hr : scalarRuns g p) :
    exec (.flrd d) s = .next (after s k slot (g.setS d.toNat g.flagWord)) := by
  have hrun : exec (.flrd d) s = execFlrd d s := rfl
  rw [hrun, execFlrd, groupWord_plain (fm := .scalar) h rfl rfl rfl (takesEffect_once hr)]
  rfl

/-- FLRD.cnt completes with the flag's count in its register. -/
theorem exec_flrdCnt {s : State} {k slot : Nat} {g : Group} {p : Split} {d : BitVec 7} {n : BitVec 4}
    (h : Poised s (.flrdCnt d n) k slot g p) (hr : scalarRuns g p) :
    exec (.flrdCnt d n) s = .next (after s k slot (g.setS d.toNat (BitVec.ofNat 32 (g.flagCount n.toNat)))) := by
  have hrun : exec (.flrdCnt d n) s = execFlrdCnt d n s := rfl
  rw [hrun, execFlrdCnt, groupWord_plain (fm := .scalar) h rfl rfl rfl (takesEffect_once hr)]
  rfl

/-! ### Codes that are reserved -/

/-- A flag number from 12 is a reserved code of FLRD.cnt, which no earlier step of R74 stops outside a glint and without an IMM hint. -/
theorem decodeTrap_flrdCnt {g : Group} {h : Hints} {n : BitVec 4} (d : BitVec 7) (hgl : g.glint = none) (himm : h.imm = none) (hn : 12 ≤ n.toNat) :
    decodeTrap (.flrdCnt d n) g h = some 0x04 := by
  have hcode : (Instr.flrdCnt d n).reservedCode = some 0x04 := if_pos hn
  simp [decodeTrap, typeReserved, unassignedFor, hgl, himm, hcode]

/-- An FLRD word whose low ten bits are not all zero sets a must-be-zero bit (05 R74). -/
theorem decodeInstr_flrd_reserved {w : Nat} (hmaj : w / 2 ^ 23 % 64 = 0x3C) (hfn : w / 2 ^ 18 % 32 = 21) (hcnt : w / 2 ^ 10 % 2 = 0)
    (hlow : w % 1024 ≠ 0) : decodeInstr w = .error (.reserved (.flrd (fld w 11 7))) := by
  rw [decodeInstr, hmaj]
  simp only [decodeMajor, hfn]
  rw [if_pos hcnt, mbz, if_neg hlow]

/-- FLRD with a k that is not zero is no instruction. -/
theorem decodeWord_flrd_reserved (d : BitVec 7) {n : BitVec 4} (hn : n ≠ 0) :
    decodeWord (BitVec.ofNat 32 (0x1E540000 + d.toNat * 2 ^ 11 + n.toNat * 2 ^ 6)) = .error (.reserved (.flrd d)) := by
  have hd := d.isLt
  have hk := n.isLt
  have hpos : 0 < n.toNat := by bv_omega
  have hw : (BitVec.ofNat 32 (0x1E540000 + d.toNat * 2 ^ 11 + n.toNat * 2 ^ 6)).toNat = 0x1E540000 + d.toNat * 2 ^ 11 + n.toNat * 2 ^ 6 := by
    rw [BitVec.toNat_ofNat, Nat.mod_eq_of_lt (by omega)]
  have hfld : fld (0x1E540000 + d.toNat * 2 ^ 11 + n.toNat * 2 ^ 6) 11 7 = d := by
    apply BitVec.eq_of_toNat_eq
    rw [fld, BitVec.toNat_ofNat]
    omega
  rw [decodeWord, hw, if_neg (by omega), decodeInstr_flrd_reserved (by omega) (by omega) (by omega) (by omega), hfld]

/-- Settles O45: the sum of R341 read bit by bit, the count as it stands, and the two reserved codes. -/
theorem flagReads : Obligations.FlagReads := by
  unfold Obligations.FlagReads
  refine ⟨fun s k slot g p d hr h => ⟨g.flagWord, exec_flrd h hr, fun _ => g.getLsbD_flagWord⟩,
    fun s k slot g p d n hr h => exec_flrdCnt h hr, fun s k slot g p d n hf hg hs hgl himm hn => ?_,
    fun d n => decodeWord_flrd_reserved d⟩
  exact issueWord_trap hf hg hs (decodeTrap_flrdCnt d hgl himm hn)

end Sys2Proof.Machine
end

section
/-! ALWR (20 R377): a pair of scalar registers written and read back, the allowance word as a number, and the word as it is issued. -/

namespace Sys2Proof.Machine

open Sys2Proof.Claims

/-! ### A pair of scalar registers -/

/-- A pair that has been written reads as the value written (02 R22). -/
theorem Group.pairNat_setSPair (g : Group) (d : Nat) (x : DWord) : pairNat (g.setSPair d x).s d = x.toNat := by
  have hodd : smGet 0 (g.setSPair d x).s (d + 1) = hi32 x := smGet_smPut_same ..
  have heven : smGet 0 (g.setSPair d x).s d = lo32 x := (smGet_smPut_other _ _ _ (by omega)).trans (smGet_smPut_same ..)
  have hx := x.isLt
  rw [pairNat, heven, hodd, lo32, hi32, BitVec.toNat_ofNat, BitVec.toNat_ofNat]
  omega

/-- A write of a pair leaves every other scalar register as it was. -/
theorem Group.scalarFrame_setSPair (g : Group) (d : Nat) (x : DWord) : scalarFrame g (g.setSPair d x).s d 2 := by
  intro r hr
  exact (smGet_smPut_other _ _ _ (by omega)).trans (smGet_smPut_other _ _ _ (by omega))

/-- A write of a pair changes the scalar registers alone. -/
theorem Group.setSPair_eq_scalarResult (g : Group) (d : Nat) (x : DWord) : g.setSPair d x = scalarResult g (g.setSPair d x).s 0 := by
  have hflags : g.xflags ||| 0 = g.xflags := BitVec.or_zero
  rw [scalarResult, hflags]
  rfl

/-! ### The allowance word -/

/-- CAP, LOW and VALUE of sixteen bits each fit in the pair: nothing of the register is lost (19 R359). -/
theorem Allowance.toNat_word (a : Allowance) : a.word.toNat = a.cap.toNat * 2 ^ 32 + a.low.toNat * 2 ^ 16 + a.value.toNat := by
  have hcap := a.cap.isLt
  have hlow := a.low.isLt
  have hvalue := a.value.isLt
  rw [word, BitVec.toNat_ofNat]
  exact Nat.mod_eq_of_lt (by omega)

/-! ### The word -/

section Word

variable {s : State} {k slot : Nat} {g : Group} {p : Split} {d a : BitVec 7} (h : Poised s (.alwr d a) k slot g p) (hr : scalarRuns g p)
include h hr

/-- ALWR is performed as a plain word: it waits for nothing, and its class alone tells its read from its trap. -/
theorem exec_alwr : exec (.alwr d a) s = .next (s.finish (wordEnv k slot g g p)
    (if 64 ≤ (g.sreg a.toNat).toNat then .trap (trapOf 0xA2)
      else .next (s.putGroup k (g.setSPair d.toNat (s.allowance (k / 64) (g.sreg a.toNat).toNat).word)))) := by
  have hrun : exec (.alwr d a) s = execAlwr d a s := rfl
  rw [hrun, execAlwr, issueWord_plain (fm := .scalar) h rfl rfl rfl (takesEffect_once hr)]
  rfl

/-- A class below 64: the core's allowance word of that class stands in the pair. -/
theorem exec_alwr_reads (hcls : (g.sreg a.toNat).toNat < 64) :
    exec (.alwr d a) s = .next (after s k slot (g.setSPair d.toNat (s.allowance (k / 64) (g.sreg a.toNat).toNat).word)) := by
  rw [exec_alwr h hr, if_neg (Nat.not_le.2 hcls)]
  rfl

/-- A class from 64 has no allowance register to read: PEER_RANGE. -/
theorem exec_alwr_peerRange (hcls : 64 ≤ (g.sreg a.toNat).toNat) :
    exec (.alwr d a) s = .next (s.wordTrap k slot p.pc (activeLanes g p) (trapOf 0xA2)) := by
  rw [exec_alwr h hr, if_pos hcls]
  rfl

end Word

/-- Settles O51: the pair as the word's write leaves it, and the trap of a class that has no register. -/
theorem allowanceReads : Obligations.AllowanceReads := by
  unfold Obligations.AllowanceReads
  intro s k slot g p d a h hr
  refine ⟨fun hcls => ?_, exec_alwr_peerRange h hr⟩
  refine ⟨_, ?_, g.scalarFrame_setSPair _ _, (g.pairNat_setSPair _ _).trans (Allowance.toNat_word _)⟩
  rw [exec_alwr_reads h hr hcls, ← Group.setSPair_eq_scalarResult]

end Sys2Proof.Machine
end
